-- ==== Sys2Proof/Word.lean ====
section
/-! DEFINITION. The word types of the LGS-OMX16 (R3: byte 8 bits, half 32, word 64) and the short names of the
address-like vectors. Everything a test could show wrong (bit fields, extension, byte order) stands in Machine/Bits.lean. -/

namespace Sys2Proof

/-- One byte of memory (R3). -/
abbrev Byte := BitVec 8

/-- A half: 32 bits (R3). -/
abbrev Half := BitVec 32

/-- A word: 64 bits, the width of a register entry and of a sync word (R3). -/
abbrev Word := BitVec 64

/-- A program counter: the 55-bit byte address of a head (R103). -/
abbrev Pc := BitVec 55

/-- A core id: stack [19:16], y [15:8], x [7:0] (R12). -/
abbrev CoreId := BitVec 20

/-- A virtual device number, 0-2,047 (R265). -/
abbrev VDev := BitVec 11

end Sys2Proof
end

