-- ==== Sys2Proof/Machine/Bits.lean ====
section
/-! DEFINITION. Bit fields, sign extension and byte order (R2), and the sorted association tables in which the state
holds everything that is sparse. -/

namespace Sys2Proof

/-- Field `[hi:lo]` of a natural number read as bits (R2, R8). -/
def bitsOf (n hi lo : Nat) : Nat := (n >>> lo) % 2 ^ (hi + 1 - lo)

/-- Field `[hi:lo]` of a word (R2). -/
def field (w : Word) (hi lo : Nat) : Nat := bitsOf w.toNat hi lo

/-- Bit `i` of a number. -/
def bitOf (n i : Nat) : Bool := (n >>> i) % 2 == 1

/-- The value of a little-endian byte list: the lowest-addressed byte holds bits [7:0] (R2). -/
def leNat : List Byte → Nat
  | [] => 0
  | b :: bs => b.toNat + 256 * leNat bs

/-- The `k` low bytes of a number, lowest first (R2). -/
def leBytes : Nat → Nat → List Byte
  | 0, _ => []
  | k + 1, n => BitVec.ofNat 8 n :: leBytes k (n / 256)

/-- Two's complement reading of the low `w` bits of `n`. -/
def sintOf (w n : Nat) : Int :=
  let m := n % 2 ^ w
  if m ≥ 2 ^ (w - 1) then (m : Int) - (2 ^ w : Nat) else m

/-- Truncation of an integer to a word, modulo 2^64 (R33). -/
def wordOfInt (i : Int) : Word := BitVec.ofInt 64 i

/-- Sign-extension of a 32-bit immediate to a word (R108). -/
def sext32 (i : BitVec 32) : Word := i.signExtend 64

/-- The little-endian words of a byte list, eight bytes each. -/
def leWords : List Byte → Nat → List Word
  | _, 0 => []
  | bs, k + 1 => BitVec.ofNat 64 (leNat (bs.take 8)) :: leWords (bs.drop 8) k

/-- The bytes of a list of words, each little-endian. -/
def wordBytes (ws : List Word) : List Byte := ws.flatMap (fun w => leBytes 8 w.toNat)

/-- An association table: keys strictly rising. Everything sparse in the state is held in this one form, so that
equal contents are equal data. -/
abbrev Tbl (α : Type) := List (Nat × α)

/-- The entry at key `k`, if the table lists one. -/
def Tbl.find? {α : Type} : Tbl α → Nat → Option α
  | [], _ => none
  | (j, a) :: t, k => if j = k then some a else if k < j then none else Tbl.find? t k

/-- `t` with `k` bound to `a`, in key order. -/
def Tbl.put {α : Type} : Tbl α → Nat → α → Tbl α
  | [], k, a => [(k, a)]
  | (j, b) :: t, k, a =>
    if k < j then (k, a) :: (j, b) :: t
    else if k = j then (k, a) :: t
    else (j, b) :: Tbl.put t k a

/-- `t` without an entry for `k`. -/
def Tbl.del {α : Type} : Tbl α → Nat → Tbl α
  | [], _ => []
  | (j, b) :: t, k => if j = k then t else if k < j then (j, b) :: t else (j, b) :: Tbl.del t k

/-- The entry at `k`, or `d` where none is listed. -/
def Tbl.get {α : Type} (t : Tbl α) (k : Nat) (d : α) : α := (Tbl.find? t k).getD d

/-- Changes the entry at `k`, if there is one. -/
def Tbl.mod {α : Type} (t : Tbl α) (k : Nat) (f : α → α) : Tbl α :=
  match Tbl.find? t k with
  | some a => Tbl.put t k (f a)
  | none => t

/-- The table's keys, rising. -/
def Tbl.keys {α : Type} (t : Tbl α) : List Nat := t.map Prod.fst

/-- The least number below `n` that is no key of the table. -/
def Tbl.free {α : Type} (t : Tbl α) (n : Nat) : Option Nat :=
  (List.range n).find? (fun k => (Tbl.find? t k).isNone)

/-- The table's keys rise strictly. -/
def Tbl.wf {α : Type} : Tbl α → Bool
  | [] => true
  | [_] => true
  | (j, _) :: (k, b) :: t => j < k && Tbl.wf ((k, b) :: t)

/-- Floor division of integers, towards minus infinity (R51). -/
def floorDiv (a : Int) (b : Nat) : Int := Int.fdiv a b

/-- The remainder of `floorDiv`, in 0 to b − 1 for b > 0 (R51). -/
def floorMod (a : Int) (b : Nat) : Int := Int.fmod a b

/-- The least `k` below `n` that `p` holds of. -/
def leastBelow (n : Nat) (p : Nat → Bool) : Option Nat := (List.range n).find? p

/-- Rounded-up division. -/
def ceilDiv (a b : Nat) : Nat := (a + b - 1) / b

/-- The unit ranges of the numbers 0 to n − 1 over which a fold runs: `foldN n f a` is f (n−1) (… (f 0 a)). -/
def foldN {α : Type} (n : Nat) (f : Nat → α → α) (a : α) : α := (List.range n).foldl (fun acc i => f i acc) a

end Sys2Proof
end

