-- ==== Sys2Proof/Syntax.lean ====
section
/-! DEFINITION. The part's steps as syntax: one constructor of `Instr` per row of spec/opcode_table.json. The first 148
are the encoded instructions (R114), each with its guard (R98) and its decoded operands. The other 94 are the rows
without an encoding: the steps that the part's own units, the ridge controller, the host and the board take. -/

namespace Sys2Proof

/-- The four compass directions of a neighbour port (R13, R14). -/
inductive Dir where
  | n | e | s | w
  deriving DecidableEq, Repr

/-- A register number that R105 does not reserve. -/
inductive Reg where
  /-- x0-x127, numbers 0-127. -/
  | x (n : BitVec 7)
  /-- mN, mE, mS, mW, numbers 224-227. -/
  | port (d : Dir)
  /-- mbx, number 228. -/
  | mbx
  /-- zr, number 229. -/
  | zr
  /-- h0-h7, numbers 230-237. -/
  | h (n : BitVec 3)
  deriving DecidableEq, Repr

/-- A guard: predicate p0-p7, possibly negated (R98). -/
structure Guard where
  neg : Bool
  p : BitVec 3
  deriving DecidableEq, Repr

/-- The rounding modes of R39. -/
inductive Rnd where
  | ne | rz | ru | rd
  deriving DecidableEq, Repr

/-- The scalar float formats that an ff field names (R109). -/
inductive FF where
  | fp32 | bf16 | fp16
  deriving DecidableEq, Repr

/-- A float modifier byte: rounding, saturation and format (R109). -/
structure FMod where
  rnd : Rnd
  sat : Bool
  ff : FF
  deriving DecidableEq, Repr

/-- A float modifier byte whose ff is not a choice: rounding and saturation (R109). -/
structure RMod where
  rnd : Rnd
  sat : Bool
  deriving DecidableEq, Repr

/-- The conditions of CMP and CMPI (R309). -/
inductive Cond where
  | eq | ne | lt | le | gt | ge | ltu | leu | gtu | geu
  deriving DecidableEq, Repr

/-- The conditions of FCMP (R321). -/
inductive FCond where
  | eq | ne | lt | le | gt | ge
  deriving DecidableEq, Repr

/-- The scopes of FENCE (R154). -/
inductive Scope where
  | thread | core | plot | stack | part | module | sys
  deriving DecidableEq, Repr

/-- The scopes SMAP permits: 0 and module map coherent entries, core maps private ones (R124). -/
inductive MapScope where
  | none | core | module
  deriving DecidableEq, Repr

/-- The scopes SWB permits (R124). -/
inductive WbScope where
  | none | module | sys
  deriving DecidableEq, Repr

/-- A memory modifier byte: fo 0-11 and raw (R109); its scope field is zero wherever this type is used. -/
structure MMod where
  fo : BitVec 4
  raw : Bool
  deriving DecidableEq, Repr

/-- The format codes of FCVT (R115). -/
inductive CvtFmt where
  | fp32 | bf16 | fp16 | e4m3 | e5m2 | i8 | i16 | i32 | i64 | u8 | u16 | u32 | u64
  deriving DecidableEq, Repr

/-- The operand formats of a matrix command's fmt field (R112). -/
inductive MFmt where
  | ptr | bf16 | fp16 | e4m3 | e5m2 | bfp8 | bfp4 | int8
  deriving DecidableEq, Repr

/-- The fields of a matrix command's tail beside its block (R112, R342). -/
structure MTail where
  sa : BitVec 8
  sb : BitVec 8
  ec : BitVec 2
  hi : Bool
  fmt : MFmt
  nu : BitVec 8
  deriving DecidableEq, Repr

/-- What a REFUSAL_RESEND step resends: the packet with this place in the mesh, or the refused sync request of the
thread in this slot (R73, R128). -/
inductive Resend where
  | wire (k : Nat)
  | sync (core : CoreId) (slot : Nat)
  deriving DecidableEq, Repr

/-- The outcome that a self-test finds (R262, R284); a repaired core may pass with fewer usable registers. -/
inductive TestResult where
  | pass | fenced | dark
  | repaired (usable : Nat)
  deriving DecidableEq, Repr

/-- The delivery services of a queue pair (R265); the last one is not supported. -/
inductive UeService where
  | reliableUnordered | reliableOrdered | unreliableUnordered | idempotent
  deriving DecidableEq, Repr

/-- What a host's atomic carries (R265): a 64-bit word, or an operation or a width, by number, that the module does not support. -/
inductive UeOperand where
  | word (v : Word)
  | other (op width : Nat)
  deriving DecidableEq, Repr

/-- What a queue pair is asked to be (R265): a launch queue pair or a data queue pair, the endpoint address of its peer and its
delivery service. -/
structure PairKind where
  launch : Bool
  endpoint : Nat
  service : UeService
  deriving DecidableEq, Repr

/-- One owner's entry in a signed configuration (R270, R272): weight, slot quota, pool reservations and the
entitlements of R274. -/
structure OwnerEntry where
  vdev : VDev
  weight : Nat
  quota : Nat
  resLaunch : Nat
  resArrival : Nat
  resSpill : Nat
  resLanding : Nat
  resMailbox : Nat
  resOverflow : Nat
  resHandles : Nat
  turnsPerWindow : Nat
  energyPerWindow : Nat
  deriving DecidableEq, Repr

/-- An owner configuration that the pod's authority signs (R270): its sequence number, its owners, the bytes that
were signed and whether the signature verifies. -/
structure OwnerCfg where
  seq : Nat
  owners : List OwnerEntry
  image : List Byte
  signed : Bool
  deriving DecidableEq, Repr

/-- A management write of protected state (R276) other than ERATE. -/
inductive MgmtWrite where
  /-- CAPK of one core (R220). -/
  | capk (core : CoreId) (part : BitVec 16) (gen : Half)
  /-- OCCLIM of a device's context on a core (R132). -/
  | occlim (core : CoreId) (vdev : VDev) (stash : BitVec 10) (slice : BitVec 11)
  /-- A device's grant in a domain, bit 0 R, bit 1 W, bit 2 X (R192). -/
  | rights (vdev : VDev) (domain : BitVec 16) (grant : BitVec 3)
  /-- One entry of the frame ownership table (R200). -/
  | granule (g : Nat) (owner : VDev) (valid : Bool) (shared : Bool)
  /-- One page-table entry at a physical address (R198). -/
  | pte (pa : Nat) (entry : Word)
  /-- An entry of the landing-handler table of a device's context on a core (R176). -/
  | landing (core : CoreId) (vdev : VDev) (idx : BitVec 8) (entry : Word)
  /-- The service line that management gives a device's context on a core (R199). -/
  | service (core : CoreId) (vdev : VDev) (ga : Pc)
  /-- A core's command window address (R223). -/
  | window (core : CoreId) (ga : Pc)
  /-- A frame added to a device's frame pool (R199). -/
  | frame (vdev : VDev) (pa : Nat)
  /-- A debugger's breakpoint on a core (R202). -/
  | breakpoint (core : CoreId) (pc : Pc) (set : Bool)
  /-- A revocation of a partition's region handle (R184). -/
  | revoke (node : Nat) (idx : BitVec 16)
  deriving DecidableEq, Repr

/-- The steps of the part (spec/opcode_table.json, in its order). -/
inductive Instr where
  /-- NOP (R348): Takes its turn with no other effect. -/
  | nop (g : Guard)
  /-- BR (R304): Branches to PC plus a signed even byte offset. -/
  | br (g : Guard) (off : BitVec 32)
  /-- BRL (R305): Writes the link to xd and branches to PC plus offset. -/
  | brl (g : Guard) (d : Reg) (off : BitVec 32)
  /-- JMP (R332): Transfers control to the address in xa. -/
  | jmp (g : Guard) (a : Reg)
  /-- JMPL (R332): Reads xa, writes the link to xd and transfers to xa. -/
  | jmpl (g : Guard) (d : Reg) (a : Reg)
  /-- LOOP (R339): Decrements xd and branches while it is non-zero. -/
  | loop (g : Guard) (d : Reg) (off : BitVec 32)
  /-- CHUNK (R157): Ends the current chunk with no other effect. -/
  | chunk (g : Guard)
  /-- FENCE (R154): Ends the chunk and waits until earlier packets in the scope are accepted and private dirty lines are written back. -/
  | fence (g : Guard) (sc : Scope)
  /-- IFENCE (R157): Ends the chunk and empties the slot's fetch buffer. -/
  | ifence (g : Guard)
  /-- FLUSHI (R157): Writes back dirty stash lines of a range and removes them from the fetch buffer. -/
  | flushi (g : Guard) (a : Reg) (b : Reg)
  /-- TRAP (R368): Ends the chunk and raises SOFT to UHV with h1 = n. -/
  | trap (g : Guard) (n : BitVec 16)
  /-- URET (R369): Returns from a user-level handler and frees the shadow set. -/
  | uret (g : Guard)
  /-- ERET (R207): Resumes a fibre from the save area that FSAVE names and re-arms FSAVE. -/
  | eret (g : Guard)
  /-- EXIT (R316): Ends the chunk and ends the thread once it commits. -/
  | exit (g : Guard)
  /-- TASKEND (R367): Ends the thread as EXIT and discards the task's undispatched SPAWN records. -/
  | taskend (g : Guard)
  /-- YIELD (R373): Forfeits the next seven turns unless a payload, mailbox entry or channel word arrives first. -/
  | yield (g : Guard)
  /-- HALTD (R328): Halts or releases another core's slots 0-61, optionally waiting for drain. -/
  | haltd (g : Guard) (a : Reg) (drain : Bool)
  /-- TICK (R136): Advances the task's block clock by n, checks deadlines of the task's stash lines and records a BPERIOD pair. -/
  | tick (g : Guard) (n : BitVec 16)
  /-- LEVEL (R338): Sets or clears the thread's level bit. -/
  | level (g : Guard) (on : Bool)
  /-- CSRR (R311): Reads a CSR into xd. -/
  | csrr (g : Guard) (d : Reg) (csr : BitVec 12)
  /-- CSRW (R311): Writes a CSR's RW fields from xa. -/
  | csrw (g : Guard) (a : Reg) (csr : BitVec 12)
  /-- CSRS (R311): Sets bits of a CSR's RW fields from xa. -/
  | csrs (g : Guard) (a : Reg) (csr : BitVec 12)
  /-- CSRC (R311): Clears bits of a CSR's RW fields from xa. -/
  | csrc (g : Guard) (a : Reg) (csr : BitVec 12)
  /-- PLBW (R194): Sets the context's rights mask for a domain on this core. -/
  | plbw (g : Guard) (a : Reg) (b : Reg)
  /-- PINC (R194): Raises the program pin count of the frame holding a page at commit. -/
  | pinc (g : Guard) (a : Reg)
  /-- PDEC (R194): Lowers the program pin count of the frame holding a page at commit. -/
  | pdec (g : Guard) (a : Reg)
  /-- ADD (R297): Adds two registers, wrapping or saturating. -/
  | add (g : Guard) (d : Reg) (a : Reg) (b : Reg) (sat : Bool)
  /-- SUB (R349): Subtracts two registers, wrapping or saturating. -/
  | sub (g : Guard) (d : Reg) (a : Reg) (b : Reg) (sat : Bool)
  /-- MUL (R345): Multiplies two registers, low 64 bits or saturated. -/
  | mul (g : Guard) (d : Reg) (a : Reg) (b : Reg) (sat : Bool)
  /-- MULH (R345): Writes the high 64 bits of the signed product. -/
  | mulh (g : Guard) (d : Reg) (a : Reg) (b : Reg)
  /-- MULHU (R345): Writes the high 64 bits of the unsigned product. -/
  | mulhu (g : Guard) (d : Reg) (a : Reg) (b : Reg)
  /-- DIV (R297): Signed division truncated towards zero. -/
  | div (g : Guard) (d : Reg) (a : Reg) (b : Reg)
  /-- DIVU (R297): Unsigned division. -/
  | divu (g : Guard) (d : Reg) (a : Reg) (b : Reg)
  /-- REM (R349): Signed remainder. -/
  | rem (g : Guard) (d : Reg) (a : Reg) (b : Reg)
  /-- REMU (R349): Unsigned remainder. -/
  | remu (g : Guard) (d : Reg) (a : Reg) (b : Reg)
  /-- AND (R297): Bitwise AND. -/
  | and (g : Guard) (d : Reg) (a : Reg) (b : Reg)
  /-- OR (R349): Bitwise OR. -/
  | or (g : Guard) (d : Reg) (a : Reg) (b : Reg)
  /-- XOR (R349): Bitwise XOR. -/
  | xor (g : Guard) (d : Reg) (a : Reg) (b : Reg)
  /-- ANDN (R297): xa AND NOT xb. -/
  | andn (g : Guard) (d : Reg) (a : Reg) (b : Reg)
  /-- SHL (R356): Shifts left by xb[5:0]. -/
  | shl (g : Guard) (d : Reg) (a : Reg) (b : Reg)
  /-- SHR (R356): Logical right shift by xb[5:0]. -/
  | shr (g : Guard) (d : Reg) (a : Reg) (b : Reg)
  /-- SAR (R356): Arithmetic right shift by xb[5:0]. -/
  | sar (g : Guard) (d : Reg) (a : Reg) (b : Reg)
  /-- ROL (R356): Rotates left by xb[5:0]. -/
  | rol (g : Guard) (d : Reg) (a : Reg) (b : Reg)
  /-- ROR (R356): Rotates right by xb[5:0]. -/
  | ror (g : Guard) (d : Reg) (a : Reg) (b : Reg)
  /-- MIN (R340): Signed minimum. -/
  | min (g : Guard) (d : Reg) (a : Reg) (b : Reg)
  /-- MAX (R340): Signed maximum. -/
  | max (g : Guard) (d : Reg) (a : Reg) (b : Reg)
  /-- MINU (R340): Unsigned minimum. -/
  | minu (g : Guard) (d : Reg) (a : Reg) (b : Reg)
  /-- MAXU (R340): Unsigned maximum. -/
  | maxu (g : Guard) (d : Reg) (a : Reg) (b : Reg)
  /-- NEG (R347): Negates xa, wrapping or saturating. -/
  | neg (g : Guard) (d : Reg) (a : Reg) (sat : Bool)
  /-- ABS (R295): Signed magnitude of xa, wrapping or saturating. -/
  | abs (g : Guard) (d : Reg) (a : Reg) (sat : Bool)
  /-- CLZ (R295): Counts leading zero bits. -/
  | clz (g : Guard) (d : Reg) (a : Reg)
  /-- POPC (R347): Counts one bits. -/
  | popc (g : Guard) (d : Reg) (a : Reg)
  /-- SEL (R358): Selects xa or xb by a predicate. -/
  | sel (g : Guard) (d : Reg) (k : BitVec 4) (a : Reg) (b : Reg)
  /-- CMP (R309): Compares two registers into a predicate. -/
  | cmp (g : Guard) (pd : BitVec 4) (c : Cond) (a : Reg) (b : Reg)
  /-- MOV (R344): Copies xa to xd. -/
  | mov (g : Guard) (d : Reg) (a : Reg)
  /-- PAND (R352): Predicate AND. -/
  | pand (g : Guard) (pd : BitVec 4) (pa : BitVec 4) (pb : BitVec 4)
  /-- POR (R352): Predicate OR. -/
  | por (g : Guard) (pd : BitVec 4) (pa : BitVec 4) (pb : BitVec 4)
  /-- PXOR (R352): Predicate XOR. -/
  | pxor (g : Guard) (pd : BitVec 4) (pa : BitVec 4) (pb : BitVec 4)
  /-- PNOT (R352): Predicate NOT. -/
  | pnot (g : Guard) (pd : BitVec 4) (pa : BitVec 4)
  /-- PMOV (R352): Predicate move. -/
  | pmov (g : Guard) (pd : BitVec 4) (pa : BitVec 4)
  /-- ADDI (R298): Adds a sign-extended immediate. -/
  | addi (g : Guard) (d : Reg) (a : Reg) (imm : BitVec 32) (sat : Bool)
  /-- ANDI (R298): ANDs a sign-extended immediate. -/
  | andi (g : Guard) (d : Reg) (a : Reg) (imm : BitVec 32)
  /-- ORI (R350): ORs a sign-extended immediate. -/
  | ori (g : Guard) (d : Reg) (a : Reg) (imm : BitVec 32)
  /-- XORI (R350): XORs a sign-extended immediate. -/
  | xori (g : Guard) (d : Reg) (a : Reg) (imm : BitVec 32)
  /-- SHLI (R357): Shifts left by an immediate count. -/
  | shli (g : Guard) (d : Reg) (a : Reg) (n : BitVec 6)
  /-- SHRI (R357): Logical right shift by an immediate count. -/
  | shri (g : Guard) (d : Reg) (a : Reg) (n : BitVec 6)
  /-- SARI (R357): Arithmetic right shift by an immediate count. -/
  | sari (g : Guard) (d : Reg) (a : Reg) (n : BitVec 6)
  /-- CMPI (R309): Compares a register with an immediate into a predicate. -/
  | cmpi (g : Guard) (pd : BitVec 4) (c : Cond) (a : Reg) (imm : BitVec 32)
  /-- MOVI (R344): Loads a sign-extended 32-bit immediate. -/
  | movi (g : Guard) (d : Reg) (imm : BitVec 32)
  /-- MOVHI (R344): Sets the high 32 bits of xd from an immediate. -/
  | movhi (g : Guard) (d : Reg) (imm : BitVec 32)
  /-- PADD_REG (R351): Advances a fat pointer by a register element count per the chunk layout. -/
  | paddReg (g : Guard) (d : Reg) (a : Reg) (b : Reg)
  /-- PADD_IMM (R351): Advances a fat pointer by an immediate element count per the chunk layout. -/
  | paddImm (g : Guard) (d : Reg) (a : Reg) (imm : BitVec 32)
  /-- PFMT (R353): Sets a pointer's format code and L. -/
  | pfmt (g : Guard) (d : Reg) (a : Reg) (code : BitVec 5) (l : BitVec 4)
  /-- PTAG (R353): Reads a pointer's format code and L. -/
  | ptag (g : Guard) (d : Reg) (a : Reg)
  /-- CONTID (R310): Writes the continuation id of one of the thread's registers. -/
  | contid (g : Guard) (d : Reg) (n : BitVec 8)
  /-- FADD (R318): Rounded float addition. -/
  | fadd (g : Guard) (d : Reg) (a : Reg) (b : Reg) (m : FMod)
  /-- FSUB (R318): Rounded float subtraction. -/
  | fsub (g : Guard) (d : Reg) (a : Reg) (b : Reg) (m : FMod)
  /-- FMUL (R318): Rounded float multiplication. -/
  | fmul (g : Guard) (d : Reg) (a : Reg) (b : Reg) (m : FMod)
  /-- FDIV (R318): Rounded float division. -/
  | fdiv (g : Guard) (d : Reg) (a : Reg) (b : Reg) (m : FMod)
  /-- FSQRT (R317): Rounded float square root. -/
  | fsqrt (g : Guard) (d : Reg) (a : Reg) (m : FMod)
  /-- FMA (R324): Fused multiply-add with one rounding. -/
  | fma (g : Guard) (d : Reg) (a : Reg) (b : Reg) (c : Reg) (m : FMod)
  /-- FPMA (R324): Fused multiply-add on two FP32 lanes. -/
  | fpma (g : Guard) (d : Reg) (a : Reg) (b : Reg) (c : Reg) (r : RMod)
  /-- FMIN (R319): Float minimum with -0 below +0. -/
  | fmin (g : Guard) (d : Reg) (a : Reg) (b : Reg) (f : FF)
  /-- FMAX (R319): Float maximum with -0 below +0. -/
  | fmax (g : Guard) (d : Reg) (a : Reg) (b : Reg) (f : FF)
  /-- FABS (R317): Clears the float sign. -/
  | fabs (g : Guard) (d : Reg) (a : Reg) (f : FF)
  /-- FNEG (R317): Reverses the float sign. -/
  | fneg (g : Guard) (d : Reg) (a : Reg) (f : FF)
  /-- FCMP (R321): Compares two floats into a predicate. -/
  | fcmp (g : Guard) (pd : BitVec 4) (c : FCond) (f : FF) (a : Reg) (b : Reg)
  /-- FCVT (R322): Converts between float and integer formats. -/
  | fcvt (g : Guard) (d : Reg) (a : Reg) (r : RMod) (tgt : CvtFmt) (src : CvtFmt)
  /-- FCLASS (R320): Classifies a float into one of ten bits. -/
  | fclass (g : Guard) (d : Reg) (a : Reg) (f : FF)
  /-- BDOT (R301): Dot product of two BFP blocks in memory, rounded once to FP32. -/
  | bdot (g : Guard) (d : Reg) (a : Reg) (b : Reg) (r : RMod)
  /-- BDQ (R302): Dequantises a BFP block to FP32, BF16 or FP16 in memory. -/
  | bdq (g : Guard) (d : Reg) (a : Reg) (m : FMod)
  /-- BQNT (R303): Quantises 32 float elements into a BFP block in memory. -/
  | bqnt (g : Guard) (d : Reg) (a : Reg) (spread : BitVec 4)
  /-- VARGMAX (R370): Index of the first greatest lane of two packed registers. -/
  | vargmax (g : Guard) (d : Reg) (a : Reg) (b : Reg) (f : FF)
  /-- VPERM (R370): Permutes packed float lanes by selector nibbles. -/
  | vperm (g : Guard) (d : Reg) (a : Reg) (b : Reg) (f : FF)
  /-- VSUM (R370): Exact sum of all lanes of two registers, rounded once. -/
  | vsum (g : Guard) (d : Reg) (a : Reg) (b : Reg) (m : FMod)
  /-- LD (R335): Loads and converts one element by its effective format. -/
  | ld (g : Guard) (d : Reg) (b : Reg) (m : MMod) (nu : BitVec 8) (off : BitVec 16)
  /-- ST (R363): Stores one element, held until the chunk commits. -/
  | st (g : Guard) (d : Reg) (b : Reg) (m : MMod) (nu : BitVec 8) (off : BitVec 16)
  /-- LDP (R336): Loads 16 bytes into a register pair. -/
  | ldp (g : Guard) (d : Reg) (b : Reg) (nu : BitVec 8) (off : BitVec 16)
  /-- STP (R363): Stores a register pair as 16 bytes. -/
  | stp (g : Guard) (d : Reg) (b : Reg) (nu : BitVec 8) (off : BitVec 16)
  /-- PREF (R355): Prefetches one line without waiting or trapping. -/
  | pref (g : Guard) (b : Reg) (nu : BitVec 8) (off : BitVec 16)
  /-- SMAP (R124): Maps a range of lines into the core's stash. -/
  | smap (g : Guard) (b : Reg) (d : Reg) (sc : MapScope) (nu : BitVec 8)
  /-- SWB (R124): Writes back dirty stash lines of a range. -/
  | swb (g : Guard) (a : Reg) (b : Reg) (sc : WbScope)
  /-- SDROP (R124): Writes back and unmaps stash lines of a range. -/
  | sdrop (g : Guard) (a : Reg) (b : Reg)
  /-- AADD (R293): Atomic fetch-and-add at the word's home. -/
  | aadd (g : Guard) (d : Reg) (b : Reg) (v : Reg) (off : BitVec 16)
  /-- AADDC (R237): Capped atomic fetch-and-add at the word's home. -/
  | aaddc (g : Guard) (d : Reg) (b : Reg) (v : Reg) (off : BitVec 16)
  /-- AAND (R293): Atomic fetch-and-AND. -/
  | aand (g : Guard) (d : Reg) (b : Reg) (v : Reg) (off : BitVec 16)
  /-- AOR (R293): Atomic fetch-and-OR. -/
  | aor (g : Guard) (d : Reg) (b : Reg) (v : Reg) (off : BitVec 16)
  /-- AXOR (R293): Atomic fetch-and-XOR. -/
  | axor (g : Guard) (d : Reg) (b : Reg) (v : Reg) (off : BitVec 16)
  /-- AMIN (R293): Atomic signed fetch-and-min. -/
  | amin (g : Guard) (d : Reg) (b : Reg) (v : Reg) (off : BitVec 16)
  /-- AMAX (R293): Atomic signed fetch-and-max. -/
  | amax (g : Guard) (d : Reg) (b : Reg) (v : Reg) (off : BitVec 16)
  /-- ASWAP (R293): Atomic swap. -/
  | aswap (g : Guard) (d : Reg) (b : Reg) (v : Reg) (off : BitVec 16)
  /-- ACAS (R296): Atomic compare-and-swap. -/
  | acas (g : Guard) (d : Reg) (b : Reg) (v : Reg) (off : BitVec 16)
  /-- LDS (R127): Sync load: waits for full, reads and empties the word. -/
  | lds (g : Guard) (d : Reg) (b : Reg) (nu : BitVec 8) (off : BitVec 16)
  /-- STS (R127): Sync store: waits for empty, writes and fills the word. -/
  | sts (g : Guard) (d : Reg) (b : Reg) (nu : BitVec 8) (off : BitVec 16)
  /-- LDF (R127): Reads a word only if it is full, never waiting. -/
  | ldf (g : Guard) (d : Reg) (b : Reg) (nu : BitVec 8) (off : BitVec 16)
  /-- FEC (R127): Sets a word's full/empty bit to empty. -/
  | fec (g : Guard) (b : Reg) (nu : BitVec 8) (off : BitVec 16)
  /-- FEF (R127): Sets a word's full/empty bit to full. -/
  | fef (g : Guard) (b : Reg) (nu : BitVec 8) (off : BitVec 16)
  /-- JOIN (R333): Decrements a join counter and posts its stored record at zero. -/
  | join (g : Guard) (pd : BitVec 4) (a : Reg)
  /-- SPAWN (R361): Queues a local thread of the spawner's task if below SPLIM. -/
  | spawn (g : Guard) (pd : BitVec 4) (a : Reg) (b : Reg)
  /-- POST (R354): Sends a continuation record to the dispatch core of its data. -/
  | post (g : Guard) (a : Reg)
  /-- HOP (R330): Moves the thread's travelling context to the home of an address. -/
  | hop (g : Guard) (a : Reg)
  /-- SUSP (R365): Clears the wake bit or suspends until a payload arrives. -/
  | susp (g : Guard)
  /-- SEND (R360): Sends 1-8 words to a continuation id or mailbox id. -/
  | send (g : Guard) (a : Reg) (b : Reg) (nm1 : BitVec 3)
  /-- WAITM (R371): Waits until the mailbox queue is non-empty. -/
  | waitm (g : Guard)
  /-- MBXPOP (R341): Takes the head mailbox entry into a register group. -/
  | mbxpop (g : Guard) (a : Reg)
  /-- ALT (R299): Waits until one selected channel end or the mailbox is ready and names it. -/
  | alt (g : Guard) (d : Reg) (mask : BitVec 5) (fair : Bool)
  /-- CHOPEN (R307): Binds a channel end to the slot as send or receive end. -/
  | chopen (g : Guard) (n : BitVec 8) (a : Reg) (b : Reg)
  /-- CHGRANT (R307): Sends allowance to the peer send end. -/
  | chgrant (g : Guard) (n : BitVec 8) (a : Reg)
  /-- CHSEND (R307): Waits for allowance and sends one word on a channel. -/
  | chsend (g : Guard) (n : BitVec 8) (a : Reg)
  /-- CHRECV (R307): Waits for and takes the oldest buffered channel word. -/
  | chrecv (g : Guard) (d : Reg) (n : BitVec 8)
  /-- CHCLOSE (R307): Discards buffered words and unbinds a channel end. -/
  | chclose (g : Guard) (n : BitVec 8)
  /-- CPYQ (R173): Checks a copy request and hands it to the barrow. -/
  | cpyq (g : Guard) (blk : Reg) (ec : BitVec 2) (pin : Bool) (nu : BitVec 8)
  /-- CPYST (R187): Reports the state of the oldest copy with a tag. -/
  | cpyst (g : Guard) (d : Reg) (a : Reg)
  /-- CPYCAN (R186): Cancels the core's copies with a tag. -/
  | cpycan (g : Guard) (a : Reg)
  /-- WAITC (R180): Waits at the home until a counter reaches a threshold. -/
  | waitc (g : Guard) (a : Reg) (b : Reg)
  /-- LANDST (R177): Writes an element of an owned destination line from a landing handler. -/
  | landst (g : Guard) (d : Reg) (b : Reg) (m : MMod) (nu : BitVec 8) (off : BitVec 16)
  /-- LANDEND (R178): Completes the landing of a packet. -/
  | landend (g : Guard)
  /-- MMA (R218): Queues a single matrix tile step. -/
  | mma (g : Guard) (blk : Reg) (t : MTail)
  /-- MMR (R219): Queues a ring matrix multiply. -/
  | mmr (g : Guard) (blk : Reg) (t : MTail)
  /-- MQ (R218): Queues a matrix command described by a descriptor. -/
  | mq (g : Guard) (blk : Reg) (t : MTail)
  /-- MCMD (R220): Sends a matrix command with a capability to another core's unit. -/
  | mcmd (g : Guard) (blk : Reg) (t : MTail) (core : CoreId)
  /-- MWAIT (R346): Waits until the thread's commands in a queue have completed. -/
  | mwait (g : Guard) (hi : Bool)
  /-- WALK (R226): Starts the trellis on up to 16 rows down a tree of matrices. -/
  | walk (g : Guard) (d : Reg) (blk : Reg) (ec : BitVec 2) (resume : Bool) (nu : BitVec 8)
  /-- FOREST (R231): Sums an ensemble of split trees for up to 16 samples. -/
  | forest (g : Guard) (d : Reg) (blk : Reg) (ec : BitVec 2) (nu : BitVec 8)
  /-- GBFAC (R244): Computes and delivers a factor-to-variable Gaussian message. -/
  | gbfac (g : Guard) (blk : Reg) (ec : BitVec 2) (nu : BitVec 8)
  /-- GBVAR (R246): Forms a variable's belief and delivers outgoing messages. -/
  | gbvar (g : Guard) (blk : Reg) (ec : BitVec 2) (nu : BitVec 8)
  /-- GBPOP (R249): Takes the next record from the context's firing queue. -/
  | gbpop (g : Guard) (a : Reg)
  /-- GBWR (R250): Writes a message image into a slot and applies the push rule. -/
  | gbwr (g : Guard) (blk : Reg) (ec : BitVec 2) (nu : BitVec 8)
  /-- DISPATCH (R64): Fills a free slot from the arrival queues or task queue with a new thread. -/
  | dispatch (core : CoreId)
  /-- TASK_RECORD_ARRIVAL (R63): A posted, spawned or launch record reaches a task queue or its spill region. -/
  | taskRecordArrival (k : Nat)
  /-- HOP_ARRIVAL (R69): A travelling context enters its context's arrival queue or spill area. -/
  | hopArrival (k : Nat)
  /-- ARRIVAL_REFILL (R190): The riddle refills the arrival queue from the spill area when it has room. -/
  | arrivalRefill (core : CoreId)
  /-- MESSAGE_ARRIVAL (R72): A SEND payload is written to registers or queued in the mailbox. -/
  | messageArrival (k : Nat)
  /-- REFUSAL_RESEND (R73): A refused packet or request is resent 64 cycles later. -/
  | refusalResend (w : Resend)
  /-- PORT_WORD_ARRIVAL (R77): A neighbour-port word enters the claimed FIFO or is refused. -/
  | portWordArrival (k : Nat)
  /-- CHANNEL_WORD_ARRIVAL (R78): A channel word reaches a receive end's buffer. -/
  | channelWordArrival (k : Nat)
  /-- CHANNEL_GRANT_ARRIVAL (R307): A grant count reaches the peer send end and adds to its allowance. -/
  | channelGrantArrival (k : Nat)
  /-- RAKE_SAMPLE (R80): Every 4,096 cycles the rake may move one movable task entry to a neighbour. -/
  | rakeSample (core : CoreId)
  /-- USER_HANDLER_ENTRY (R82): A pending interrupt or hand-back vectors the thread to UHV at a boundary. -/
  | userHandlerEntry (core : CoreId)
  /-- MEMORY_REPLY (R53): A reply from a home is applied and the waiting thread re-enters the rotation. -/
  | memoryReply (core : CoreId) (slot : Nat)
  /-- HOME_ACCESS (R120): A load, store, write-back or prefetch request is served at the home slice. -/
  | homeAccess (k : Nat)
  /-- SLICE_FILL (R143): A slice miss fills a way from DRAM after choosing a victim. -/
  | sliceFill (pa : Nat)
  /-- SYNC_AT_HOME (R127): A sync operation is applied to its word at the home or parks. -/
  | syncAtHome (k : Nat)
  /-- ATOMIC_AT_HOME (R294): An atomic is performed at its word's home. -/
  | atomicAtHome (k : Nat)
  /-- JOIN_AT_HOME (R333): A JOIN is performed at its counter's home, posting the record at one. -/
  | joinAtHome (k : Nat)
  /-- PARK_RETRY (R128): A parked sync operation is retried every 64 cycles and may return the limit. -/
  | parkRetry (core : CoreId) (idx : Nat)
  /-- CHUNK_COMMIT (R146): An arbiter grants commit, stores become visible and conflicting chunks are squashed. -/
  | chunkCommit (core : CoreId) (slot : Nat)
  /-- STASH_RECALL (R123): The home recalls a coherent stash entry, writing dirty bytes home. -/
  | stashRecall (pa : Nat) (write : Bool)
  /-- DIRECTORY_OVERFLOW_HANDLER (R130): The riddle adds a fifth or later sharer to the overflow list. -/
  | directoryOverflowHandler (core : CoreId)
  /-- SLICE_TICK (R139): Every 64 cycles the slice tick advances and deadlines of slice and slab lines are crossed. -/
  | sliceTick (core : CoreId)
  /-- CREDENCE_NOTICE (R142): A credence notice from a home is applied to the owner's context. -/
  | credenceNotice (k : Nat)
  /-- ENGINE_OWNERSHIP_GRANT (R150): A home records engine ownership of a destination line and grants it. -/
  | engineOwnershipGrant (cmd : Nat)
  /-- BARROW_ACCEPT (R174): The barrow accepts a copy request: handle, pins and ownership. -/
  | barrowAccept (core : CoreId)
  /-- COPY_LINE_READ (R175): The barrow reads a source line and sends its landing packets. -/
  | copyLineRead (core : CoreId)
  /-- LANDING_PACKET (R176): A landing packet is written directly or starts its landing handler. -/
  | landingPacket (core : CoreId)
  /-- COPY_COMPLETION (R181): The copy's single record is queued and pins and unwritten lines released. -/
  | copyCompletion (core : CoreId) (reg : Nat)
  /-- REVOCATION_ACK (R183): A receiving core acknowledges a region-handle revocation. -/
  | revocationAck (core : CoreId) (node : Nat) (idx : Nat)
  /-- TILE_STEP (R215): At a step boundary the matrix unit picks the ready queue and runs one tile step. -/
  | tileStep (core : CoreId)
  /-- TRIGGER_READ (R216): A triggered command reads its counter every 64 cycles. -/
  | triggerRead (core : CoreId) (hi : Bool)
  /-- RAGGED_READ (R217): A ragged command reads its row counter every 64 cycles. -/
  | raggedRead (core : CoreId) (hi : Bool)
  /-- RING_TILE_ARRIVAL (R219): A B tile arrives in the latch of the next core of a ring. -/
  | ringTileArrival (k : Nat)
  /-- MCMD_ARRIVAL (R220): A target core checks an MCMD capability and accepts or refuses it. -/
  | mcmdArrival (k : Nat)
  /-- MATRIX_COMPLETION (R221): A matrix command completes and its record and interrupt are sent. -/
  | matrixCompletion (core : CoreId) (hi : Bool)
  /-- ENERGY_REPLENISH (R225): Every 1,024 cycles each EBUD is raised by its grant up to twice the grant. -/
  | energyReplenish (core : CoreId)
  /-- WALK_STEP (R229): The trellis fetches each distinct key and advances the rows that use it. -/
  | walkStep (core : CoreId)
  /-- WALK_RETIRE (R230): WALK writes its result pair and raises WALK_FAULT if rows faulted. -/
  | walkRetire (core : CoreId)
  /-- FOREST_RETIRE (R233): FOREST writes its outputs, mask and level count at retirement. -/
  | forestRetire (core : CoreId)
  /-- GAUSS_COMMAND_DONE (R251): The message-update unit completes a command and its deliveries leave. -/
  | gaussCommandDone (core : CoreId)
  /-- GAUSS_DELIVERY (R247): A Gaussian delivery is written into its slot or returned to the sender. -/
  | gaussDelivery (core : CoreId)
  /-- TRANSLATION_WALK (R195): The walker reads page-table nodes for a miss-translation. -/
  | translationWalk (core : CoreId) (vdev : VDev) (ga : Pc)
  /-- MIGRATION_RETRY (R198): A walk meeting a migration entry retries every 256 cycles. -/
  | migrationRetry (k : Nat)
  /-- MAP_REQUEST (R199): The ridge controller maps a page through a service line. -/
  | mapRequest (core : CoreId) (ctx : Nat)
  /-- UNMAP_REQUEST (R199): The ridge controller unmaps a page through a service line. -/
  | unmapRequest (core : CoreId) (ctx : Nat)
  /-- HANDLE_CREATE (R184): The ridge controller makes a free region handle live. -/
  | handleCreate (core : CoreId) (ctx : Nat)
  /-- HANDLE_REVOKE (R184): The ridge controller advances a region handle's generation. -/
  | handleRevoke (core : CoreId) (ctx : Nat)
  /-- HANDLE_FREE (R184): The ridge controller revokes a handle and returns it to the pool. -/
  | handleFree (core : CoreId) (ctx : Nat)
  /-- PAGE_MIGRATION (R201): Management migrates or unmaps a page in six steps. -/
  | pageMigration (vdev : VDev) (ga : Pc) (frame : Option Nat)
  /-- DEBUG_BREAKPOINT (R202): A debugger breakpoint stops the thread's slot. -/
  | debugBreakpoint (core : CoreId) (slot : Nat)
  /-- LAUNCH_RECORD (R267): A 64-byte send to a launch queue pair posts or refuses a launch. -/
  | launchRecord (qp : Nat) (bytes : List Byte)
  /-- LAUNCH_START (R271): When a launch entry frees, owners' queues are served by deficit round robin. -/
  | launchStart (node : Nat)
  /-- LAUNCH_COMPLETION (R268): A finished launch produces its completion record. -/
  | launchCompletion (launch : Nat)
  /-- COMPLETION_COALESCE_EXPIRY (R269): Held completion records go out when the oldest has waited its limit. -/
  | completionCoalesceExpiry (qp : Nat)
  /-- UE_SEND (R266): An Ultra Ethernet send to a data queue pair is placed in a receive buffer. -/
  | ueSend (qp : Nat) (bytes : List Byte)
  /-- UE_WRITE (R265): An Ultra Ethernet write is performed at the homes. -/
  | ueWrite (qp : Nat) (ga : Pc) (bytes : List Byte)
  /-- UE_READ (R265): An Ultra Ethernet read is performed at the homes. -/
  | ueRead (qp : Nat) (ga : Pc) (n : Nat)
  /-- UE_FETCH_ADD (R265): An Ultra Ethernet atomic fetch-add on a 64-bit word. -/
  | ueFetchAdd (qp : Nat) (ga : Pc) (v : UeOperand)
  /-- UE_SWAP (R265): An Ultra Ethernet atomic swap on a 64-bit word. -/
  | ueSwap (qp : Nat) (ga : Pc) (v : Word)
  /-- UE_COMPARE_SWAP (R265): An Ultra Ethernet atomic compare-and-swap on a 64-bit word. -/
  | ueCompareSwap (qp : Nat) (ga : Pc) (expect : Word) (v : Word)
  /-- QUEUE_PAIR_CREATE (R265): The ridge controller creates a queue pair on request. -/
  | queuePairCreate (vdev : VDev) (port : Nat) (kind : PairKind)
  /-- PARTITION_ALLOT (R258): Management allots a free node as an idle partition. -/
  | partitionAllot (node : Nat) (owners : List VDev)
  /-- PARTITION_SPLIT (R258): Management splits a node into its two children. -/
  | partitionSplit (node : Nat)
  /-- PARTITION_MERGE (R258): Management merges two sibling nodes or is refused. -/
  | partitionMerge (node : Nat)
  /-- PARTITION_FREE (R258): Management frees an idle partition. -/
  | partitionFree (node : Nat)
  /-- PARTITION_SHRINK (R259): Management splits a partition, keeps one child and vacates the other. -/
  | partitionShrink (node : Nat) (keepFirst : Bool)
  /-- THREAD_EVICTION (R261): A thread is stopped at a boundary and saved to its spill area. -/
  | threadEviction (core : CoreId) (slot : Nat)
  /-- EVICTED_REENTRY (R262): An evicted thread re-enters an arrival queue of a core with room for its window. -/
  | evictedReentry (k : Nat)
  /-- ROTATION_HANDOVER (R263): Slots pass from an outgoing context to an incoming one within a rotation. -/
  | rotationHandover (core : CoreId) (slots : List Nat) (vdev : VDev)
  /-- LEND_SLOTS (R273): An owner lends slots on its cores to a borrower. -/
  | lendSlots (core : CoreId) (lender : VDev) (borrower : VDev) (slots : List Nat)
  /-- LEND_RECALL (R273): A recall returns lent slots within 1 ms. -/
  | lendRecall (core : CoreId) (lender : VDev)
  /-- ACCOUNTING_WINDOW (R274): Every 1,250,000 cycles owners' credit and entitlements are settled. -/
  | accountingWindow
  /-- USAGE_SNAPSHOT (R275): The ridge controller returns a signed snapshot of an owner's counters. -/
  | usageSnapshot (node : Nat) (vdev : VDev)
  /-- OWNER_CONFIGURATION (R270): A signed owner configuration is verified and takes effect. -/
  | ownerConfiguration (node : Nat) (cfg : OwnerCfg)
  /-- ERATE_WRITE (R28): Management sets an ERATE grant, refused if the sum would exceed the limit. -/
  | erateWrite (core : CoreId) (vdev : VDev) (grant : Half)
  /-- MANAGEMENT_REGISTER_WRITE (R276): Management writes other protected state such as CAPK, OCCLIM, rights or ownership tables. -/
  | managementRegisterWrite (w : MgmtWrite)
  /-- MEASURE_REQUEST (R279): The controller extends a partition measurement with a range's bytes. -/
  | measureRequest (node : Nat) (ga : Pc) (n : Nat)
  /-- ATTESTATION_REPORT (R280): The controller returns a signed attestation report for a nonce. -/
  | attestationReport (node : Nat) (nonce : List Byte)
  /-- BOOT_STAGE (R278): A boot stage is verified, measured and started. -/
  | bootStage (image : List Byte) (signed : Bool)
  /-- STBY_OK (R289): Standby power good starts power-up and CORE_EN is asserted. -/
  | stbyOk
  /-- CORE_OK (R289): CORE_OK asserted, after which MEM_EN is asserted. -/
  | coreOk
  /-- MEM_OK (R289): MEM_OK asserted, completing rail power-up. -/
  | memOk
  /-- POWER_OK_TIMEOUT (R289): An OK signal missing 20 ms after its enable drops every enable. -/
  | powerOkTimeout
  /-- POWER_DOWN (R289): Rails are dropped in reverse order with 10 ms between steps. -/
  | powerDown
  /-- THERMAL_SAMPLE (R290): A die sensor reading sets throttle or triggers thermal stop. -/
  | thermalSample (stack : Nat) (celsius : Int)
  /-- THROTTLE_RELEASE (R290): Throttle clears after every sensor reads 90 C or less for 1 ms. -/
  | throttleRelease
  /-- SELF_TEST (R284): Self-test of a core fences or darkens it on failure. -/
  | selfTest (core : CoreId) (result : TestResult)
  /-- BOUNDARY_LINK_FAILURE (R285): A failed boundary link is replaced by a spare or fails the boundary. -/
  | boundaryLinkFailure (boundary : Nat) (cacheLayer : Bool)
  /-- FULL_SERVICE_SWITCH (R288): The module switches from early to full service at a rotation boundary. -/
  | fullServiceSwitch
  /-- PATROL_SCRUB (R282): The patrol scrubber reads and corrects DRAM and slice lines. -/
  | patrolScrub (core : CoreId)
  /-- LAUNCH_ABORT (R268): Management aborts a launch, discarding its evicted threads, and the completion reports status 3 ABORTED. -/
  | launchAbort (launch : Nat)
  /-- VIRTUAL_DEVICE_CREATE (R196): Management creates a virtual device and sets its page-table root. -/
  | virtualDeviceCreate (vdev : VDev) (root : Nat)
  /-- VIRTUAL_DEVICE_DESTROY (R194): Management destroys a virtual device, which ends the stuck program pin counts of its frames. -/
  | virtualDeviceDestroy (vdev : VDev)
  /-- EARLY_SERVICE_START (R287): After stack 0's self-test and half-rate DRAM training, the controller sets service to early and stack 0 begins serving partitions. -/
  | earlyServiceStart
  deriving DecidableEq, Repr

end Sys2Proof
end

