-- ==== Sys2Proof/WellFormed.lean ====
section
/-! DEFINITION. Which terms of `Instr` an encoding can hold (R98, R108-R110, R114): the checks that the types of the
operands do not make already. -/

namespace Sys2Proof

/-- The guard 0b1000 ("never") is reserved (R98). -/
def Guard.wf (g : Guard) : Bool := !(g.neg && g.p == 0)

/-- fo is 0-11 (R109). -/
def MMod.wf (m : MMod) : Bool := m.fo.toNat ≤ 11

/-- A branch offset is even (R108). -/
def offWf (off : BitVec 32) : Bool := off.toNat % 2 == 0

/-- An integer format of FCVT (R115). -/
def CvtFmt.isInt : CvtFmt → Bool
  | .fp32 | .bf16 | .fp16 | .e4m3 | .e5m2 => false
  | .i8 | .i16 | .i32 | .i64 | .u8 | .u16 | .u32 | .u64 => true

/-- An integer to integer FCVT does not round, so its rnd is 0 (R323). -/
def cvtWf (r : RMod) (tgt src : CvtFmt) : Bool := !(tgt.isInt && src.isInt) || r.rnd == .ne

/-- The guard of an encoded instruction; a step without an encoding has none. -/
def Instr.guard? : Instr → Option Guard
  | .nop g => some g
  | .br g _ => some g
  | .brl g _ _ => some g
  | .jmp g _ => some g
  | .jmpl g _ _ => some g
  | .loop g _ _ => some g
  | .chunk g => some g
  | .fence g _ => some g
  | .ifence g => some g
  | .flushi g _ _ => some g
  | .trap g _ => some g
  | .uret g => some g
  | .eret g => some g
  | .exit g => some g
  | .taskend g => some g
  | .yield g => some g
  | .haltd g _ _ => some g
  | .tick g _ => some g
  | .level g _ => some g
  | .csrr g _ _ => some g
  | .csrw g _ _ => some g
  | .csrs g _ _ => some g
  | .csrc g _ _ => some g
  | .plbw g _ _ => some g
  | .pinc g _ => some g
  | .pdec g _ => some g
  | .add g _ _ _ _ => some g
  | .sub g _ _ _ _ => some g
  | .mul g _ _ _ _ => some g
  | .mulh g _ _ _ => some g
  | .mulhu g _ _ _ => some g
  | .div g _ _ _ => some g
  | .divu g _ _ _ => some g
  | .rem g _ _ _ => some g
  | .remu g _ _ _ => some g
  | .and g _ _ _ => some g
  | .or g _ _ _ => some g
  | .xor g _ _ _ => some g
  | .andn g _ _ _ => some g
  | .shl g _ _ _ => some g
  | .shr g _ _ _ => some g
  | .sar g _ _ _ => some g
  | .rol g _ _ _ => some g
  | .ror g _ _ _ => some g
  | .min g _ _ _ => some g
  | .max g _ _ _ => some g
  | .minu g _ _ _ => some g
  | .maxu g _ _ _ => some g
  | .neg g _ _ _ => some g
  | .abs g _ _ _ => some g
  | .clz g _ _ => some g
  | .popc g _ _ => some g
  | .sel g _ _ _ _ => some g
  | .cmp g _ _ _ _ => some g
  | .mov g _ _ => some g
  | .pand g _ _ _ => some g
  | .por g _ _ _ => some g
  | .pxor g _ _ _ => some g
  | .pnot g _ _ => some g
  | .pmov g _ _ => some g
  | .addi g _ _ _ _ => some g
  | .andi g _ _ _ => some g
  | .ori g _ _ _ => some g
  | .xori g _ _ _ => some g
  | .shli g _ _ _ => some g
  | .shri g _ _ _ => some g
  | .sari g _ _ _ => some g
  | .cmpi g _ _ _ _ => some g
  | .movi g _ _ => some g
  | .movhi g _ _ => some g
  | .paddReg g _ _ _ => some g
  | .paddImm g _ _ _ => some g
  | .pfmt g _ _ _ _ => some g
  | .ptag g _ _ => some g
  | .contid g _ _ => some g
  | .fadd g _ _ _ _ => some g
  | .fsub g _ _ _ _ => some g
  | .fmul g _ _ _ _ => some g
  | .fdiv g _ _ _ _ => some g
  | .fsqrt g _ _ _ => some g
  | .fma g _ _ _ _ _ => some g
  | .fpma g _ _ _ _ _ => some g
  | .fmin g _ _ _ _ => some g
  | .fmax g _ _ _ _ => some g
  | .fabs g _ _ _ => some g
  | .fneg g _ _ _ => some g
  | .fcmp g _ _ _ _ _ => some g
  | .fcvt g _ _ _ _ _ => some g
  | .fclass g _ _ _ => some g
  | .bdot g _ _ _ _ => some g
  | .bdq g _ _ _ => some g
  | .bqnt g _ _ _ => some g
  | .vargmax g _ _ _ _ => some g
  | .vperm g _ _ _ _ => some g
  | .vsum g _ _ _ _ => some g
  | .ld g _ _ _ _ _ => some g
  | .st g _ _ _ _ _ => some g
  | .ldp g _ _ _ _ => some g
  | .stp g _ _ _ _ => some g
  | .pref g _ _ _ => some g
  | .smap g _ _ _ _ => some g
  | .swb g _ _ _ => some g
  | .sdrop g _ _ => some g
  | .aadd g _ _ _ _ => some g
  | .aaddc g _ _ _ _ => some g
  | .aand g _ _ _ _ => some g
  | .aor g _ _ _ _ => some g
  | .axor g _ _ _ _ => some g
  | .amin g _ _ _ _ => some g
  | .amax g _ _ _ _ => some g
  | .aswap g _ _ _ _ => some g
  | .acas g _ _ _ _ => some g
  | .lds g _ _ _ _ => some g
  | .sts g _ _ _ _ => some g
  | .ldf g _ _ _ _ => some g
  | .fec g _ _ _ => some g
  | .fef g _ _ _ => some g
  | .join g _ _ => some g
  | .spawn g _ _ _ => some g
  | .post g _ => some g
  | .hop g _ => some g
  | .susp g => some g
  | .send g _ _ _ => some g
  | .waitm g => some g
  | .mbxpop g _ => some g
  | .alt g _ _ _ => some g
  | .chopen g _ _ _ => some g
  | .chgrant g _ _ => some g
  | .chsend g _ _ => some g
  | .chrecv g _ _ => some g
  | .chclose g _ => some g
  | .cpyq g _ _ _ _ => some g
  | .cpyst g _ _ => some g
  | .cpycan g _ => some g
  | .waitc g _ _ => some g
  | .landst g _ _ _ _ _ => some g
  | .landend g => some g
  | .mma g _ _ => some g
  | .mmr g _ _ => some g
  | .mq g _ _ => some g
  | .mcmd g _ _ _ => some g
  | .mwait g _ => some g
  | .walk g _ _ _ _ _ => some g
  | .forest g _ _ _ _ => some g
  | .gbfac g _ _ _ => some g
  | .gbvar g _ _ _ => some g
  | .gbpop g _ => some g
  | .gbwr g _ _ _ => some g
  | .dispatch _ => none
  | .taskRecordArrival _ => none
  | .hopArrival _ => none
  | .arrivalRefill _ => none
  | .messageArrival _ => none
  | .refusalResend _ => none
  | .portWordArrival _ => none
  | .channelWordArrival _ => none
  | .channelGrantArrival _ => none
  | .rakeSample _ => none
  | .userHandlerEntry _ => none
  | .memoryReply _ _ => none
  | .homeAccess _ => none
  | .sliceFill _ => none
  | .syncAtHome _ => none
  | .atomicAtHome _ => none
  | .joinAtHome _ => none
  | .parkRetry _ _ => none
  | .chunkCommit _ _ => none
  | .stashRecall _ _ => none
  | .directoryOverflowHandler _ => none
  | .sliceTick _ => none
  | .credenceNotice _ => none
  | .engineOwnershipGrant _ => none
  | .barrowAccept _ => none
  | .copyLineRead _ => none
  | .landingPacket _ => none
  | .copyCompletion _ _ => none
  | .revocationAck _ _ _ => none
  | .tileStep _ => none
  | .triggerRead _ _ => none
  | .raggedRead _ _ => none
  | .ringTileArrival _ => none
  | .mcmdArrival _ => none
  | .matrixCompletion _ _ => none
  | .energyReplenish _ => none
  | .walkStep _ => none
  | .walkRetire _ => none
  | .forestRetire _ => none
  | .gaussCommandDone _ => none
  | .gaussDelivery _ => none
  | .translationWalk _ _ _ => none
  | .migrationRetry _ => none
  | .mapRequest _ _ => none
  | .unmapRequest _ _ => none
  | .handleCreate _ _ => none
  | .handleRevoke _ _ => none
  | .handleFree _ _ => none
  | .pageMigration _ _ _ => none
  | .debugBreakpoint _ _ => none
  | .launchRecord _ _ => none
  | .launchStart _ => none
  | .launchCompletion _ => none
  | .completionCoalesceExpiry _ => none
  | .ueSend _ _ => none
  | .ueWrite _ _ _ => none
  | .ueRead _ _ _ => none
  | .ueFetchAdd _ _ _ => none
  | .ueSwap _ _ _ => none
  | .ueCompareSwap _ _ _ _ => none
  | .queuePairCreate _ _ _ => none
  | .partitionAllot _ _ => none
  | .partitionSplit _ => none
  | .partitionMerge _ => none
  | .partitionFree _ => none
  | .partitionShrink _ _ => none
  | .threadEviction _ _ => none
  | .evictedReentry _ => none
  | .rotationHandover _ _ _ => none
  | .lendSlots _ _ _ _ => none
  | .lendRecall _ _ => none
  | .accountingWindow => none
  | .usageSnapshot _ _ => none
  | .ownerConfiguration _ _ => none
  | .erateWrite _ _ _ => none
  | .managementRegisterWrite _ => none
  | .measureRequest _ _ _ => none
  | .attestationReport _ _ => none
  | .bootStage _ _ => none
  | .stbyOk => none
  | .coreOk => none
  | .memOk => none
  | .powerOkTimeout => none
  | .powerDown => none
  | .thermalSample _ _ => none
  | .throttleRelease => none
  | .selfTest _ _ => none
  | .boundaryLinkFailure _ _ => none
  | .fullServiceSwitch => none
  | .patrolScrub _ => none
  | .launchAbort _ => none
  | .virtualDeviceCreate _ _ => none
  | .virtualDeviceDestroy _ => none
  | .earlyServiceStart => none

/-- A row without an encoding: a step of a unit, of management, of the host or of the board. -/
def Instr.isEvent (i : Instr) : Bool := i.guard?.isNone

/-- The operand checks of one constructor beside its guard. Every constructor without one is listed as such. -/
def Instr.operandsWf : Instr → Bool
  | .nop _ => true
  | .br _ off => offWf off
  | .brl _ _ off => offWf off
  | .jmp _ _ => true
  | .jmpl _ _ _ => true
  | .loop _ _ off => offWf off
  | .chunk _ => true
  | .fence _ _ => true
  | .ifence _ => true
  | .flushi _ _ _ => true
  | .trap _ _ => true
  | .uret _ => true
  | .eret _ => true
  | .exit _ => true
  | .taskend _ => true
  | .yield _ => true
  | .haltd _ _ _ => true
  | .tick _ _ => true
  | .level _ _ => true
  | .csrr _ _ _ => true
  | .csrw _ _ _ => true
  | .csrs _ _ _ => true
  | .csrc _ _ _ => true
  | .plbw _ _ _ => true
  | .pinc _ _ => true
  | .pdec _ _ => true
  | .add _ _ _ _ _ => true
  | .sub _ _ _ _ _ => true
  | .mul _ _ _ _ _ => true
  | .mulh _ _ _ _ => true
  | .mulhu _ _ _ _ => true
  | .div _ _ _ _ => true
  | .divu _ _ _ _ => true
  | .rem _ _ _ _ => true
  | .remu _ _ _ _ => true
  | .and _ _ _ _ => true
  | .or _ _ _ _ => true
  | .xor _ _ _ _ => true
  | .andn _ _ _ _ => true
  | .shl _ _ _ _ => true
  | .shr _ _ _ _ => true
  | .sar _ _ _ _ => true
  | .rol _ _ _ _ => true
  | .ror _ _ _ _ => true
  | .min _ _ _ _ => true
  | .max _ _ _ _ => true
  | .minu _ _ _ _ => true
  | .maxu _ _ _ _ => true
  | .neg _ _ _ _ => true
  | .abs _ _ _ _ => true
  | .clz _ _ _ => true
  | .popc _ _ _ => true
  | .sel _ _ _ _ _ => true
  | .cmp _ _ _ _ _ => true
  | .mov _ _ _ => true
  | .pand _ _ _ _ => true
  | .por _ _ _ _ => true
  | .pxor _ _ _ _ => true
  | .pnot _ _ _ => true
  | .pmov _ _ _ => true
  | .addi _ _ _ _ _ => true
  | .andi _ _ _ _ => true
  | .ori _ _ _ _ => true
  | .xori _ _ _ _ => true
  | .shli _ _ _ _ => true
  | .shri _ _ _ _ => true
  | .sari _ _ _ _ => true
  | .cmpi _ _ _ _ _ => true
  | .movi _ _ _ => true
  | .movhi _ _ _ => true
  | .paddReg _ _ _ _ => true
  | .paddImm _ _ _ _ => true
  | .pfmt _ _ _ _ _ => true
  | .ptag _ _ _ => true
  | .contid _ _ _ => true
  | .fadd _ _ _ _ _ => true
  | .fsub _ _ _ _ _ => true
  | .fmul _ _ _ _ _ => true
  | .fdiv _ _ _ _ _ => true
  | .fsqrt _ _ _ _ => true
  | .fma _ _ _ _ _ _ => true
  | .fpma _ _ _ _ _ _ => true
  | .fmin _ _ _ _ _ => true
  | .fmax _ _ _ _ _ => true
  | .fabs _ _ _ _ => true
  | .fneg _ _ _ _ => true
  | .fcmp _ _ _ _ _ _ => true
  | .fcvt _ _ _ r tgt src => cvtWf r tgt src
  | .fclass _ _ _ _ => true
  | .bdot _ _ _ _ _ => true
  | .bdq _ _ _ _ => true
  | .bqnt _ _ _ _ => true
  | .vargmax _ _ _ _ _ => true
  | .vperm _ _ _ _ _ => true
  | .vsum _ _ _ _ _ => true
  | .ld _ _ _ m _ _ => m.wf
  | .st _ _ _ m _ _ => m.wf
  | .ldp _ _ _ _ _ => true
  | .stp _ _ _ _ _ => true
  | .pref _ _ _ _ => true
  | .smap _ _ _ _ _ => true
  | .swb _ _ _ _ => true
  | .sdrop _ _ _ => true
  | .aadd _ _ _ _ _ => true
  | .aaddc _ _ _ _ _ => true
  | .aand _ _ _ _ _ => true
  | .aor _ _ _ _ _ => true
  | .axor _ _ _ _ _ => true
  | .amin _ _ _ _ _ => true
  | .amax _ _ _ _ _ => true
  | .aswap _ _ _ _ _ => true
  | .acas _ _ _ _ _ => true
  | .lds _ _ _ _ _ => true
  | .sts _ _ _ _ _ => true
  | .ldf _ _ _ _ _ => true
  | .fec _ _ _ _ => true
  | .fef _ _ _ _ => true
  | .join _ _ _ => true
  | .spawn _ _ _ _ => true
  | .post _ _ => true
  | .hop _ _ => true
  | .susp _ => true
  | .send _ _ _ _ => true
  | .waitm _ => true
  | .mbxpop _ _ => true
  | .alt _ _ mask _ => mask != 0
  | .chopen _ _ _ _ => true
  | .chgrant _ _ _ => true
  | .chsend _ _ _ => true
  | .chrecv _ _ _ => true
  | .chclose _ _ => true
  | .cpyq _ _ _ _ _ => true
  | .cpyst _ _ _ => true
  | .cpycan _ _ => true
  | .waitc _ _ _ => true
  | .landst _ _ _ m _ _ => m.wf
  | .landend _ => true
  | .mma _ _ _ => true
  | .mmr _ _ _ => true
  | .mq _ _ _ => true
  | .mcmd _ _ _ _ => true
  | .mwait _ _ => true
  | .walk _ _ _ _ _ _ => true
  | .forest _ _ _ _ _ => true
  | .gbfac _ _ _ _ => true
  | .gbvar _ _ _ _ => true
  | .gbpop _ _ => true
  | .gbwr _ _ _ _ => true
  | .dispatch _ => true
  | .taskRecordArrival _ => true
  | .hopArrival _ => true
  | .arrivalRefill _ => true
  | .messageArrival _ => true
  | .refusalResend _ => true
  | .portWordArrival _ => true
  | .channelWordArrival _ => true
  | .channelGrantArrival _ => true
  | .rakeSample _ => true
  | .userHandlerEntry _ => true
  | .memoryReply _ _ => true
  | .homeAccess _ => true
  | .sliceFill _ => true
  | .syncAtHome _ => true
  | .atomicAtHome _ => true
  | .joinAtHome _ => true
  | .parkRetry _ _ => true
  | .chunkCommit _ _ => true
  | .stashRecall _ _ => true
  | .directoryOverflowHandler _ => true
  | .sliceTick _ => true
  | .credenceNotice _ => true
  | .engineOwnershipGrant _ => true
  | .barrowAccept _ => true
  | .copyLineRead _ => true
  | .landingPacket _ => true
  | .copyCompletion _ _ => true
  | .revocationAck _ _ _ => true
  | .tileStep _ => true
  | .triggerRead _ _ => true
  | .raggedRead _ _ => true
  | .ringTileArrival _ => true
  | .mcmdArrival _ => true
  | .matrixCompletion _ _ => true
  | .energyReplenish _ => true
  | .walkStep _ => true
  | .walkRetire _ => true
  | .forestRetire _ => true
  | .gaussCommandDone _ => true
  | .gaussDelivery _ => true
  | .translationWalk _ _ _ => true
  | .migrationRetry _ => true
  | .mapRequest _ _ => true
  | .unmapRequest _ _ => true
  | .handleCreate _ _ => true
  | .handleRevoke _ _ => true
  | .handleFree _ _ => true
  | .pageMigration _ _ _ => true
  | .debugBreakpoint _ _ => true
  | .launchRecord _ _ => true
  | .launchStart _ => true
  | .launchCompletion _ => true
  | .completionCoalesceExpiry _ => true
  | .ueSend _ _ => true
  | .ueWrite _ _ _ => true
  | .ueRead _ _ _ => true
  | .ueFetchAdd _ _ _ => true
  | .ueSwap _ _ _ => true
  | .ueCompareSwap _ _ _ _ => true
  | .queuePairCreate _ _ _ => true
  | .partitionAllot _ _ => true
  | .partitionSplit _ => true
  | .partitionMerge _ => true
  | .partitionFree _ => true
  | .partitionShrink _ _ => true
  | .threadEviction _ _ => true
  | .evictedReentry _ => true
  | .rotationHandover _ _ _ => true
  | .lendSlots _ _ _ _ => true
  | .lendRecall _ _ => true
  | .accountingWindow => true
  | .usageSnapshot _ _ => true
  | .ownerConfiguration _ _ => true
  | .erateWrite _ _ _ => true
  | .managementRegisterWrite _ => true
  | .measureRequest _ _ _ => true
  | .attestationReport _ _ => true
  | .bootStage _ _ => true
  | .stbyOk => true
  | .coreOk => true
  | .memOk => true
  | .powerOkTimeout => true
  | .powerDown => true
  | .thermalSample _ _ => true
  | .throttleRelease => true
  | .selfTest _ _ => true
  | .boundaryLinkFailure _ _ => true
  | .fullServiceSwitch => true
  | .patrolScrub _ => true
  | .launchAbort _ => true
  | .virtualDeviceCreate _ _ => true
  | .virtualDeviceDestroy _ => true
  | .earlyServiceStart => true

/-- A well-formed instruction: one that some encoding holds, or a step without an encoding. -/
def Instr.wellFormed (i : Instr) : Bool := (match i.guard? with | some g => g.wf | none => true) && i.operandsWf

end Sys2Proof
end

