-- ==== Sys2Proof/Decode.lean ====
section
/-! DEFINITION. Lines, heads and tails (R97-R118): what the bytes of a 64-byte line decode to, the traps of an encoding,
and an encoder written from the same tables. -/

namespace Sys2Proof

/-- The encoding traps of one instruction other than LINE_OVERRUN (R118). -/
inductive EncTrap where
  | illegalOp
  /-- A reserved register number (R105). -/
  | illegalOperand (n : Byte)
  deriving DecidableEq, Repr

/-- The number of a port register (R105). -/
def Dir.num : Dir → Nat
  | .n => 0 | .e => 1 | .s => 2 | .w => 3

/-- The register number of R105. -/
def Reg.num : Reg → Byte
  | .x n => n.setWidth 8
  | .port .n => 224
  | .port .e => 225
  | .port .s => 226
  | .port .w => 227
  | .mbx => 228
  | .zr => 229
  | .h n => 230 + n.setWidth 8

/-- The register that a register number names; none for a reserved number (R105). -/
def Reg.ofByte? (b : Byte) : Option Reg :=
  if b.toNat < 128 then some (.x (b.extractLsb' 0 7))
  else if b == 224 then some (.port .n)
  else if b == 225 then some (.port .e)
  else if b == 226 then some (.port .s)
  else if b == 227 then some (.port .w)
  else if b == 228 then some .mbx
  else if b == 229 then some .zr
  else if 230 ≤ b.toNat && b.toNat ≤ 237 then some (.h ((b - 230).extractLsb' 0 3))
  else none

/-- Decodes a register field, or takes ILLEGAL_OPERAND with the number (R117, R118). -/
def regOf (b : Byte) (k : Reg → Except EncTrap Instr) : Except EncTrap Instr :=
  match Reg.ofByte? b with
  | some r => k r
  | none => .error (.illegalOperand b)

/-- A 32-bit immediate from its bytes, lowest first. -/
def joinBytes4 (a b c d : Byte) : BitVec 32 := d ++ c ++ b ++ a

/-- A 16-bit immediate from its bytes, lowest first. -/
def joinBytes2 (a b : Byte) : BitVec 16 := b ++ a

/-- A 20-bit core id from its bytes, lowest first (R112). -/
def joinCore (a b c : Byte) : CoreId := c.extractLsb' 0 4 ++ b ++ a

/-- The csr field of C4, bits [27:16] of the tail (R108). -/
def joinCsr (a b : Byte) : BitVec 12 := b.extractLsb' 0 4 ++ a

/-- The low byte of a csr field. -/
def csrLo (c : BitVec 12) : Byte := c.extractLsb' 0 8

/-- The high byte of C4: the csr field's top bits under four zero bits. -/
def csrHi (c : BitVec 12) : Byte := (c.extractLsb' 8 4).setWidth 8

/-- Bits [7:4] of a predicate field are zero (R106). -/
def predOk (b : Byte) : Bool := b.toNat < 16

/-- A predicate, spread or selector field of four bits. -/
def predByte (p : BitVec 4) : Byte := p.setWidth 8

/-- The integer modifier layout: only sat, bit 3 (R109). -/
def satOk (b : Byte) : Bool := b == 0 || b == 8

/-- The integer modifier byte. -/
def satByte (sat : Bool) : Byte := if sat then 8 else 0

/-- The flag layout: only bit 0 (R109). -/
def flagOk (b : Byte) : Bool := b == 0 || b == 1

/-- The flag modifier byte. -/
def flagByte (f : Bool) : Byte := if f then 1 else 0

/-- ALT's modifier byte: mask [4:0] not 0, [6:5] zero, fair [7] (R299). -/
def altOk (b : Byte) : Bool := b.extractLsb' 0 5 != 0 && b.extractLsb' 5 2 == 0

/-- ALT's modifier byte. -/
def altByte (mask : BitVec 5) (fair : Bool) : Byte := mask.setWidth 8 ||| (if fair then 0x80 else 0)

/-- The energy class and opt bits of byte 4 of a K12 tail (R112), its other bits zero. -/
def ecOptOk (b : Byte) : Bool := b &&& 0xF4 == 0

/-- The energy class and opt bits of byte 4 of a K12 tail. -/
def ecOptByte (ec : BitVec 2) (opt : Bool) : Byte := ec.setWidth 8 ||| (if opt then 8 else 0)

/-- The rounding code of a float modifier byte (R109). -/
def Rnd.num : Rnd → Nat
  | .ne => 0 | .rz => 1 | .ru => 2 | .rd => 3

/-- The ff code zenas writes (R109). -/
def FF.num : FF → Nat
  | .fp32 => 0 | .bf16 => 2 | .fp16 => 3

/-- The rounding modes by code; 4-7 are ILLEGAL_OP (R109). -/
def Rnd.ofNat? : Nat → Option Rnd
  | 0 => some .ne | 1 => some .rz | 2 => some .ru | 3 => some .rd | _ => none

/-- The ff codes: 0 or 1 FP32, 2 BF16, 3 FP16, others ILLEGAL_OP (R109). -/
def FF.ofNat? : Nat → Option FF
  | 0 => some .fp32 | 1 => some .fp32 | 2 => some .bf16 | 3 => some .fp16 | _ => none

/-- rnd and sat of a modifier byte whose ff is `ff`. -/
def rmodByte (r : Rnd) (sat : Bool) (ff : Nat) : Byte := BitVec.ofNat 8 (r.num + (if sat then 8 else 0) + 16 * ff)

/-- The float modifier byte (R109). -/
def FMod.byte (m : FMod) : Byte := rmodByte m.rnd m.sat m.ff.num

/-- The float modifier byte with ff zero. -/
def RMod.byte (m : RMod) : Byte := rmodByte m.rnd m.sat 0

/-- A float modifier byte (R109). -/
def FMod.ofByte? (b : Byte) : Option FMod :=
  match Rnd.ofNat? (b.toNat % 8), FF.ofNat? (b.toNat / 16) with
  | some r, some f => some ⟨r, b.getLsbD 3, f⟩
  | _, _ => none

/-- A float modifier byte whose ff must be zero (R110). -/
def RMod.ofByte? (b : Byte) : Option RMod :=
  match Rnd.ofNat? (b.toNat % 8) with
  | some r => if b.toNat / 16 = 0 then some ⟨r, b.getLsbD 3⟩ else none
  | none => none

/-- A float modifier byte whose ff must be 0 or 1 (FPMA, R324). -/
def RMod.ofByte1? (b : Byte) : Option RMod :=
  match Rnd.ofNat? (b.toNat % 8) with
  | some r => if b.toNat / 16 ≤ 1 then some ⟨r, b.getLsbD 3⟩ else none
  | none => none

/-- A modifier byte of which only ff is defined: rnd and sat zero (R317, R319, R320, R370). -/
def FF.ofByte? (b : Byte) : Option FF := if b.toNat % 16 = 0 then FF.ofNat? (b.toNat / 16) else none

/-- A modifier byte of which only ff is set. -/
def FF.byte (f : FF) : Byte := BitVec.ofNat 8 (16 * f.num)

/-- The modifier that an unused default stands for. -/
def default0 : FMod := ⟨.ne, false, .fp32⟩

/-- The modifier that an unused default stands for. -/
def default1 : RMod := ⟨.ne, false⟩

/-- The modifier that an unused default stands for. -/
def default2 : MMod := ⟨0, false⟩

/-- The condition codes of R109. -/
def Cond.num : Cond → Nat
  | .eq => 0 | .ne => 1 | .lt => 2 | .le => 3 | .gt => 4 | .ge => 5 | .ltu => 6 | .leu => 7 | .gtu => 8 | .geu => 9

/-- The compare modifier byte of CMP and CMPI, its ff zero (R109). -/
def Cond.byte (c : Cond) : Byte := BitVec.ofNat 8 c.num

/-- The compare modifier byte of CMP and CMPI; codes 10-15 and a non-zero ff are ILLEGAL_OP (R309). -/
def Cond.ofByte? (b : Byte) : Option Cond :=
  match b.toNat with
  | 0 => some .eq | 1 => some .ne | 2 => some .lt | 3 => some .le | 4 => some .gt | 5 => some .ge
  | 6 => some .ltu | 7 => some .leu | 8 => some .gtu | 9 => some .geu | _ => none

/-- The condition codes of FCMP (R321). -/
def FCond.num : FCond → Nat
  | .eq => 0 | .ne => 1 | .lt => 2 | .le => 3 | .gt => 4 | .ge => 5

/-- FCMP's conditions by code; 6-15 are ILLEGAL_OP (R321). -/
def FCond.ofNat? : Nat → Option FCond
  | 0 => some .eq | 1 => some .ne | 2 => some .lt | 3 => some .le | 4 => some .gt | 5 => some .ge | _ => none

/-- FCMP's modifier byte: cond [3:0], ff [7:4]. -/
def fcmpByte (c : FCond) (f : FF) : Byte := BitVec.ofNat 8 (c.num + 16 * f.num)

/-- FCMP's modifier byte (R321). -/
def fcmpOfByte? (b : Byte) : Option (FCond × FF) :=
  match FCond.ofNat? (b.toNat % 16), FF.ofNat? (b.toNat / 16) with
  | some c, some f => some (c, f)
  | _, _ => none

/-- The format codes of FCVT (R115). -/
def CvtFmt.num : CvtFmt → Nat
  | .fp32 => 1 | .bf16 => 2 | .fp16 => 3 | .e4m3 => 4 | .e5m2 => 5
  | .i8 => 8 | .i16 => 9 | .i32 => 10 | .i64 => 11 | .u8 => 12 | .u16 => 13 | .u32 => 14 | .u64 => 15

/-- The format codes of FCVT; 0, 6 and 7 are ILLEGAL_OP (R115). -/
def CvtFmt.ofNat? : Nat → Option CvtFmt
  | 1 => some .fp32 | 2 => some .bf16 | 3 => some .fp16 | 4 => some .e4m3 | 5 => some .e5m2
  | 8 => some .i8 | 9 => some .i16 | 10 => some .i32 | 11 => some .i64
  | 12 => some .u8 | 13 => some .u16 | 14 => some .u32 | 15 => some .u64 | _ => none

/-- FCVT's m2 byte: to [7:4], from [3:0] (R114). -/
def cvtByte (tgt src : CvtFmt) : Byte := BitVec.ofNat 8 (src.num + 16 * tgt.num)

/-- FCVT's m2 byte. -/
def cvtOfByte? (b : Byte) : Option (CvtFmt × CvtFmt) :=
  match CvtFmt.ofNat? (b.toNat / 16), CvtFmt.ofNat? (b.toNat % 16) with
  | some t, some f => some (t, f)
  | _, _ => none

/-- The scope codes of R109. -/
def Scope.byte : Scope → Byte
  | .thread => 1 | .core => 2 | .plot => 3 | .stack => 4 | .part => 5 | .module => 6 | .sys => 7

/-- FENCE's scope byte; scope 0 is ILLEGAL_OP (R109, R157). -/
def Scope.ofByte? (b : Byte) : Option Scope :=
  match b.toNat with
  | 1 => some .thread | 2 => some .core | 3 => some .plot | 4 => some .stack | 5 => some .part
  | 6 => some .module | 7 => some .sys | _ => none

/-- SMAP's modifier byte: scope [7:5], [4:0] zero (R125). -/
def MapScope.byte : MapScope → Byte
  | .none => 0 | .core => 0x40 | .module => 0xC0

/-- SMAP's modifier byte; any scope but none, core and module is ILLEGAL_OP (R124). -/
def MapScope.ofByte? (b : Byte) : Option MapScope :=
  match b.toNat with
  | 0 => some .none | 0x40 => some .core | 0xC0 => some .module | _ => Option.none

/-- SWB's scope byte. -/
def WbScope.byte : WbScope → Byte
  | .none => 0 | .module => 6 | .sys => 7

/-- SWB's scope byte; any scope but none, module and sys is ILLEGAL_OP (R124). -/
def WbScope.ofByte? (b : Byte) : Option WbScope :=
  match b.toNat with
  | 0 => some .none | 6 => some .module | 7 => some .sys | _ => Option.none

/-- The memory modifier byte, its scope zero (R109). -/
def MMod.byte (m : MMod) : Byte := BitVec.ofNat 8 (m.fo.toNat + (if m.raw then 16 else 0))

/-- The memory modifier byte: fo 0-11, raw; a non-zero scope or fo 12-15 is ILLEGAL_OP (R109). -/
def MMod.ofByte? (b : Byte) : Option MMod :=
  if b.toNat < 32 && b.toNat % 16 ≤ 11 then some ⟨b.extractLsb' 0 4, b.getLsbD 4⟩ else none

/-- The fmt codes of a matrix command (R112). -/
def MFmt.num : MFmt → Nat
  | .ptr => 0 | .bf16 => 2 | .fp16 => 3 | .e4m3 => 4 | .e5m2 => 5 | .bfp8 => 6 | .bfp4 => 7 | .int8 => 8

/-- The fmt codes of a matrix command; others are ILLEGAL_OP (R112). -/
def MFmt.ofNat? : Nat → Option MFmt
  | 0 => some .ptr | 2 => some .bf16 | 3 => some .fp16 | 4 => some .e4m3 | 5 => some .e5m2
  | 6 => some .bfp8 | 7 => some .bfp4 | 8 => some .int8 | _ => none

/-- Byte 4 of a matrix command's tail: ec, q, opt zero, fmt (R112). -/
def MTail.byte (t : MTail) : Byte := BitVec.ofNat 8 (t.ec.toNat + (if t.hi then 4 else 0) + 16 * t.fmt.num)

/-- Byte 4 of a matrix command's tail; a non-zero opt is ILLEGAL_OP (R342). -/
def mtailOfByte? (b : Byte) : Option MFmt := if b.getLsbD 3 then none else MFmt.ofNat? (b.toNat / 16)

/-- The fields of a matrix command's tail beside its block. -/
def mtailOf (sa sb c nu : Byte) : MTail :=
  ⟨sa, sb, c.extractLsb' 0 2, c.getLsbD 2, (mtailOfByte? c).getD .ptr, nu⟩

/-- Control and system instructions (opcodes 0x000-0x03F). -/
def decodeSystem (op : Nat) (g : Guard) (t : List Byte) : Except EncTrap Instr :=
  match op with
  | 0x1 =>
    match t with
    | [] => .ok (.nop g)
    | _ => .error .illegalOp
  | 0x2 =>
    match t with
    | [o0, o1, o2, o3] => if offWf (joinBytes4 o0 o1 o2 o3) then .ok (.br g (joinBytes4 o0 o1 o2 o3)) else .error .illegalOp
    | _ => .error .illegalOp
  | 0x3 =>
    match t with
    | [d, z, o0, o1, o2, o3] => if z == 0 && offWf (joinBytes4 o0 o1 o2 o3) then regOf d fun d => .ok (.brl g d (joinBytes4 o0 o1 o2 o3)) else .error .illegalOp
    | _ => .error .illegalOp
  | 0x4 =>
    match t with
    | [a, m] => if m == 0 then regOf a fun a => .ok (.jmp g a) else .error .illegalOp
    | _ => .error .illegalOp
  | 0x5 =>
    match t with
    | [d, a, b, m] => if b == 0 && m == 0 then regOf d fun d => regOf a fun a => .ok (.jmpl g d a) else .error .illegalOp
    | _ => .error .illegalOp
  | 0x6 =>
    match t with
    | [d, z, o0, o1, o2, o3] => if z == 0 && offWf (joinBytes4 o0 o1 o2 o3) then regOf d fun d => .ok (.loop g d (joinBytes4 o0 o1 o2 o3)) else .error .illegalOp
    | _ => .error .illegalOp
  | 0x7 =>
    match t with
    | [] => .ok (.chunk g)
    | _ => .error .illegalOp
  | 0x8 =>
    match t with
    | [a, m] => if a == 0 && (Scope.ofByte? m).isSome then .ok (.fence g ((Scope.ofByte? m).getD .thread)) else .error .illegalOp
    | _ => .error .illegalOp
  | 0x9 =>
    match t with
    | [] => .ok (.ifence g)
    | _ => .error .illegalOp
  | 0xa =>
    match t with
    | [d, a, b, m] => if d == 0 && m == 0 then regOf a fun a => regOf b fun b => .ok (.flushi g a b) else .error .illegalOp
    | _ => .error .illegalOp
  | 0xb =>
    match t with
    | [o0, o1] => .ok (.trap g (joinBytes2 o0 o1))
    | _ => .error .illegalOp
  | 0xc =>
    match t with
    | [] => .ok (.uret g)
    | _ => .error .illegalOp
  | 0xd =>
    match t with
    | [] => .ok (.eret g)
    | _ => .error .illegalOp
  | 0xe =>
    match t with
    | [] => .ok (.exit g)
    | _ => .error .illegalOp
  | 0xf =>
    match t with
    | [] => .ok (.taskend g)
    | _ => .error .illegalOp
  | 0x10 =>
    match t with
    | [] => .ok (.yield g)
    | _ => .error .illegalOp
  | 0x11 =>
    match t with
    | [a, m] => if flagOk m then regOf a fun a => .ok (.haltd g a (m == 1)) else .error .illegalOp
    | _ => .error .illegalOp
  | 0x12 =>
    match t with
    | [o0, o1] => .ok (.tick g (joinBytes2 o0 o1))
    | _ => .error .illegalOp
  | 0x13 =>
    match t with
    | [a, m] => if a == 0 && flagOk m then .ok (.level g (m == 1)) else .error .illegalOp
    | _ => .error .illegalOp
  | 0x14 =>
    match t with
    | [d, a, c0, c1] => if a == 0 && c1.toNat < 16 then regOf d fun d => .ok (.csrr g d (joinCsr c0 c1)) else .error .illegalOp
    | _ => .error .illegalOp
  | 0x15 =>
    match t with
    | [d, a, c0, c1] => if d == 0 && c1.toNat < 16 then regOf a fun a => .ok (.csrw g a (joinCsr c0 c1)) else .error .illegalOp
    | _ => .error .illegalOp
  | 0x16 =>
    match t with
    | [d, a, c0, c1] => if d == 0 && c1.toNat < 16 then regOf a fun a => .ok (.csrs g a (joinCsr c0 c1)) else .error .illegalOp
    | _ => .error .illegalOp
  | 0x17 =>
    match t with
    | [d, a, c0, c1] => if d == 0 && c1.toNat < 16 then regOf a fun a => .ok (.csrc g a (joinCsr c0 c1)) else .error .illegalOp
    | _ => .error .illegalOp
  | 0x18 =>
    match t with
    | [d, a, b, m] => if d == 0 && m == 0 then regOf a fun a => regOf b fun b => .ok (.plbw g a b) else .error .illegalOp
    | _ => .error .illegalOp
  | 0x19 =>
    match t with
    | [a, m] => if m == 0 then regOf a fun a => .ok (.pinc g a) else .error .illegalOp
    | _ => .error .illegalOp
  | 0x1a =>
    match t with
    | [a, m] => if m == 0 then regOf a fun a => .ok (.pdec g a) else .error .illegalOp
    | _ => .error .illegalOp
  | _ => .error .illegalOp

/-- Integer and predicate instructions by register (opcodes 0x040-0x07F). -/
def decodeRegister (op : Nat) (g : Guard) (t : List Byte) : Except EncTrap Instr :=
  match op with
  | 0x40 =>
    match t with
    | [d, a, b, m] => if satOk m then regOf d fun d => regOf a fun a => regOf b fun b => .ok (.add g d a b (m == 8)) else .error .illegalOp
    | _ => .error .illegalOp
  | 0x41 =>
    match t with
    | [d, a, b, m] => if satOk m then regOf d fun d => regOf a fun a => regOf b fun b => .ok (.sub g d a b (m == 8)) else .error .illegalOp
    | _ => .error .illegalOp
  | 0x42 =>
    match t with
    | [d, a, b, m] => if satOk m then regOf d fun d => regOf a fun a => regOf b fun b => .ok (.mul g d a b (m == 8)) else .error .illegalOp
    | _ => .error .illegalOp
  | 0x43 =>
    match t with
    | [d, a, b, m] => if m == 0 then regOf d fun d => regOf a fun a => regOf b fun b => .ok (.mulh g d a b) else .error .illegalOp
    | _ => .error .illegalOp
  | 0x44 =>
    match t with
    | [d, a, b, m] => if m == 0 then regOf d fun d => regOf a fun a => regOf b fun b => .ok (.mulhu g d a b) else .error .illegalOp
    | _ => .error .illegalOp
  | 0x45 =>
    match t with
    | [d, a, b, m] => if m == 0 then regOf d fun d => regOf a fun a => regOf b fun b => .ok (.div g d a b) else .error .illegalOp
    | _ => .error .illegalOp
  | 0x46 =>
    match t with
    | [d, a, b, m] => if m == 0 then regOf d fun d => regOf a fun a => regOf b fun b => .ok (.divu g d a b) else .error .illegalOp
    | _ => .error .illegalOp
  | 0x47 =>
    match t with
    | [d, a, b, m] => if m == 0 then regOf d fun d => regOf a fun a => regOf b fun b => .ok (.rem g d a b) else .error .illegalOp
    | _ => .error .illegalOp
  | 0x48 =>
    match t with
    | [d, a, b, m] => if m == 0 then regOf d fun d => regOf a fun a => regOf b fun b => .ok (.remu g d a b) else .error .illegalOp
    | _ => .error .illegalOp
  | 0x49 =>
    match t with
    | [d, a, b, m] => if m == 0 then regOf d fun d => regOf a fun a => regOf b fun b => .ok (.and g d a b) else .error .illegalOp
    | _ => .error .illegalOp
  | 0x4a =>
    match t with
    | [d, a, b, m] => if m == 0 then regOf d fun d => regOf a fun a => regOf b fun b => .ok (.or g d a b) else .error .illegalOp
    | _ => .error .illegalOp
  | 0x4b =>
    match t with
    | [d, a, b, m] => if m == 0 then regOf d fun d => regOf a fun a => regOf b fun b => .ok (.xor g d a b) else .error .illegalOp
    | _ => .error .illegalOp
  | 0x4c =>
    match t with
    | [d, a, b, m] => if m == 0 then regOf d fun d => regOf a fun a => regOf b fun b => .ok (.andn g d a b) else .error .illegalOp
    | _ => .error .illegalOp
  | 0x4d =>
    match t with
    | [d, a, b, m] => if m == 0 then regOf d fun d => regOf a fun a => regOf b fun b => .ok (.shl g d a b) else .error .illegalOp
    | _ => .error .illegalOp
  | 0x4e =>
    match t with
    | [d, a, b, m] => if m == 0 then regOf d fun d => regOf a fun a => regOf b fun b => .ok (.shr g d a b) else .error .illegalOp
    | _ => .error .illegalOp
  | 0x4f =>
    match t with
    | [d, a, b, m] => if m == 0 then regOf d fun d => regOf a fun a => regOf b fun b => .ok (.sar g d a b) else .error .illegalOp
    | _ => .error .illegalOp
  | 0x50 =>
    match t with
    | [d, a, b, m] => if m == 0 then regOf d fun d => regOf a fun a => regOf b fun b => .ok (.rol g d a b) else .error .illegalOp
    | _ => .error .illegalOp
  | 0x51 =>
    match t with
    | [d, a, b, m] => if m == 0 then regOf d fun d => regOf a fun a => regOf b fun b => .ok (.ror g d a b) else .error .illegalOp
    | _ => .error .illegalOp
  | 0x52 =>
    match t with
    | [d, a, b, m] => if m == 0 then regOf d fun d => regOf a fun a => regOf b fun b => .ok (.min g d a b) else .error .illegalOp
    | _ => .error .illegalOp
  | 0x53 =>
    match t with
    | [d, a, b, m] => if m == 0 then regOf d fun d => regOf a fun a => regOf b fun b => .ok (.max g d a b) else .error .illegalOp
    | _ => .error .illegalOp
  | 0x54 =>
    match t with
    | [d, a, b, m] => if m == 0 then regOf d fun d => regOf a fun a => regOf b fun b => .ok (.minu g d a b) else .error .illegalOp
    | _ => .error .illegalOp
  | 0x55 =>
    match t with
    | [d, a, b, m] => if m == 0 then regOf d fun d => regOf a fun a => regOf b fun b => .ok (.maxu g d a b) else .error .illegalOp
    | _ => .error .illegalOp
  | 0x56 =>
    match t with
    | [d, a, b, m] => if b == 0 && satOk m then regOf d fun d => regOf a fun a => .ok (.neg g d a (m == 8)) else .error .illegalOp
    | _ => .error .illegalOp
  | 0x57 =>
    match t with
    | [d, a, b, m] => if b == 0 && satOk m then regOf d fun d => regOf a fun a => .ok (.abs g d a (m == 8)) else .error .illegalOp
    | _ => .error .illegalOp
  | 0x58 =>
    match t with
    | [d, a, b, m] => if b == 0 && m == 0 then regOf d fun d => regOf a fun a => .ok (.clz g d a) else .error .illegalOp
    | _ => .error .illegalOp
  | 0x59 =>
    match t with
    | [d, a, b, m] => if b == 0 && m == 0 then regOf d fun d => regOf a fun a => .ok (.popc g d a) else .error .illegalOp
    | _ => .error .illegalOp
  | 0x5a =>
    match t with
    | [d, a, b, m] => if predOk m then regOf d fun d => regOf a fun a => regOf b fun b => .ok (.sel g d (m.extractLsb' 0 4) a b) else .error .illegalOp
    | _ => .error .illegalOp
  | 0x5b =>
    match t with
    | [d, a, b, m] => if predOk d && (Cond.ofByte? m).isSome then regOf a fun a => regOf b fun b => .ok (.cmp g (d.extractLsb' 0 4) ((Cond.ofByte? m).getD .eq) a b) else .error .illegalOp
    | _ => .error .illegalOp
  | 0x5c =>
    match t with
    | [d, a, b, m] => if b == 0 && m == 0 then regOf d fun d => regOf a fun a => .ok (.mov g d a) else .error .illegalOp
    | _ => .error .illegalOp
  | 0x5d =>
    match t with
    | [d, a, b, m] => if predOk d && predOk a && predOk b && m == 0 then .ok (.pand g (d.extractLsb' 0 4) (a.extractLsb' 0 4) (b.extractLsb' 0 4)) else .error .illegalOp
    | _ => .error .illegalOp
  | 0x5e =>
    match t with
    | [d, a, b, m] => if predOk d && predOk a && predOk b && m == 0 then .ok (.por g (d.extractLsb' 0 4) (a.extractLsb' 0 4) (b.extractLsb' 0 4)) else .error .illegalOp
    | _ => .error .illegalOp
  | 0x5f =>
    match t with
    | [d, a, b, m] => if predOk d && predOk a && predOk b && m == 0 then .ok (.pxor g (d.extractLsb' 0 4) (a.extractLsb' 0 4) (b.extractLsb' 0 4)) else .error .illegalOp
    | _ => .error .illegalOp
  | 0x60 =>
    match t with
    | [d, a, b, m] => if predOk d && predOk a && b == 0 && m == 0 then .ok (.pnot g (d.extractLsb' 0 4) (a.extractLsb' 0 4)) else .error .illegalOp
    | _ => .error .illegalOp
  | 0x61 =>
    match t with
    | [d, a, b, m] => if predOk d && predOk a && b == 0 && m == 0 then .ok (.pmov g (d.extractLsb' 0 4) (a.extractLsb' 0 4)) else .error .illegalOp
    | _ => .error .illegalOp
  | _ => .error .illegalOp

/-- Instructions with an immediate, and pointers (opcodes 0x080-0x0BF). -/
def decodeImmediate (op : Nat) (g : Guard) (t : List Byte) : Except EncTrap Instr :=
  match op with
  | 0x80 =>
    match t with
    | [d, a, m, z, o0, o1, o2, o3] => if satOk m && z == 0 then regOf d fun d => regOf a fun a => .ok (.addi g d a (joinBytes4 o0 o1 o2 o3) (m == 8)) else .error .illegalOp
    | _ => .error .illegalOp
  | 0x81 =>
    match t with
    | [d, a, m, z, o0, o1, o2, o3] => if m == 0 && z == 0 then regOf d fun d => regOf a fun a => .ok (.andi g d a (joinBytes4 o0 o1 o2 o3)) else .error .illegalOp
    | _ => .error .illegalOp
  | 0x82 =>
    match t with
    | [d, a, m, z, o0, o1, o2, o3] => if m == 0 && z == 0 then regOf d fun d => regOf a fun a => .ok (.ori g d a (joinBytes4 o0 o1 o2 o3)) else .error .illegalOp
    | _ => .error .illegalOp
  | 0x83 =>
    match t with
    | [d, a, m, z, o0, o1, o2, o3] => if m == 0 && z == 0 then regOf d fun d => regOf a fun a => .ok (.xori g d a (joinBytes4 o0 o1 o2 o3)) else .error .illegalOp
    | _ => .error .illegalOp
  | 0x84 =>
    match t with
    | [d, a, m, z, o0, o1, o2, o3] => if m == 0 && z == 0 && o0.toNat < 64 && o1 == 0 && o2 == 0 && o3 == 0 then regOf d fun d => regOf a fun a => .ok (.shli g d a (o0.extractLsb' 0 6)) else .error .illegalOp
    | _ => .error .illegalOp
  | 0x85 =>
    match t with
    | [d, a, m, z, o0, o1, o2, o3] => if m == 0 && z == 0 && o0.toNat < 64 && o1 == 0 && o2 == 0 && o3 == 0 then regOf d fun d => regOf a fun a => .ok (.shri g d a (o0.extractLsb' 0 6)) else .error .illegalOp
    | _ => .error .illegalOp
  | 0x86 =>
    match t with
    | [d, a, m, z, o0, o1, o2, o3] => if m == 0 && z == 0 && o0.toNat < 64 && o1 == 0 && o2 == 0 && o3 == 0 then regOf d fun d => regOf a fun a => .ok (.sari g d a (o0.extractLsb' 0 6)) else .error .illegalOp
    | _ => .error .illegalOp
  | 0x87 =>
    match t with
    | [d, a, m, z, o0, o1, o2, o3] => if predOk d && (Cond.ofByte? m).isSome && z == 0 then regOf a fun a => .ok (.cmpi g (d.extractLsb' 0 4) ((Cond.ofByte? m).getD .eq) a (joinBytes4 o0 o1 o2 o3)) else .error .illegalOp
    | _ => .error .illegalOp
  | 0x88 =>
    match t with
    | [d, a, m, z, o0, o1, o2, o3] => if a == 0 && m == 0 && z == 0 then regOf d fun d => .ok (.movi g d (joinBytes4 o0 o1 o2 o3)) else .error .illegalOp
    | _ => .error .illegalOp
  | 0x89 =>
    match t with
    | [d, a, m, z, o0, o1, o2, o3] => if a == 0 && m == 0 && z == 0 then regOf d fun d => .ok (.movhi g d (joinBytes4 o0 o1 o2 o3)) else .error .illegalOp
    | _ => .error .illegalOp
  | 0x8a =>
    match t with
    | [d, a, b, m] => if m == 0 then regOf d fun d => regOf a fun a => regOf b fun b => .ok (.paddReg g d a b) else .error .illegalOp
    | [d, a, m, z, o0, o1, o2, o3] => if m == 0 && z == 0 then regOf d fun d => regOf a fun a => .ok (.paddImm g d a (joinBytes4 o0 o1 o2 o3)) else .error .illegalOp
    | _ => .error .illegalOp
  | 0x8b =>
    match t with
    | [d, a, m, z, o0, o1, o2, o3] => if m == 0 && z == 0 && o0.toNat < 32 && o1.toNat < 16 && o2 == 0 && o3 == 0 then regOf d fun d => regOf a fun a => .ok (.pfmt g d a (o0.extractLsb' 0 5) (o1.extractLsb' 0 4)) else .error .illegalOp
    | _ => .error .illegalOp
  | 0x8c =>
    match t with
    | [d, a, b, m] => if b == 0 && m == 0 then regOf d fun d => regOf a fun a => .ok (.ptag g d a) else .error .illegalOp
    | _ => .error .illegalOp
  | 0x8d =>
    match t with
    | [d, a, b, m] => if b == 0 && m == 0 then regOf d fun d => .ok (.contid g d a) else .error .illegalOp
    | _ => .error .illegalOp
  | _ => .error .illegalOp

/-- Float instructions (opcodes 0x0C0-0x0FF). -/
def decodeFloat (op : Nat) (g : Guard) (t : List Byte) : Except EncTrap Instr :=
  match op with
  | 0xc0 =>
    match t with
    | [d, a, b, m] => if (FMod.ofByte? m).isSome then regOf d fun d => regOf a fun a => regOf b fun b => .ok (.fadd g d a b ((FMod.ofByte? m).getD default0)) else .error .illegalOp
    | _ => .error .illegalOp
  | 0xc1 =>
    match t with
    | [d, a, b, m] => if (FMod.ofByte? m).isSome then regOf d fun d => regOf a fun a => regOf b fun b => .ok (.fsub g d a b ((FMod.ofByte? m).getD default0)) else .error .illegalOp
    | _ => .error .illegalOp
  | 0xc2 =>
    match t with
    | [d, a, b, m] => if (FMod.ofByte? m).isSome then regOf d fun d => regOf a fun a => regOf b fun b => .ok (.fmul g d a b ((FMod.ofByte? m).getD default0)) else .error .illegalOp
    | _ => .error .illegalOp
  | 0xc3 =>
    match t with
    | [d, a, b, m] => if (FMod.ofByte? m).isSome then regOf d fun d => regOf a fun a => regOf b fun b => .ok (.fdiv g d a b ((FMod.ofByte? m).getD default0)) else .error .illegalOp
    | _ => .error .illegalOp
  | 0xc4 =>
    match t with
    | [d, a, b, m] => if b == 0 && (FMod.ofByte? m).isSome then regOf d fun d => regOf a fun a => .ok (.fsqrt g d a ((FMod.ofByte? m).getD default0)) else .error .illegalOp
    | _ => .error .illegalOp
  | 0xc5 =>
    match t with
    | [d, a, b, c, m, m2] => if (FMod.ofByte? m).isSome && m2 == 0 then regOf d fun d => regOf a fun a => regOf b fun b => regOf c fun c => .ok (.fma g d a b c ((FMod.ofByte? m).getD default0)) else .error .illegalOp
    | _ => .error .illegalOp
  | 0xc6 =>
    match t with
    | [d, a, b, c, m, m2] => if (RMod.ofByte1? m).isSome && m2 == 0 then regOf d fun d => regOf a fun a => regOf b fun b => regOf c fun c => .ok (.fpma g d a b c ((RMod.ofByte1? m).getD default1)) else .error .illegalOp
    | _ => .error .illegalOp
  | 0xc7 =>
    match t with
    | [d, a, b, m] => if (FF.ofByte? m).isSome then regOf d fun d => regOf a fun a => regOf b fun b => .ok (.fmin g d a b ((FF.ofByte? m).getD .fp32)) else .error .illegalOp
    | _ => .error .illegalOp
  | 0xc8 =>
    match t with
    | [d, a, b, m] => if (FF.ofByte? m).isSome then regOf d fun d => regOf a fun a => regOf b fun b => .ok (.fmax g d a b ((FF.ofByte? m).getD .fp32)) else .error .illegalOp
    | _ => .error .illegalOp
  | 0xc9 =>
    match t with
    | [d, a, b, m] => if b == 0 && (FF.ofByte? m).isSome then regOf d fun d => regOf a fun a => .ok (.fabs g d a ((FF.ofByte? m).getD .fp32)) else .error .illegalOp
    | _ => .error .illegalOp
  | 0xca =>
    match t with
    | [d, a, b, m] => if b == 0 && (FF.ofByte? m).isSome then regOf d fun d => regOf a fun a => .ok (.fneg g d a ((FF.ofByte? m).getD .fp32)) else .error .illegalOp
    | _ => .error .illegalOp
  | 0xcb =>
    match t with
    | [d, a, b, m] => if predOk d && (fcmpOfByte? m).isSome then regOf a fun a => regOf b fun b => .ok (.fcmp g (d.extractLsb' 0 4) ((fcmpOfByte? m).getD (.eq, .fp32)).1 ((fcmpOfByte? m).getD (.eq, .fp32)).2 a b) else .error .illegalOp
    | _ => .error .illegalOp
  | 0xcc =>
    match t with
    | [d, a, b, c, m, m2] => if b == 0 && c == 0 && (RMod.ofByte? m).isSome && (cvtOfByte? m2).isSome && cvtWf ((RMod.ofByte? m).getD default1) ((cvtOfByte? m2).getD (.fp32, .fp32)).1 ((cvtOfByte? m2).getD (.fp32, .fp32)).2 then regOf d fun d => regOf a fun a => .ok (.fcvt g d a ((RMod.ofByte? m).getD default1) ((cvtOfByte? m2).getD (.fp32, .fp32)).1 ((cvtOfByte? m2).getD (.fp32, .fp32)).2) else .error .illegalOp
    | _ => .error .illegalOp
  | 0xcd =>
    match t with
    | [d, a, b, m] => if b == 0 && (FF.ofByte? m).isSome then regOf d fun d => regOf a fun a => .ok (.fclass g d a ((FF.ofByte? m).getD .fp32)) else .error .illegalOp
    | _ => .error .illegalOp
  | 0xce =>
    match t with
    | [d, a, b, m] => if (RMod.ofByte? m).isSome then regOf d fun d => regOf a fun a => regOf b fun b => .ok (.bdot g d a b ((RMod.ofByte? m).getD default1)) else .error .illegalOp
    | _ => .error .illegalOp
  | 0xcf =>
    match t with
    | [d, a, b, m] => if b == 0 && (FMod.ofByte? m).isSome then regOf d fun d => regOf a fun a => .ok (.bdq g d a ((FMod.ofByte? m).getD default0)) else .error .illegalOp
    | _ => .error .illegalOp
  | 0xd0 =>
    match t with
    | [d, a, b, m] => if b == 0 && predOk m then regOf d fun d => regOf a fun a => .ok (.bqnt g d a (m.extractLsb' 0 4)) else .error .illegalOp
    | _ => .error .illegalOp
  | 0xd1 =>
    match t with
    | [d, a, b, m] => if (FF.ofByte? m).isSome then regOf d fun d => regOf a fun a => regOf b fun b => .ok (.vargmax g d a b ((FF.ofByte? m).getD .fp32)) else .error .illegalOp
    | _ => .error .illegalOp
  | 0xd2 =>
    match t with
    | [d, a, b, m] => if (FF.ofByte? m).isSome then regOf d fun d => regOf a fun a => regOf b fun b => .ok (.vperm g d a b ((FF.ofByte? m).getD .fp32)) else .error .illegalOp
    | _ => .error .illegalOp
  | 0xd3 =>
    match t with
    | [d, a, b, m] => if (FMod.ofByte? m).isSome then regOf d fun d => regOf a fun a => regOf b fun b => .ok (.vsum g d a b ((FMod.ofByte? m).getD default0)) else .error .illegalOp
    | _ => .error .illegalOp
  | _ => .error .illegalOp

/-- Loads, stores and the stash (opcodes 0x100-0x13F). -/
def decodeMemory (op : Nat) (g : Guard) (t : List Byte) : Except EncTrap Instr :=
  match op with
  | 0x100 =>
    match t with
    | [d, b, m, nu, o0, o1] => if (MMod.ofByte? m).isSome then regOf d fun d => regOf b fun b => .ok (.ld g d b ((MMod.ofByte? m).getD default2) nu (joinBytes2 o0 o1)) else .error .illegalOp
    | _ => .error .illegalOp
  | 0x101 =>
    match t with
    | [d, b, m, nu, o0, o1] => if (MMod.ofByte? m).isSome then regOf d fun d => regOf b fun b => .ok (.st g d b ((MMod.ofByte? m).getD default2) nu (joinBytes2 o0 o1)) else .error .illegalOp
    | _ => .error .illegalOp
  | 0x102 =>
    match t with
    | [d, b, m, nu, o0, o1] => if m == 0 then regOf d fun d => regOf b fun b => .ok (.ldp g d b nu (joinBytes2 o0 o1)) else .error .illegalOp
    | _ => .error .illegalOp
  | 0x103 =>
    match t with
    | [d, b, m, nu, o0, o1] => if m == 0 then regOf d fun d => regOf b fun b => .ok (.stp g d b nu (joinBytes2 o0 o1)) else .error .illegalOp
    | _ => .error .illegalOp
  | 0x104 =>
    match t with
    | [d, b, m, nu, o0, o1] => if d == 0 && m == 0 then regOf b fun b => .ok (.pref g b nu (joinBytes2 o0 o1)) else .error .illegalOp
    | _ => .error .illegalOp
  | 0x105 =>
    match t with
    | [d, b, m, nu, o0, o1] => if (MapScope.ofByte? m).isSome && o0 == 0 && o1 == 0 then regOf d fun d => regOf b fun b => .ok (.smap g b d ((MapScope.ofByte? m).getD .none) nu) else .error .illegalOp
    | _ => .error .illegalOp
  | 0x106 =>
    match t with
    | [d, a, b, m] => if d == 0 && (WbScope.ofByte? m).isSome then regOf a fun a => regOf b fun b => .ok (.swb g a b ((WbScope.ofByte? m).getD .none)) else .error .illegalOp
    | _ => .error .illegalOp
  | 0x107 =>
    match t with
    | [d, a, b, m] => if d == 0 && m == 0 then regOf a fun a => regOf b fun b => .ok (.sdrop g a b) else .error .illegalOp
    | _ => .error .illegalOp
  | _ => .error .illegalOp

/-- Atomics, sync operations and JOIN (opcodes 0x140-0x17F). -/
def decodeHome (op : Nat) (g : Guard) (t : List Byte) : Except EncTrap Instr :=
  match op with
  | 0x140 =>
    match t with
    | [d, b, v, z, o0, o1] => if z == 0 then regOf d fun d => regOf b fun b => regOf v fun v => .ok (.aadd g d b v (joinBytes2 o0 o1)) else .error .illegalOp
    | _ => .error .illegalOp
  | 0x141 =>
    match t with
    | [d, b, v, z, o0, o1] => if z == 0 then regOf d fun d => regOf b fun b => regOf v fun v => .ok (.aaddc g d b v (joinBytes2 o0 o1)) else .error .illegalOp
    | _ => .error .illegalOp
  | 0x142 =>
    match t with
    | [d, b, v, z, o0, o1] => if z == 0 then regOf d fun d => regOf b fun b => regOf v fun v => .ok (.aand g d b v (joinBytes2 o0 o1)) else .error .illegalOp
    | _ => .error .illegalOp
  | 0x143 =>
    match t with
    | [d, b, v, z, o0, o1] => if z == 0 then regOf d fun d => regOf b fun b => regOf v fun v => .ok (.aor g d b v (joinBytes2 o0 o1)) else .error .illegalOp
    | _ => .error .illegalOp
  | 0x144 =>
    match t with
    | [d, b, v, z, o0, o1] => if z == 0 then regOf d fun d => regOf b fun b => regOf v fun v => .ok (.axor g d b v (joinBytes2 o0 o1)) else .error .illegalOp
    | _ => .error .illegalOp
  | 0x145 =>
    match t with
    | [d, b, v, z, o0, o1] => if z == 0 then regOf d fun d => regOf b fun b => regOf v fun v => .ok (.amin g d b v (joinBytes2 o0 o1)) else .error .illegalOp
    | _ => .error .illegalOp
  | 0x146 =>
    match t with
    | [d, b, v, z, o0, o1] => if z == 0 then regOf d fun d => regOf b fun b => regOf v fun v => .ok (.amax g d b v (joinBytes2 o0 o1)) else .error .illegalOp
    | _ => .error .illegalOp
  | 0x147 =>
    match t with
    | [d, b, v, z, o0, o1] => if z == 0 then regOf d fun d => regOf b fun b => regOf v fun v => .ok (.aswap g d b v (joinBytes2 o0 o1)) else .error .illegalOp
    | _ => .error .illegalOp
  | 0x148 =>
    match t with
    | [d, b, v, z, o0, o1] => if z == 0 then regOf d fun d => regOf b fun b => regOf v fun v => .ok (.acas g d b v (joinBytes2 o0 o1)) else .error .illegalOp
    | _ => .error .illegalOp
  | 0x149 =>
    match t with
    | [d, b, m, nu, o0, o1] => if m == 0 then regOf d fun d => regOf b fun b => .ok (.lds g d b nu (joinBytes2 o0 o1)) else .error .illegalOp
    | _ => .error .illegalOp
  | 0x14a =>
    match t with
    | [d, b, m, nu, o0, o1] => if m == 0 then regOf d fun d => regOf b fun b => .ok (.sts g d b nu (joinBytes2 o0 o1)) else .error .illegalOp
    | _ => .error .illegalOp
  | 0x14b =>
    match t with
    | [d, b, m, nu, o0, o1] => if m == 0 then regOf d fun d => regOf b fun b => .ok (.ldf g d b nu (joinBytes2 o0 o1)) else .error .illegalOp
    | _ => .error .illegalOp
  | 0x14c =>
    match t with
    | [d, b, m, nu, o0, o1] => if d == 0 && m == 0 then regOf b fun b => .ok (.fec g b nu (joinBytes2 o0 o1)) else .error .illegalOp
    | _ => .error .illegalOp
  | 0x14d =>
    match t with
    | [d, b, m, nu, o0, o1] => if d == 0 && m == 0 then regOf b fun b => .ok (.fef g b nu (joinBytes2 o0 o1)) else .error .illegalOp
    | _ => .error .illegalOp
  | 0x14e =>
    match t with
    | [d, a, b, m] => if predOk d && b == 0 && m == 0 then regOf a fun a => .ok (.join g (d.extractLsb' 0 4) a) else .error .illegalOp
    | _ => .error .illegalOp
  | _ => .error .illegalOp

/-- Threads, messages, channels and copies (opcodes 0x180-0x1BF). -/
def decodeThread (op : Nat) (g : Guard) (t : List Byte) : Except EncTrap Instr :=
  match op with
  | 0x180 =>
    match t with
    | [d, a, b, m] => if predOk d && m == 0 then regOf a fun a => regOf b fun b => .ok (.spawn g (d.extractLsb' 0 4) a b) else .error .illegalOp
    | _ => .error .illegalOp
  | 0x181 =>
    match t with
    | [a, m] => if m == 0 then regOf a fun a => .ok (.post g a) else .error .illegalOp
    | _ => .error .illegalOp
  | 0x182 =>
    match t with
    | [a, m] => if m == 0 then regOf a fun a => .ok (.hop g a) else .error .illegalOp
    | _ => .error .illegalOp
  | 0x183 =>
    match t with
    | [] => .ok (.susp g)
    | _ => .error .illegalOp
  | 0x184 =>
    match t with
    | [d, a, b, m] => if d == 0 && m.toNat < 8 then regOf a fun a => regOf b fun b => .ok (.send g a b (m.extractLsb' 0 3)) else .error .illegalOp
    | _ => .error .illegalOp
  | 0x185 =>
    match t with
    | [] => .ok (.waitm g)
    | _ => .error .illegalOp
  | 0x186 =>
    match t with
    | [a, m] => if m == 0 then regOf a fun a => .ok (.mbxpop g a) else .error .illegalOp
    | _ => .error .illegalOp
  | 0x187 =>
    match t with
    | [d, a, b, m] => if a == 0 && b == 0 && altOk m then regOf d fun d => .ok (.alt g d (m.extractLsb' 0 5) (m.getLsbD 7)) else .error .illegalOp
    | _ => .error .illegalOp
  | 0x188 =>
    match t with
    | [d, a, b, m] => if m == 0 then regOf a fun a => regOf b fun b => .ok (.chopen g d a b) else .error .illegalOp
    | _ => .error .illegalOp
  | 0x189 =>
    match t with
    | [d, a, b, m] => if b == 0 && m == 0 then regOf a fun a => .ok (.chgrant g d a) else .error .illegalOp
    | _ => .error .illegalOp
  | 0x18a =>
    match t with
    | [d, a, b, m] => if b == 0 && m == 0 then regOf a fun a => .ok (.chsend g d a) else .error .illegalOp
    | _ => .error .illegalOp
  | 0x18b =>
    match t with
    | [d, a, b, m] => if b == 0 && m == 0 then regOf d fun d => .ok (.chrecv g d a) else .error .illegalOp
    | _ => .error .illegalOp
  | 0x18c =>
    match t with
    | [n, m] => if m == 0 then .ok (.chclose g n) else .error .illegalOp
    | _ => .error .illegalOp
  | 0x18d =>
    match t with
    | [k, res, sa, sb, c, nu, z0, z1, z2, z3, z4, z5] => if res == 0 && sa == 0 && sb == 0 && ecOptOk c && z0 == 0 && z1 == 0 && z2 == 0 && z3 == 0 && z4 == 0 && z5 == 0 then regOf k fun k => .ok (.cpyq g k (c.extractLsb' 0 2) (c.getLsbD 3) nu) else .error .illegalOp
    | _ => .error .illegalOp
  | 0x18e =>
    match t with
    | [d, a, b, m] => if b == 0 && m == 0 then regOf d fun d => regOf a fun a => .ok (.cpyst g d a) else .error .illegalOp
    | _ => .error .illegalOp
  | 0x18f =>
    match t with
    | [a, m] => if m == 0 then regOf a fun a => .ok (.cpycan g a) else .error .illegalOp
    | _ => .error .illegalOp
  | 0x190 =>
    match t with
    | [d, a, b, m] => if d == 0 && m == 0 then regOf a fun a => regOf b fun b => .ok (.waitc g a b) else .error .illegalOp
    | _ => .error .illegalOp
  | 0x191 =>
    match t with
    | [d, b, m, nu, o0, o1] => if (MMod.ofByte? m).isSome then regOf d fun d => regOf b fun b => .ok (.landst g d b ((MMod.ofByte? m).getD default2) nu (joinBytes2 o0 o1)) else .error .illegalOp
    | _ => .error .illegalOp
  | 0x192 =>
    match t with
    | [] => .ok (.landend g)
    | _ => .error .illegalOp
  | _ => .error .illegalOp

/-- The matrix unit, the trellis and message updates (opcodes 0x1C0-0x1FF). -/
def decodeEngine (op : Nat) (g : Guard) (t : List Byte) : Except EncTrap Instr :=
  match op with
  | 0x1c0 =>
    match t with
    | [k, res, sa, sb, c, nu, z0, z1, z2, z3, z4, z5] => if res == 0 && (mtailOfByte? c).isSome && z0 == 0 && z1 == 0 && z2 == 0 && z3 == 0 && z4 == 0 && z5 == 0 then regOf k fun k => .ok (.mma g k (mtailOf sa sb c nu)) else .error .illegalOp
    | _ => .error .illegalOp
  | 0x1c1 =>
    match t with
    | [k, res, sa, sb, c, nu, z0, z1, z2, z3, z4, z5] => if res == 0 && (mtailOfByte? c).isSome && z0 == 0 && z1 == 0 && z2 == 0 && z3 == 0 && z4 == 0 && z5 == 0 then regOf k fun k => .ok (.mmr g k (mtailOf sa sb c nu)) else .error .illegalOp
    | _ => .error .illegalOp
  | 0x1c2 =>
    match t with
    | [k, res, sa, sb, c, nu, z0, z1, z2, z3, z4, z5] => if res == 0 && (mtailOfByte? c).isSome && z0 == 0 && z1 == 0 && z2 == 0 && z3 == 0 && z4 == 0 && z5 == 0 then regOf k fun k => .ok (.mq g k (mtailOf sa sb c nu)) else .error .illegalOp
    | _ => .error .illegalOp
  | 0x1c3 =>
    match t with
    | [k, res, sa, sb, c, nu, z0, z1, z2, z3, z4, z5, y0, y1, y2, y3] => if res == 0 && (mtailOfByte? c).isSome && z0 == 0 && z1 == 0 && z2 == 0 && z3 == 0 && z4 == 0 && z5 == 0 && y2.toNat < 16 && y3 == 0 then regOf k fun k => .ok (.mcmd g k (mtailOf sa sb c nu) (joinCore y0 y1 y2)) else .error .illegalOp
    | _ => .error .illegalOp
  | 0x1c4 =>
    match t with
    | [a, m] => if a == 0 && flagOk m then .ok (.mwait g (m == 1)) else .error .illegalOp
    | _ => .error .illegalOp
  | 0x1c5 =>
    match t with
    | [k, res, sa, sb, c, nu, z0, z1, z2, z3, z4, z5] => if sa == 0 && sb == 0 && ecOptOk c && z0 == 0 && z1 == 0 && z2 == 0 && z3 == 0 && z4 == 0 && z5 == 0 then regOf res fun res => regOf k fun k => .ok (.walk g res k (c.extractLsb' 0 2) (c.getLsbD 3) nu) else .error .illegalOp
    | _ => .error .illegalOp
  | 0x1c6 =>
    match t with
    | [k, res, sa, sb, c, nu, z0, z1, z2, z3, z4, z5] => if sa == 0 && sb == 0 && c.toNat < 4 && z0 == 0 && z1 == 0 && z2 == 0 && z3 == 0 && z4 == 0 && z5 == 0 then regOf res fun res => regOf k fun k => .ok (.forest g res k (c.extractLsb' 0 2) nu) else .error .illegalOp
    | _ => .error .illegalOp
  | 0x1c7 =>
    match t with
    | [k, res, sa, sb, c, nu, z0, z1, z2, z3, z4, z5] => if res == 0 && sa == 0 && sb == 0 && c.toNat < 4 && z0 == 0 && z1 == 0 && z2 == 0 && z3 == 0 && z4 == 0 && z5 == 0 then regOf k fun k => .ok (.gbfac g k (c.extractLsb' 0 2) nu) else .error .illegalOp
    | _ => .error .illegalOp
  | 0x1c8 =>
    match t with
    | [k, res, sa, sb, c, nu, z0, z1, z2, z3, z4, z5] => if res == 0 && sa == 0 && sb == 0 && c.toNat < 4 && z0 == 0 && z1 == 0 && z2 == 0 && z3 == 0 && z4 == 0 && z5 == 0 then regOf k fun k => .ok (.gbvar g k (c.extractLsb' 0 2) nu) else .error .illegalOp
    | _ => .error .illegalOp
  | 0x1c9 =>
    match t with
    | [a, m] => if m == 0 then regOf a fun a => .ok (.gbpop g a) else .error .illegalOp
    | _ => .error .illegalOp
  | 0x1ca =>
    match t with
    | [k, res, sa, sb, c, nu, z0, z1, z2, z3, z4, z5] => if res == 0 && sa == 0 && sb == 0 && c.toNat < 4 && z0 == 0 && z1 == 0 && z2 == 0 && z3 == 0 && z4 == 0 && z5 == 0 then regOf k fun k => .ok (.gbwr g k (c.extractLsb' 0 2) nu) else .error .illegalOp
    | _ => .error .illegalOp
  | _ => .error .illegalOp

/-- The instruction that an opcode and its tail hold: ILLEGAL_OP for an unassigned opcode, a tail of another length
than the opcode's format, or a tail field out of its values (R110, R114, R117); after those, ILLEGAL_OPERAND for a
reserved register number (R118). -/
def decodeOp (op : Nat) (g : Guard) (t : List Byte) : Except EncTrap Instr :=
  match op / 64 with
  | 0 => decodeSystem op g t
  | 1 => decodeRegister op g t
  | 2 => decodeImmediate op g t
  | 3 => decodeFloat op g t
  | 4 => decodeMemory op g t
  | 5 => decodeHome op g t
  | 6 => decodeThread op g t
  | 7 => decodeEngine op g t
  | _ => .error .illegalOp

/-- The opcode and the tail bytes of an encoded instruction, from the same tables (R114); none for a step without an
encoding. -/
def encodeParts : Instr → Option (Nat × List Byte)
  | .nop _ => some (0x1, [])
  | .br _ off => some (0x2, [off.extractLsb' 0 8, off.extractLsb' 8 8, off.extractLsb' 16 8, off.extractLsb' 24 8])
  | .brl _ d off => some (0x3, [d.num, 0, off.extractLsb' 0 8, off.extractLsb' 8 8, off.extractLsb' 16 8, off.extractLsb' 24 8])
  | .jmp _ a => some (0x4, [a.num, 0])
  | .jmpl _ d a => some (0x5, [d.num, a.num, 0, 0])
  | .loop _ d off => some (0x6, [d.num, 0, off.extractLsb' 0 8, off.extractLsb' 8 8, off.extractLsb' 16 8, off.extractLsb' 24 8])
  | .chunk _ => some (0x7, [])
  | .fence _ sc => some (0x8, [0, sc.byte])
  | .ifence _ => some (0x9, [])
  | .flushi _ a b => some (0xa, [0, a.num, b.num, 0])
  | .trap _ n => some (0xb, [n.extractLsb' 0 8, n.extractLsb' 8 8])
  | .uret _ => some (0xc, [])
  | .eret _ => some (0xd, [])
  | .exit _ => some (0xe, [])
  | .taskend _ => some (0xf, [])
  | .yield _ => some (0x10, [])
  | .haltd _ a drain => some (0x11, [a.num, flagByte drain])
  | .tick _ n => some (0x12, [n.extractLsb' 0 8, n.extractLsb' 8 8])
  | .level _ on => some (0x13, [0, flagByte on])
  | .csrr _ d csr => some (0x14, [d.num, 0, csrLo csr, csrHi csr])
  | .csrw _ a csr => some (0x15, [0, a.num, csrLo csr, csrHi csr])
  | .csrs _ a csr => some (0x16, [0, a.num, csrLo csr, csrHi csr])
  | .csrc _ a csr => some (0x17, [0, a.num, csrLo csr, csrHi csr])
  | .plbw _ a b => some (0x18, [0, a.num, b.num, 0])
  | .pinc _ a => some (0x19, [a.num, 0])
  | .pdec _ a => some (0x1a, [a.num, 0])
  | .add _ d a b sat => some (0x40, [d.num, a.num, b.num, satByte sat])
  | .sub _ d a b sat => some (0x41, [d.num, a.num, b.num, satByte sat])
  | .mul _ d a b sat => some (0x42, [d.num, a.num, b.num, satByte sat])
  | .mulh _ d a b => some (0x43, [d.num, a.num, b.num, 0])
  | .mulhu _ d a b => some (0x44, [d.num, a.num, b.num, 0])
  | .div _ d a b => some (0x45, [d.num, a.num, b.num, 0])
  | .divu _ d a b => some (0x46, [d.num, a.num, b.num, 0])
  | .rem _ d a b => some (0x47, [d.num, a.num, b.num, 0])
  | .remu _ d a b => some (0x48, [d.num, a.num, b.num, 0])
  | .and _ d a b => some (0x49, [d.num, a.num, b.num, 0])
  | .or _ d a b => some (0x4a, [d.num, a.num, b.num, 0])
  | .xor _ d a b => some (0x4b, [d.num, a.num, b.num, 0])
  | .andn _ d a b => some (0x4c, [d.num, a.num, b.num, 0])
  | .shl _ d a b => some (0x4d, [d.num, a.num, b.num, 0])
  | .shr _ d a b => some (0x4e, [d.num, a.num, b.num, 0])
  | .sar _ d a b => some (0x4f, [d.num, a.num, b.num, 0])
  | .rol _ d a b => some (0x50, [d.num, a.num, b.num, 0])
  | .ror _ d a b => some (0x51, [d.num, a.num, b.num, 0])
  | .min _ d a b => some (0x52, [d.num, a.num, b.num, 0])
  | .max _ d a b => some (0x53, [d.num, a.num, b.num, 0])
  | .minu _ d a b => some (0x54, [d.num, a.num, b.num, 0])
  | .maxu _ d a b => some (0x55, [d.num, a.num, b.num, 0])
  | .neg _ d a sat => some (0x56, [d.num, a.num, 0, satByte sat])
  | .abs _ d a sat => some (0x57, [d.num, a.num, 0, satByte sat])
  | .clz _ d a => some (0x58, [d.num, a.num, 0, 0])
  | .popc _ d a => some (0x59, [d.num, a.num, 0, 0])
  | .sel _ d k a b => some (0x5a, [d.num, a.num, b.num, predByte k])
  | .cmp _ pd c a b => some (0x5b, [predByte pd, a.num, b.num, c.byte])
  | .mov _ d a => some (0x5c, [d.num, a.num, 0, 0])
  | .pand _ pd pa pb => some (0x5d, [predByte pd, predByte pa, predByte pb, 0])
  | .por _ pd pa pb => some (0x5e, [predByte pd, predByte pa, predByte pb, 0])
  | .pxor _ pd pa pb => some (0x5f, [predByte pd, predByte pa, predByte pb, 0])
  | .pnot _ pd pa => some (0x60, [predByte pd, predByte pa, 0, 0])
  | .pmov _ pd pa => some (0x61, [predByte pd, predByte pa, 0, 0])
  | .addi _ d a imm sat => some (0x80, [d.num, a.num, satByte sat, 0, imm.extractLsb' 0 8, imm.extractLsb' 8 8, imm.extractLsb' 16 8, imm.extractLsb' 24 8])
  | .andi _ d a imm => some (0x81, [d.num, a.num, 0, 0, imm.extractLsb' 0 8, imm.extractLsb' 8 8, imm.extractLsb' 16 8, imm.extractLsb' 24 8])
  | .ori _ d a imm => some (0x82, [d.num, a.num, 0, 0, imm.extractLsb' 0 8, imm.extractLsb' 8 8, imm.extractLsb' 16 8, imm.extractLsb' 24 8])
  | .xori _ d a imm => some (0x83, [d.num, a.num, 0, 0, imm.extractLsb' 0 8, imm.extractLsb' 8 8, imm.extractLsb' 16 8, imm.extractLsb' 24 8])
  | .shli _ d a n => some (0x84, [d.num, a.num, 0, 0, n.setWidth 8, 0, 0, 0])
  | .shri _ d a n => some (0x85, [d.num, a.num, 0, 0, n.setWidth 8, 0, 0, 0])
  | .sari _ d a n => some (0x86, [d.num, a.num, 0, 0, n.setWidth 8, 0, 0, 0])
  | .cmpi _ pd c a imm => some (0x87, [predByte pd, a.num, c.byte, 0, imm.extractLsb' 0 8, imm.extractLsb' 8 8, imm.extractLsb' 16 8, imm.extractLsb' 24 8])
  | .movi _ d imm => some (0x88, [d.num, 0, 0, 0, imm.extractLsb' 0 8, imm.extractLsb' 8 8, imm.extractLsb' 16 8, imm.extractLsb' 24 8])
  | .movhi _ d imm => some (0x89, [d.num, 0, 0, 0, imm.extractLsb' 0 8, imm.extractLsb' 8 8, imm.extractLsb' 16 8, imm.extractLsb' 24 8])
  | .paddReg _ d a b => some (0x8a, [d.num, a.num, b.num, 0])
  | .paddImm _ d a imm => some (0x8a, [d.num, a.num, 0, 0, imm.extractLsb' 0 8, imm.extractLsb' 8 8, imm.extractLsb' 16 8, imm.extractLsb' 24 8])
  | .pfmt _ d a code l => some (0x8b, [d.num, a.num, 0, 0, code.setWidth 8, l.setWidth 8, 0, 0])
  | .ptag _ d a => some (0x8c, [d.num, a.num, 0, 0])
  | .contid _ d n => some (0x8d, [d.num, n, 0, 0])
  | .fadd _ d a b m => some (0xc0, [d.num, a.num, b.num, m.byte])
  | .fsub _ d a b m => some (0xc1, [d.num, a.num, b.num, m.byte])
  | .fmul _ d a b m => some (0xc2, [d.num, a.num, b.num, m.byte])
  | .fdiv _ d a b m => some (0xc3, [d.num, a.num, b.num, m.byte])
  | .fsqrt _ d a m => some (0xc4, [d.num, a.num, 0, m.byte])
  | .fma _ d a b c m => some (0xc5, [d.num, a.num, b.num, c.num, m.byte, 0])
  | .fpma _ d a b c r => some (0xc6, [d.num, a.num, b.num, c.num, r.byte, 0])
  | .fmin _ d a b f => some (0xc7, [d.num, a.num, b.num, f.byte])
  | .fmax _ d a b f => some (0xc8, [d.num, a.num, b.num, f.byte])
  | .fabs _ d a f => some (0xc9, [d.num, a.num, 0, f.byte])
  | .fneg _ d a f => some (0xca, [d.num, a.num, 0, f.byte])
  | .fcmp _ pd c f a b => some (0xcb, [predByte pd, a.num, b.num, fcmpByte c f])
  | .fcvt _ d a r tgt src => some (0xcc, [d.num, a.num, 0, 0, r.byte, cvtByte tgt src])
  | .fclass _ d a f => some (0xcd, [d.num, a.num, 0, f.byte])
  | .bdot _ d a b r => some (0xce, [d.num, a.num, b.num, r.byte])
  | .bdq _ d a m => some (0xcf, [d.num, a.num, 0, m.byte])
  | .bqnt _ d a spread => some (0xd0, [d.num, a.num, 0, predByte spread])
  | .vargmax _ d a b f => some (0xd1, [d.num, a.num, b.num, f.byte])
  | .vperm _ d a b f => some (0xd2, [d.num, a.num, b.num, f.byte])
  | .vsum _ d a b m => some (0xd3, [d.num, a.num, b.num, m.byte])
  | .ld _ d b m nu off => some (0x100, [d.num, b.num, m.byte, nu, off.extractLsb' 0 8, off.extractLsb' 8 8])
  | .st _ d b m nu off => some (0x101, [d.num, b.num, m.byte, nu, off.extractLsb' 0 8, off.extractLsb' 8 8])
  | .ldp _ d b nu off => some (0x102, [d.num, b.num, 0, nu, off.extractLsb' 0 8, off.extractLsb' 8 8])
  | .stp _ d b nu off => some (0x103, [d.num, b.num, 0, nu, off.extractLsb' 0 8, off.extractLsb' 8 8])
  | .pref _ b nu off => some (0x104, [0, b.num, 0, nu, off.extractLsb' 0 8, off.extractLsb' 8 8])
  | .smap _ b d sc nu => some (0x105, [d.num, b.num, sc.byte, nu, 0, 0])
  | .swb _ a b sc => some (0x106, [0, a.num, b.num, sc.byte])
  | .sdrop _ a b => some (0x107, [0, a.num, b.num, 0])
  | .aadd _ d b v off => some (0x140, [d.num, b.num, v.num, 0, off.extractLsb' 0 8, off.extractLsb' 8 8])
  | .aaddc _ d b v off => some (0x141, [d.num, b.num, v.num, 0, off.extractLsb' 0 8, off.extractLsb' 8 8])
  | .aand _ d b v off => some (0x142, [d.num, b.num, v.num, 0, off.extractLsb' 0 8, off.extractLsb' 8 8])
  | .aor _ d b v off => some (0x143, [d.num, b.num, v.num, 0, off.extractLsb' 0 8, off.extractLsb' 8 8])
  | .axor _ d b v off => some (0x144, [d.num, b.num, v.num, 0, off.extractLsb' 0 8, off.extractLsb' 8 8])
  | .amin _ d b v off => some (0x145, [d.num, b.num, v.num, 0, off.extractLsb' 0 8, off.extractLsb' 8 8])
  | .amax _ d b v off => some (0x146, [d.num, b.num, v.num, 0, off.extractLsb' 0 8, off.extractLsb' 8 8])
  | .aswap _ d b v off => some (0x147, [d.num, b.num, v.num, 0, off.extractLsb' 0 8, off.extractLsb' 8 8])
  | .acas _ d b v off => some (0x148, [d.num, b.num, v.num, 0, off.extractLsb' 0 8, off.extractLsb' 8 8])
  | .lds _ d b nu off => some (0x149, [d.num, b.num, 0, nu, off.extractLsb' 0 8, off.extractLsb' 8 8])
  | .sts _ d b nu off => some (0x14a, [d.num, b.num, 0, nu, off.extractLsb' 0 8, off.extractLsb' 8 8])
  | .ldf _ d b nu off => some (0x14b, [d.num, b.num, 0, nu, off.extractLsb' 0 8, off.extractLsb' 8 8])
  | .fec _ b nu off => some (0x14c, [0, b.num, 0, nu, off.extractLsb' 0 8, off.extractLsb' 8 8])
  | .fef _ b nu off => some (0x14d, [0, b.num, 0, nu, off.extractLsb' 0 8, off.extractLsb' 8 8])
  | .join _ pd a => some (0x14e, [predByte pd, a.num, 0, 0])
  | .spawn _ pd a b => some (0x180, [predByte pd, a.num, b.num, 0])
  | .post _ a => some (0x181, [a.num, 0])
  | .hop _ a => some (0x182, [a.num, 0])
  | .susp _ => some (0x183, [])
  | .send _ a b nm1 => some (0x184, [0, a.num, b.num, nm1.setWidth 8])
  | .waitm _ => some (0x185, [])
  | .mbxpop _ a => some (0x186, [a.num, 0])
  | .alt _ d mask fair => some (0x187, [d.num, 0, 0, altByte mask fair])
  | .chopen _ n a b => some (0x188, [n, a.num, b.num, 0])
  | .chgrant _ n a => some (0x189, [n, a.num, 0, 0])
  | .chsend _ n a => some (0x18a, [n, a.num, 0, 0])
  | .chrecv _ d n => some (0x18b, [d.num, n, 0, 0])
  | .chclose _ n => some (0x18c, [n, 0])
  | .cpyq _ blk ec pin nu => some (0x18d, [blk.num, 0, 0, 0, ecOptByte ec pin, nu, 0, 0, 0, 0, 0, 0])
  | .cpyst _ d a => some (0x18e, [d.num, a.num, 0, 0])
  | .cpycan _ a => some (0x18f, [a.num, 0])
  | .waitc _ a b => some (0x190, [0, a.num, b.num, 0])
  | .landst _ d b m nu off => some (0x191, [d.num, b.num, m.byte, nu, off.extractLsb' 0 8, off.extractLsb' 8 8])
  | .landend _ => some (0x192, [])
  | .mma _ blk t => some (0x1c0, [blk.num, 0, t.sa, t.sb, t.byte, t.nu, 0, 0, 0, 0, 0, 0])
  | .mmr _ blk t => some (0x1c1, [blk.num, 0, t.sa, t.sb, t.byte, t.nu, 0, 0, 0, 0, 0, 0])
  | .mq _ blk t => some (0x1c2, [blk.num, 0, t.sa, t.sb, t.byte, t.nu, 0, 0, 0, 0, 0, 0])
  | .mcmd _ blk t core => some (0x1c3, [blk.num, 0, t.sa, t.sb, t.byte, t.nu, 0, 0, 0, 0, 0, 0, core.extractLsb' 0 8, core.extractLsb' 8 8, (core.extractLsb' 16 4).setWidth 8, 0])
  | .mwait _ hi => some (0x1c4, [0, flagByte hi])
  | .walk _ d blk ec resume nu => some (0x1c5, [blk.num, d.num, 0, 0, ecOptByte ec resume, nu, 0, 0, 0, 0, 0, 0])
  | .forest _ d blk ec nu => some (0x1c6, [blk.num, d.num, 0, 0, ec.setWidth 8, nu, 0, 0, 0, 0, 0, 0])
  | .gbfac _ blk ec nu => some (0x1c7, [blk.num, 0, 0, 0, ec.setWidth 8, nu, 0, 0, 0, 0, 0, 0])
  | .gbvar _ blk ec nu => some (0x1c8, [blk.num, 0, 0, 0, ec.setWidth 8, nu, 0, 0, 0, 0, 0, 0])
  | .gbpop _ a => some (0x1c9, [a.num, 0])
  | .gbwr _ blk ec nu => some (0x1ca, [blk.num, 0, 0, 0, ec.setWidth 8, nu, 0, 0, 0, 0, 0, 0])
  | .dispatch _ => none
  | .taskRecordArrival _ => none
  | .hopArrival _ => none
  | .arrivalRefill _ => none
  | .messageArrival _ => none
  | .refusalResend _ => none
  | .portWordArrival _ => none
  | .channelWordArrival _ => none
  | .channelGrantArrival _ => none
  | .rakeSample _ => none
  | .userHandlerEntry _ => none
  | .memoryReply _ _ => none
  | .homeAccess _ => none
  | .sliceFill _ => none
  | .syncAtHome _ => none
  | .atomicAtHome _ => none
  | .joinAtHome _ => none
  | .parkRetry _ _ => none
  | .chunkCommit _ _ => none
  | .stashRecall _ _ => none
  | .directoryOverflowHandler _ => none
  | .sliceTick _ => none
  | .credenceNotice _ => none
  | .engineOwnershipGrant _ => none
  | .barrowAccept _ => none
  | .copyLineRead _ => none
  | .landingPacket _ => none
  | .copyCompletion _ _ => none
  | .revocationAck _ _ _ => none
  | .tileStep _ => none
  | .triggerRead _ _ => none
  | .raggedRead _ _ => none
  | .ringTileArrival _ => none
  | .mcmdArrival _ => none
  | .matrixCompletion _ _ => none
  | .energyReplenish _ => none
  | .walkStep _ => none
  | .walkRetire _ => none
  | .forestRetire _ => none
  | .gaussCommandDone _ => none
  | .gaussDelivery _ => none
  | .translationWalk _ _ _ => none
  | .migrationRetry _ => none
  | .mapRequest _ _ => none
  | .unmapRequest _ _ => none
  | .handleCreate _ _ => none
  | .handleRevoke _ _ => none
  | .handleFree _ _ => none
  | .pageMigration _ _ _ => none
  | .debugBreakpoint _ _ => none
  | .launchRecord _ _ => none
  | .launchStart _ => none
  | .launchCompletion _ => none
  | .completionCoalesceExpiry _ => none
  | .ueSend _ _ => none
  | .ueWrite _ _ _ => none
  | .ueRead _ _ _ => none
  | .ueFetchAdd _ _ _ => none
  | .ueSwap _ _ _ => none
  | .ueCompareSwap _ _ _ _ => none
  | .queuePairCreate _ _ _ => none
  | .partitionAllot _ _ => none
  | .partitionSplit _ => none
  | .partitionMerge _ => none
  | .partitionFree _ => none
  | .partitionShrink _ _ => none
  | .threadEviction _ _ => none
  | .evictedReentry _ => none
  | .rotationHandover _ _ _ => none
  | .lendSlots _ _ _ _ => none
  | .lendRecall _ _ => none
  | .accountingWindow => none
  | .usageSnapshot _ _ => none
  | .ownerConfiguration _ _ => none
  | .erateWrite _ _ _ => none
  | .managementRegisterWrite _ => none
  | .measureRequest _ _ _ => none
  | .attestationReport _ _ => none
  | .bootStage _ _ => none
  | .stbyOk => none
  | .coreOk => none
  | .memOk => none
  | .powerOkTimeout => none
  | .powerDown => none
  | .thermalSample _ _ => none
  | .throttleRelease => none
  | .selfTest _ _ => none
  | .boundaryLinkFailure _ _ => none
  | .fullServiceSwitch => none
  | .patrolScrub _ => none
  | .launchAbort _ => none
  | .virtualDeviceCreate _ _ => none
  | .virtualDeviceDestroy _ => none
  | .earlyServiceStart => none

/-- The tail length of a tail-length code; code 7 is reserved (R99). -/
def tailBytes : Nat → Option Nat
  | 0 => some 0 | 1 => some 2 | 2 => some 4 | 3 => some 6 | 4 => some 8 | 5 => some 12 | 6 => some 16 | _ => none

/-- The tail-length code of a tail length (R99). -/
def tailCode (n : Nat) : Nat := if n ≤ 8 then n / 2 else if n = 12 then 5 else 6

/-- The guard of a head: neg [3], gp [2:0] (R98). -/
def headGuard (h : Nat) : Guard := ⟨bitOf h 3, BitVec.ofNat 3 h⟩

/-- The head of an encoded instruction (R98). -/
def headOf (g : Guard) (op tailLen : Nat) : Nat :=
  op * 128 + tailCode tailLen * 16 + (if g.neg then 8 else 0) + g.p.toNat

/-- What a head and its tail decode to (R98, R99, R114, R117): the reserved guard and a tail length that the opcode
does not permit are ILLEGAL_OP. -/
def decodeHead (h : Nat) (t : List Byte) : Except EncTrap Instr :=
  if (headGuard h).wf then decodeOp (h / 128) (headGuard h) t else .error .illegalOp

/-- The words of an instruction: its head, and its tail read from the lowest address. -/
def encode (i : Instr) : Option (Nat × List Byte) :=
  match i.guard?, encodeParts i with
  | some g, some (op, t) => some (headOf g op t.length, t)
  | _, _ => none

/-- One head position of a line, as R100 finds it. -/
inductive Slot where
  /-- An instruction: its head and its tail. -/
  | ins (head : Nat) (tail : List Byte)
  /-- Tail-length code 7: ILLEGAL_OP, and no head after it is decoded (R99). -/
  | bad (head : Nat)
  /-- A tail that reaches into this head or an earlier one (R101). -/
  | overrun (head : Nat)
  deriving DecidableEq, Repr

/-- The 16-bit value at byte `i` of a line image. -/
def halfAt (img : List Byte) (i : Nat) : Nat := leNat ((img.drop i).take 2)

/-- R100's scan from head `j` on, with `s` tail bytes placed so far and `fuel` heads left to look at. -/
def scanLine (img : List Byte) : Nat → Nat → Nat → List Slot
  | 0, _, _ => []
  | fuel + 1, j, s =>
    if 2 * j = 64 - s then []
    else
      let h := halfAt img (2 * j)
      if h = 0 then []
      else match tailBytes (bitsOf h 6 4) with
        | none => [.bad h]
        | some len =>
          if 2 * j + 2 > 64 - (s + len) then [.overrun h]
          else .ins h ((img.drop (64 - s - len)).take len) :: scanLine img fuel (j + 1) (s + len)

/-- The heads of a line that are instructions, in order: heads 0 to n − 1 of R100. -/
def lineSlots (img : List Byte) : List Slot := scanLine img 32 0 0

/-- Position `n` of a line is its line-end head: the first 0x0000 head of R100's scan, where the line is not full. -/
def endsAt (img : List Byte) (j : Nat) : Bool :=
  (lineSlots img).length == j && j < 32 && halfAt img (2 * j) == 0 && (match (lineSlots img).getLast? with
    | some (.bad _) | some (.overrun _) => false
    | _ => true) &&
  2 * j != 64 - ((lineSlots img).foldl (fun s x => s + (match x with | .ins _ t => t.length | _ => 0)) 0)

/-- What stands at a head position of a line (R104, R117). -/
inductive LineAt where
  | ins (i : Instr)
  /-- An encoding trap of R118, with the head's value for its detail. -/
  | trap (t : EncTrap) (head : Nat)
  | overrun
  /-- The line-end head: execution goes on at the next line. -/
  | lineEnd
  /-- A position that is no head: ILLEGAL_OP with the 16-bit value there. -/
  | noHead (value : Nat)
  deriving DecidableEq, Repr

/-- What a line holds at head position `j` (R100, R101, R104, R117). -/
def lineAt (img : List Byte) (j : Nat) : LineAt :=
  match (lineSlots img)[j]? with
  | some (.ins h t) =>
    match decodeHead h t with
    | .ok i => .ins i
    | .error e => .trap e h
  | some (.bad h) => .trap .illegalOp h
  | some (.overrun _) => .overrun
  | none => if endsAt img j then .lineEnd else .noHead (halfAt img (2 * j))

/-- The address of the instruction that follows head `j` of the line at `pc`: the next head of the line, else head 0 of
the next line, modulo 2^55 (R103). -/
def followingPc (img : List Byte) (pc : Pc) : Pc :=
  let j := bitsOf pc.toNat 5 1
  if j + 1 < (lineSlots img).length then pc + 2 else BitVec.ofNat 55 ((pc.toNat / 64 + 1) * 64)

/-- A line image that holds one instruction: its head at byte 0 and its tail at the top, zeros between (R97). -/
def lineOf (head : Nat) (tail : List Byte) : List Byte :=
  leBytes 2 head ++ List.replicate (62 - tail.length) 0 ++ tail

/-- The instruction that this decoder reads from a word of spec/opcode_table.json: the head is bits [15:0], the tail
follows from bit 16, and every bit above `nbits` is 0. -/
def decodeTableWord (nbits w : Nat) : Option Instr :=
  let w := w % 2 ^ nbits
  let h := w % 65536
  match tailBytes (bitsOf h 6 4) with
  | none => none
  | some len =>
    match lineAt (lineOf h (leBytes len (w / 65536))) 0 with
    | .ins i => some i
    | _ => none

end Sys2Proof
end

