-- ==== Sys2Proof/Config.lean ====
section
/-! DEFINITION. What the part fixes once, and the values that the spec leaves open as opaque constants: no proof can see
what they are, so a claim about one holds whatever it is. -/

namespace Sys2Proof

/-- Cores of the module (R18). -/
def Config.numCores : Nat := 1048576

/-- Thread slots that programs use, 0-61 (R18). -/
def Config.programSlots : Nat := 62

/-- The first file entry of the riddle's window (R56). -/
def Config.riddleBase : Nat := 2016

/-- The riddle's window size (R56). -/
def Config.riddleSize : Nat := 32

/-- Instructions of a landing handler before it ends the copy (R176). -/
def Config.landLimit : Nat := 1024

/-- Instructions of a chunk (R144). -/
def Config.chunkLimit : Nat := 512

/-- Distinct lines of a chunk's write set, counting only lines not mapped in the issuing core's stash (R144). -/
def Config.chunkLines : Nat := 64

/-- The limit of the energy grants' sum, in units per interval (R28). -/
def Config.energyLimit : Nat := 1064960000

/-- Cycles of an accounting window (R274). -/
def Config.accountingCycles : Nat := 1250000

/-- Cycles of one patrol scrub of a core's lines (R282). -/
def Config.patrolCycles : Nat := 2 ^ 36

/-- Entries of a violation or error log's ring (R209). -/
def Config.logRing : Nat := 4096

/-- List entries of a partition's directory-overflow pool (R130, R272); the manual gives the pool no size: a free value
(notes/assumptions/16.md). -/
opaque Config.overflowPool : Nat

/-- 64-byte lines of a partition's spill space (R272); the manual gives it no size: a free value
(notes/assumptions/16.md). -/
opaque Config.spillPool : Nat

/-- The distance that a reuse record takes which is first set with code 0, by the value of the level's fill counter (R138): R133
gives code 0 none, and so the record's due and slack are free values (notes/assumptions/61.md). -/
opaque Config.deadDistance : Nat → BitVec 14

/-- SHAKE256 of a byte string, to a length in bytes (R277, R278). The manual names the function and does not define it:
a free value (notes/assumptions/7.md). -/
opaque Config.shake256 : List Byte → (n : Nat) → Vector Byte n

/-- The fused 57-byte secret of a module, by the number that its state holds (R277): a free value (notes/assumptions/7.md). -/
opaque Config.secret : Nat → Vector Byte 57

/-- The Ed448 key pair, private and public, that the ROM derives from a secret (R277): a free value
(notes/assumptions/7.md). -/
opaque Config.keyPair : List Byte → Vector Byte 57 × Vector Byte 57

/-- The Ed448 signature of a private key over a digest, 114 bytes (R277, R280): a free value
(notes/assumptions/7.md). -/
opaque Config.sign : List Byte → List Byte → Vector Byte 114

/-- The certificate of a module's public key, signed by Lygosel, that its flash holds, by the number in its state (R277): a
free value (notes/assumptions/7.md). -/
opaque Config.certificate : Nat → List Byte

end Sys2Proof
end

