-- ==== Sys2Proof/Machine/Number.lean ====
section
/-! DEFINITION. Numbers (02_numbers.md): the float formats and their one rounding (R29-R31, R39-R41), exact sums (R40,
R44), integer conversions (R41, R323), block floating point (R34-R38) and pointer arithmetic (R48-R51). -/

namespace Sys2Proof.Machine
open Sys2Proof

/-- The five float formats of R29. -/
inductive FloatFmt where
  | fp32 | bf16 | fp16 | e4m3 | e5m2
  deriving DecidableEq, Repr

/-- Width of a format in bits (R29). -/
def FloatFmt.width : FloatFmt → Nat
  | .fp32 => 32 | .bf16 => 16 | .fp16 => 16 | .e4m3 => 8 | .e5m2 => 8

/-- Fraction bits (R29). -/
def FloatFmt.fbits : FloatFmt → Nat
  | .fp32 => 23 | .bf16 => 7 | .fp16 => 10 | .e4m3 => 3 | .e5m2 => 2

/-- Exponent bits (R29). -/
def FloatFmt.ebits : FloatFmt → Nat
  | .fp32 => 8 | .bf16 => 8 | .fp16 => 5 | .e4m3 => 4 | .e5m2 => 5

/-- Exponent bias (R29). -/
def FloatFmt.bias : FloatFmt → Nat
  | .fp32 => 127 | .bf16 => 127 | .fp16 => 15 | .e4m3 => 7 | .e5m2 => 15

/-- The canonical NaN of a format (R31). -/
def FloatFmt.qnan : FloatFmt → Nat
  | .fp32 => 0x7FC00000 | .bf16 => 0x7FC0 | .fp16 => 0x7E00 | .e4m3 => 0x7F | .e5m2 => 0x7E

/-- The encoding of +∞; E4M3 has none and holds its largest finite value here (R30). -/
def FloatFmt.infBits : FloatFmt → Nat
  | .fp32 => 0x7F800000 | .bf16 => 0x7F80 | .fp16 => 0x7C00 | .e4m3 => 0x7E | .e5m2 => 0x7C

/-- The encoding of the largest finite value (R29). -/
def FloatFmt.maxBits : FloatFmt → Nat
  | .fp32 => 0x7F7FFFFF | .bf16 => 0x7F7F | .fp16 => 0x7BFF | .e4m3 => 0x7E | .e5m2 => 0x7B

/-- The format that an ff field names (R109). -/
def ffFmt : FF → FloatFmt
  | .fp32 => .fp32 | .bf16 => .bf16 | .fp16 => .fp16

/-- A float's value: NaN (signalling or quiet), an infinity, or (−1)^neg × m × 2^e exactly. -/
inductive FVal where
  | nan (signalling : Bool)
  | inf (neg : Bool)
  | num (neg : Bool) (m : Nat) (e : Int)
  deriving DecidableEq, Repr

/-- The exception flags that an operation raises, bits NV, DZ, OF, UF, NX, IS (R42). -/
abbrev Flags := BitVec 6

/-- NV, invalid operation (R42). -/
def flagNV : Flags := 1
/-- DZ, division of a finite non-zero value by zero (R42). -/
def flagDZ : Flags := 2
/-- OF, overflow (R42). -/
def flagOF : Flags := 4
/-- UF, underflow (R42). -/
def flagUF : Flags := 8
/-- NX, inexact (R42). -/
def flagNX : Flags := 16
/-- IS, integer saturation (R42). -/
def flagIS : Flags := 32

/-- The value of an encoding (R30). -/
def unpack (f : FloatFmt) (bits : Nat) : FVal :=
  let fr := bits % 2 ^ f.fbits
  let ex := (bits >>> f.fbits) % 2 ^ f.ebits
  let s := bitOf bits (f.width - 1)
  let top := 2 ^ f.ebits - 1
  match f with
  | .e4m3 =>
    if ex = top && fr = 7 then .nan false
    else if ex = 0 then .num s fr (1 - (f.bias : Int) - f.fbits)
    else .num s (2 ^ f.fbits + fr) ((ex : Int) - f.bias - f.fbits)
  | _ =>
    if ex = top then
      if fr = 0 then .inf s
      else .nan (f != .e5m2 && !bitOf fr (f.fbits - 1))
    else if ex = 0 then .num s fr (1 - (f.bias : Int) - f.fbits)
    else .num s (2 ^ f.fbits + fr) ((ex : Int) - f.bias - f.fbits)

/-- Whether an encoding is a NaN. -/
def FVal.isNan : FVal → Bool
  | .nan _ => true
  | _ => false

/-- Whether a value is a signalling NaN (R30). -/
def FVal.isSig : FVal → Bool
  | .nan s => s
  | _ => false

/-- Whether a value is a zero of either sign. -/
def FVal.isZero : FVal → Bool
  | .num _ m _ => m == 0
  | _ => false

/-- The sign of a value; NaN counts as positive. -/
def FVal.neg? : FVal → Bool
  | .nan _ => false
  | .inf s => s
  | .num s _ _ => s

/-- The value with the opposite sign. -/
def FVal.negate : FVal → FVal
  | .nan s => .nan s
  | .inf s => .inf (!s)
  | .num s m e => .num (!s) m e

/-- The magnitude. -/
def FVal.abs : FVal → FVal
  | .nan s => .nan s
  | .inf _ => .inf false
  | .num _ m e => .num false m e

/-- Whether rounding `m / 2^k` (k ≥ 1) moves away from zero: `half` and `rest` say how the discarded part compares to
one half. -/
def roundsUp (rm : Rnd) (neg odd half rest : Bool) : Bool :=
  match rm with
  | .ne => half && (rest || odd)
  | .rz => false
  | .ru => !neg && (half || rest)
  | .rd => neg && (half || rest)

/-- `m × 2^e` rounded to a multiple of `2^q`: the multiple, and whether the result differs (R39). -/
def roundAt (rm : Rnd) (neg : Bool) (m : Nat) (e q : Int) : Nat × Bool :=
  if q ≤ e then (m <<< (e - q).toNat, false)
  else
    let k := (q - e).toNat
    let n := m >>> k
    let lost := m % 2 ^ k
    let half := bitOf m (k - 1)
    let rest := m % 2 ^ (k - 1) != 0
    (if roundsUp rm neg (n % 2 == 1) half rest then n + 1 else n, lost != 0)

/-- The position of the leading bit of m × 2^e, for m > 0: 2^(leadExp) ≤ m × 2^e < 2^(leadExp + 1). -/
def leadExp (m : Nat) (e : Int) : Int := (Nat.log2 m : Int) + e

/-- The signed encoding of a magnitude's bits. -/
def withSign (f : FloatFmt) (neg : Bool) (bits : Nat) : Nat := if neg then 2 ^ (f.width - 1) + bits else bits

/-- Rounds a non-zero magnitude to a format by a mode (R39, R41): the encoding and the flags. Tininess is detected after
rounding, and UF is raised only for a tiny inexact result. -/
def roundNum (f : FloatFmt) (rm : Rnd) (sat neg : Bool) (m : Nat) (e : Int) : Nat × Flags :=
  if m = 0 then (withSign f neg 0, 0)
  else
    let p : Int := f.fbits
    let emin : Int := 1 - (f.bias : Int)
    let q := max (leadExp m e - p) (emin - p)
    let (n, nx) := roundAt rm neg m e q
    -- with an unbounded exponent range
    let (u, _) := roundAt rm neg m e (leadExp m e - p)
    let tiny := u = 0 || leadExp u (leadExp m e - p) < emin
    -- n is at most 2^(p+1); its encoding counts up from the subnormals through the exponents
    let (n', q') := if n ≥ 2 ^ (f.fbits + 1) then (n / 2, q + 1) else (n, q)
    let bits := if n' < 2 ^ f.fbits then n' else ((q' - (emin - p)).toNat + 1) * 2 ^ f.fbits + (n' - 2 ^ f.fbits)
    if bits > f.maxBits then
      match f with
      | .e4m3 => (withSign f neg f.maxBits, flagOF ||| flagNX)
      | _ =>
        let toMax := sat || (match rm with
          | .ne => false
          | .rz => true
          | .ru => neg
          | .rd => !neg)
        (withSign f neg (if toMax then f.maxBits else f.infBits), flagOF ||| flagNX)
    else
      (withSign f neg bits, (if nx then flagNX else 0) ||| (if tiny && nx then flagUF else 0))

/-- A value written in a format (R41): NaN is the canonical NaN, an infinity stays one (E4M3: ±448 with OF and NX). -/
def roundVal (f : FloatFmt) (rm : Rnd) (sat : Bool) : FVal → Nat × Flags
  | .nan _ => (f.qnan, 0)
  | .inf s =>
    match f with
    | .e4m3 => (withSign f s f.maxBits, flagOF ||| flagNX)
    | _ => (withSign f s f.infBits, 0)
  | .num s m e => roundNum f rm sat s m e

/-- An exact signed dyadic number: m × 2^e. -/
structure Dyadic where
  m : Int
  e : Int
  deriving DecidableEq, Repr

/-- Exact sum. -/
def Dyadic.add (a b : Dyadic) : Dyadic :=
  let e := min a.e b.e
  ⟨a.m * 2 ^ (a.e - e).toNat + b.m * 2 ^ (b.e - e).toNat, e⟩

/-- The dyadic number of a finite value; zero for the others. -/
def FVal.dyadic : FVal → Dyadic
  | .num s m e => ⟨if s then -(m : Int) else m, e⟩
  | _ => ⟨0, 0⟩

/-- Exact comparison of dyadic numbers: a < b. -/
def Dyadic.lt (a b : Dyadic) : Bool :=
  let e := min a.e b.e
  a.m * 2 ^ (a.e - e).toNat < b.m * 2 ^ (b.e - e).toNat

/-- Exact equality of dyadic numbers as values. -/
def Dyadic.eqv (a b : Dyadic) : Bool := !a.lt b && !b.lt a

/-- The exact sum of a list of terms with the flags it raises (R40, R44). A zero sum is −0 exactly when every term is −0,
and otherwise +0, or −0 in `.rd` unless every term is +0 (R40). -/
def exactSum (rd : Bool) (ts : List FVal) : FVal × Flags :=
  let sig := ts.any FVal.isSig
  let nan := ts.any FVal.isNan
  let pinf := ts.any (fun t => t == .inf false)
  let ninf := ts.any (fun t => t == .inf true)
  let nv : Flags := if sig || (pinf && ninf) then flagNV else 0
  if nan || (pinf && ninf) then (.nan false, nv)
  else if pinf then (.inf false, nv)
  else if ninf then (.inf true, nv)
  else
    let d := (ts.map FVal.dyadic).foldl Dyadic.add ⟨0, 0⟩
    if d.m = 0 then
      let allNegZero := ts.all (fun t => t.isZero && t.neg?)
      let allPosZero := ts.all (fun t => t.isZero && !t.neg?)
      (.num (allNegZero || (rd && !allPosZero)) 0 0, nv)
    else (.num (d.m < 0) d.m.natAbs d.e, nv)

/-- The exact product of two values (R40, R44): 0 × ∞ is invalid. -/
def mulVal (a b : FVal) : FVal × Flags :=
  let nv : Flags := if a.isSig || b.isSig then flagNV else 0
  match a, b with
  | .nan _, _ => (.nan false, nv)
  | _, .nan _ => (.nan false, nv)
  | .inf s, y => if y.isZero then (.nan false, flagNV) else (.inf (s != y.neg?), 0)
  | x, .inf s => if x.isZero then (.nan false, flagNV) else (.inf (s != x.neg?), 0)
  | .num s m e, .num s' m' e' => (.num (s != s') (m * m') (e + e'), 0)

/-- An exact sum rounded once into a format (R39, R40). -/
def sumRound (f : FloatFmt) (rm : Rnd) (sat : Bool) (ts : List FVal) : Nat × Flags :=
  let (v, nv) := exactSum (rm == .rd) ts
  let (b, fl) := roundVal f rm sat v
  (b, nv ||| fl)

/-- xa + xb (R318). -/
def fadd (f : FloatFmt) (rm : Rnd) (sat : Bool) (a b : Nat) : Nat × Flags :=
  sumRound f rm sat [unpack f a, unpack f b]

/-- xa − xb (R318). -/
def fsub (f : FloatFmt) (rm : Rnd) (sat : Bool) (a b : Nat) : Nat × Flags :=
  sumRound f rm sat [unpack f a, (unpack f b).negate]

/-- xa × xb (R318). -/
def fmul (f : FloatFmt) (rm : Rnd) (sat : Bool) (a b : Nat) : Nat × Flags :=
  let (v, nv) := mulVal (unpack f a) (unpack f b)
  let (r, fl) := roundVal f rm sat v
  (r, nv ||| fl)

/-- xa × xb + xc with one rounding (R324). -/
def ffma (f : FloatFmt) (rm : Rnd) (sat : Bool) (a b c : Nat) : Nat × Flags :=
  let (v, nv) := mulVal (unpack f a) (unpack f b)
  let (r, fl) := sumRound f rm sat [v, unpack f c]
  (r, nv ||| fl)

/-- Extra quotient bits that keep a rounded quotient or root exact: two more than any format's precision. -/
def guardBits : Nat := 60

/-- xa / xb (R318): a finite non-zero value over zero is a signed infinity with DZ, 0/0 and ∞/∞ are invalid. -/
def fdivVal (a b : FVal) : FVal × Flags :=
  let nv : Flags := if a.isSig || b.isSig then flagNV else 0
  match a, b with
  | .nan _, _ => (.nan false, nv)
  | _, .nan _ => (.nan false, nv)
  | .inf _, .inf _ => (.nan false, flagNV)
  | .inf s, y => (.inf (s != y.neg?), 0)
  | x, .inf s => (.num (s != x.neg?) 0 0, 0)
  | .num s m e, .num s' m' e' =>
    if m' = 0 then if m = 0 then (.nan false, flagNV) else (.inf (s != s'), flagDZ)
    else
      -- a quotient with a sticky bit below it
      let k := Nat.log2 m' + guardBits
      let q := (m <<< k) / m'
      let r := (m <<< k) % m'
      (.num (s != s') (2 * q + (if r = 0 then 0 else 1)) (e - e' - k - 1), 0)

/-- xa / xb rounded (R318). -/
def fdiv (f : FloatFmt) (rm : Rnd) (sat : Bool) (a b : Nat) : Nat × Flags :=
  let (v, nv) := fdivVal (unpack f a) (unpack f b)
  let (r, fl) := roundVal f rm sat v
  (r, nv ||| fl)

/-- The integer square root by bits: the greatest r with r² ≤ n, for n < 4^fuel. -/
def isqrtAux (n : Nat) : Nat → Nat → Nat
  | 0, r => r
  | k + 1, r =>
    let c := r + 2 ^ k
    isqrtAux n k (if c * c ≤ n then c else r)

/-- The integer square root. -/
def isqrt (n : Nat) : Nat := isqrtAux n (Nat.log2 n / 2 + 1) 0

/-- The square root of a value (R317). -/
def fsqrtVal : FVal → FVal × Flags
  | .nan s => (.nan false, if s then flagNV else 0)
  | .inf s => if s then (.nan false, flagNV) else (.inf false, 0)
  | .num s m e =>
    if m = 0 then (.num s 0 0, 0)
    else if s then (.nan false, flagNV)
    else
      let odd := e % 2 != 0
      let m1 := if odd then 2 * m else m
      let e1 := if odd then e - 1 else e
      let n := m1 <<< (2 * guardBits)
      let r := isqrt n
      (.num false (2 * r + (if r * r = n then 0 else 1)) (e1 / 2 - guardBits - 1), 0)

/-- √xa rounded (R317). -/
def fsqrt (f : FloatFmt) (rm : Rnd) (sat : Bool) (a : Nat) : Nat × Flags :=
  let (v, nv) := fsqrtVal (unpack f a)
  let (r, fl) := roundVal f rm sat v
  (r, nv ||| fl)

/-- Order of two values that are not NaN: a < b, with −0 equal to +0 (R321). -/
def FVal.lt (a b : FVal) : Bool :=
  match a, b with
  | .nan _, _ => false
  | _, .nan _ => false
  | .inf s, .inf s' => s && !s'
  | .inf s, _ => s
  | _, .inf s => !s
  | x, y => x.dyadic.lt y.dyadic

/-- Equality of two values that are not NaN, with −0 equal to +0 (R321). -/
def FVal.eqv (a b : FVal) : Bool := !a.isNan && !b.isNan && !a.lt b && !b.lt a

/-- FMIN's order: −0 below +0 (R319). -/
def FVal.ltz (a b : FVal) : Bool := a.lt b || (a.isZero && b.isZero && a.neg? && !b.neg?)

/-- FMIN and FMAX (R319): `gt` chooses the greater. -/
def fminmax (f : FloatFmt) (gt : Bool) (a b : Nat) : Nat × Flags :=
  let x := unpack f a
  let y := unpack f b
  if x.isNan || y.isNan then (f.qnan, if x.isSig || y.isSig then flagNV else 0)
  else if gt then (if x.ltz y then b else a, 0)
  else (if y.ltz x then b else a, 0)

/-- FCMP's condition and flags (R321). -/
def fcmp (c : FCond) (f : FloatFmt) (a b : Nat) : Bool × Flags :=
  let x := unpack f a
  let y := unpack f b
  let nan := x.isNan || y.isNan
  let sig := x.isSig || y.isSig
  match c with
  | .eq => (!nan && x.eqv y, if sig then flagNV else 0)
  | .ne => (nan || !x.eqv y, if sig then flagNV else 0)
  | .lt => (!nan && x.lt y, if nan then flagNV else 0)
  | .le => (!nan && !y.lt x, if nan then flagNV else 0)
  | .gt => (!nan && y.lt x, if nan then flagNV else 0)
  | .ge => (!nan && !x.lt y, if nan then flagNV else 0)

/-- FCLASS's bit (R320). -/
def fclass (f : FloatFmt) (a : Nat) : Nat :=
  match unpack f a with
  | .nan true => 2 ^ 8
  | .nan false => 2 ^ 9
  | .inf true => 2 ^ 0
  | .inf false => 2 ^ 7
  | .num s m _ =>
    if m = 0 then (if s then 2 ^ 3 else 2 ^ 4)
    else
      let sub := (a >>> f.fbits) % 2 ^ f.ebits == 0
      if s then (if sub then 2 ^ 2 else 2 ^ 1) else (if sub then 2 ^ 5 else 2 ^ 6)

/-- Float to integer (R41, R323): rounded, saturated with NV, NaN is 0 with NV. -/
def toInt (rm : Rnd) (lo hi : Int) : FVal → Int × Flags
  | .nan _ => (0, flagNV)
  | .inf s => (if s then lo else hi, flagNV)
  | .num s m e =>
    let (n, nx) := roundAt rm s m e 0
    let v : Int := if s then -(n : Int) else n
    if v < lo then (lo, flagNV) else if v > hi then (hi, flagNV) else (v, if nx then flagNX else 0)

/-- An integer as an exact value. -/
def intVal (i : Int) : FVal := .num (i < 0) i.natAbs 0

/-- One format to another (R41, R323). A float to its own format is the operand, a NaN made canonical. -/
def convFloat (tgt src : FloatFmt) (rm : Rnd) (sat : Bool) (a : Nat) : Nat × Flags :=
  let x := unpack src a
  let nv : Flags := if x.isSig then flagNV else 0
  if tgt = src && !x.isNan then (a % 2 ^ src.width, 0)
  else
    let (r, fl) := roundVal tgt rm sat x
    (r, nv ||| fl)

/-! ## Block floating point -/

/-- The value of a BFP8 or BFP4 element from its bits and its selected exponent byte (R35). -/
def bfpVal (bfp8 : Bool) (bits exp : Nat) : FVal :=
  if exp = 255 then .nan false
  else if bfp8 then .num (bitOf bits 6) (bits % 64) ((exp : Int) - 132)
  else .num (bitOf bits 2) (bits % 4) ((exp : Int) - 128)

/-- An element's selector bit (R34). -/
def bfpSel (bfp8 : Bool) (bits : Nat) : Bool := bitOf bits (if bfp8 then 7 else 3)

/-- |x| / 2^k rounded to nearest even. -/
def roundMag (m : Nat) (e k : Int) : Nat × Bool := roundAt .ne false m e k

/-- One block quantised (R38): its 32 element codes, E0, E1 and the flags. -/
structure Block where
  elems : List Nat
  e0 : Nat
  e1 : Nat
  flags : Flags
  deriving DecidableEq, Repr

/-- The finite largest value of a source format as a value. -/
def maxVal (f : FloatFmt) (neg : Bool) : FVal :=
  match unpack f f.maxBits with
  | .num _ m e => .num neg m e
  | v => v

/-- R38's quantisation of one block with spread `D`, from a source format. -/
def quantise (bfp8 : Bool) (D : Nat) (src : FloatFmt) (xs : List FVal) : Block :=
  let bias : Int := if bfp8 then 132 else 128
  let mmax : Nat := if bfp8 then 63 else 3
  let anyInf := xs.any (fun x => match x with | .inf _ => true | _ => false)
  let ys := xs.map (fun x => match x with | .inf s => maxVal src s | v => v)
  let nanblock := ys.any FVal.isNan
  let big : FVal := (ys.filter (fun y => !y.isNan)).foldl (fun a y => if a.lt y.abs then y.abs else a) (.num false 0 0)
  let fits (y : FVal) (E : Nat) : Bool :=
    match y with
    | .num _ m e => (roundMag m e ((E : Int) - bias)).1 ≤ mmax
    | _ => false
  let e1 := if big.isZero then 0 else (leastBelow 255 (fits big)).getD 254
  let e0 := e1 - D
  let e0' := if nanblock then e1 else e0
  let e1' := if nanblock then 255 else e1
  let one (y : FVal) : Nat × Flags :=
    match y with
    | .num s m e =>
      let sel := !(nanblock || fits y e0')
      let (q, nx) := roundMag m e ((if sel then e1' else e0' : Nat) - bias)
      let isOver := q > mmax
      let code := (if isOver then mmax else q) + (if s then (if bfp8 then 64 else 4) else 0) + (if sel then (if bfp8 then 128 else 8) else 0)
      (code, (if nx || isOver then flagNX else 0) ||| (if isOver then flagOF else 0))
    | _ => (if bfp8 then 128 else 8, 0)
  let rs := ys.map one
  ⟨rs.map Prod.fst, e0', e1', (rs.foldl (fun f r => f ||| r.2) 0) ||| (if anyInf then flagOF else 0)⟩

/-! ## Fat pointers -/

/-- The format code of a fat pointer (R48). -/
def ptrFmt (p : Word) : Nat := field p 63 59

/-- The L field of a fat pointer (R48). -/
def ptrL (p : Word) : Nat := field p 58 55

/-- The address field of a fat pointer: a byte address, for BFP4 a nibble address (R48). -/
def ptrAddr (p : Word) : Nat := p.toNat % 2 ^ 55

/-- A fat pointer from its parts (R48). -/
def mkPtr (fmt l addr : Nat) : Word := BitVec.ofNat 64 (fmt % 32 * 2 ^ 59 + l % 16 * 2 ^ 55 + addr % 2 ^ 55)

/-- A PC value as an instruction writes it: code 15, L 0 (R103). -/
def codePtr (pc : Pc) : Word := mkPtr 15 0 pc.toNat

/-- The element size in bytes of a format code; BFP4 counts its byte (R49). -/
def elemSize : Nat → Nat
  | 1 => 4 | 2 => 2 | 3 => 2 | 9 => 2 | 10 => 4 | 11 => 8 | _ => 1

/-- The float format of codes 1-5 (R49). -/
def codeFmt : Nat → FloatFmt
  | 1 => .fp32 | 2 => .bf16 | 3 => .fp16 | 4 => .e4m3 | _ => .e5m2

/-- Elements of a chunk (R36). -/
def chunkElems (l : Nat) : Nat := 2 ^ l

/-- A chunk's size in address units: bytes for BFP8, nibbles for BFP4 (R36, R51). -/
def chunkSize (bfp8 : Bool) (l : Nat) : Nat := if bfp8 then 2 ^ l + 2 ^ l / 16 else 2 ^ l + 2 ^ l / 8

/-- The use checks of a pointer's format: reserved codes, and BFP with L in 0-9 (R49). -/
def ptrFormatBad (fmt l : Nat) : Bool := fmt ≥ 16 || ((fmt == 6 || fmt == 7) && l < 10)

/-- The outcome of PADD (R51). -/
inductive PaddRes where
  | ok (p : Word)
  | ptrFormat
  | misalign
  deriving DecidableEq, Repr

/-- PADD by a signed element count (R51). -/
def padd (p : Word) (k : Int) : PaddRes :=
  let f := ptrFmt p
  let l := ptrL p
  let a := ptrAddr p
  if ptrFormatBad f l then .ptrFormat
  else if f == 6 || f == 7 then
    let n := chunkElems l
    let c := chunkSize (f == 6) l
    let q := a / c
    let j := a - q * c
    if j ≥ n then .misalign
    else
      let e : Int := (q * n + j : Nat) + k
      let a2 : Int := floorDiv e n * c + floorMod e n
      .ok (mkPtr f l (a2 % (2 ^ 55 : Nat)).toNat)
  else .ok (mkPtr f l (((a : Int) + k * elemSize f) % (2 ^ 55 : Nat)).toNat)

/-- Where a BFP element and its exponent byte lie: element byte address, whether it is the high nibble, the byte
addresses of E0 (E1 is the next), or none where the address lies in the exponent area (R36, R50, R51). -/
structure BfpPlace where
  byte : Nat
  high : Bool
  e0 : Nat
  j : Nat
  deriving DecidableEq, Repr

/-- The place of the BFP element at an address (bytes for BFP8, nibbles for BFP4). -/
def bfpPlace (bfp8 : Bool) (l addr : Nat) : Option BfpPlace :=
  let n := chunkElems l
  let c := chunkSize bfp8 l
  let q := addr / c
  let j := addr % c
  if j ≥ n then none
  else if bfp8 then some ⟨addr, false, q * c + n + 2 * (j / 32), j⟩
  else some ⟨addr / 2, addr % 2 == 1, q * c / 2 + n / 2 + 2 * (j / 32), j⟩

/-! ## Next-use codes -/

/-- The rounded 64 × 2^(i/16) for i in 0-15 at one octave, the others doubling (R133): the nearest integer to
64 × 2^((c − 64)/16), found as the integer nearest a 16th root. -/
def nuDistance (c : Nat) : Nat :=
  if c < 64 then c
  else if c ≤ 191 then
    -- the least d with (2d + 1)^16 > 128^16 * 2^(c - 64): d = round(64 * 2^((c-64)/16))
    let i := (c - 64) % 16
    let o := (c - 64) / 16
    let target := (128 * 2 ^ o) ^ 16 * 2 ^ i
    let rec climb : Nat → Nat → Nat
      | 0, d => d
      | k + 1, d => if (2 * (d + 2 ^ k) - 1) ^ 16 < target then climb k (d + 2 ^ k) else climb k d
    climb 14 0
  else 16383

end Sys2Proof.Machine
end

