-- ==== Sys2Proof/Machine/State.lean ====
section
/-! DEFINITION. The state of the module as plain data: every piece of state that the spec gives the machine. A field's
docstring ends with [its rule | its width | its value at reset or at the creation of its holder]. Everything that
exists once per core, context, thread or line is held sparsely: a key that a table does not list holds the value that
its accessor in Machine/Ops.lean gives. -/

namespace Sys2Proof.Machine

/-- Why a step of the machine stops. -/
inductive Fault where
  /-- Raised by an encoded instruction's meaning when no thread holds the turn (notes/assumptions/12.md): `step` never
  runs one so. Safe: nothing is claimed of such a state. -/
  | noThread
  deriving DecidableEq, Repr

/-- Why an instruction has no meaning. -/
inductive Refusal where
  /-- Raised by an arm of `exec` that has no meaning yet, with the instruction's mnemonic. Safe: the run stops. -/
  | notModelled (mnemonic : String)
  deriving DecidableEq, Repr

/-! ## Threads -/

/-- A mailbox entry (R73, R75). -/
structure Mail where
  vdev : VDev
  kind : Nat
  src : Nat
  tag : Half
  payload : List Word
  deriving DecidableEq, Repr

/-- A word that an instruction takes from a port or the mailbox queue (R107). -/
inductive Taking where
  | port (d : Dir) (w : Word)
  | mail (m : Mail)
  deriving DecidableEq, Repr

/-- A trap: its cause code and its details 1-3 (R202). -/
structure Trap where
  cause : Nat
  d1 : Word
  d2 : Word
  d3 : Word
  deriving DecidableEq, Repr

/-- A pending entry to UHV (R82): cause, the hand-back bit h0[8], and h1-h3. `sync` marks a chunk's store refused at
commit, which ends a thread that is in a handler (R204). -/
structure Irq where
  cause : Nat
  back : Bool
  h1 : Word
  h2 : Word
  h3 : Word
  sync : Bool
  deriving DecidableEq, Repr

/-- What an access declares, as it stood at its issue (R134, R136, R141): the code that DIST0 may have replaced, BCLK, and
the distance in slice ticks that a request carries to a home (none for the dead mark). -/
structure Use where
  code : Nat
  clock : Nat
  dist : Option Nat
  deriving DecidableEq, Repr

/-- The bytes of a store that fall in one line, held at the core until its chunk commits (R146): address, bytes with their nibble
masks (3 both nibbles, 1 low, 2 high; R363), what it declares, and whether they go to a private entry. -/
structure Held where
  addr : Nat
  bytes : List (Byte × Nat)
  use : Use
  priv : Bool
  deriving DecidableEq, Repr

/-- What an instruction found at the turn in which it issued, while its chunk's other instructions commit (R134, R136,
R141, R145, R168): BCLK, BPERIOD, DIST0, CRED's shift and SYNCLIM; for a GBPOP that waits, the number of the
message-update unit's work that it waits for (R249); CYC (R312); and the request that HALTD has sent (R329). -/
structure AtIssue where
  clock : Nat
  period : Nat
  dist0 : Byte
  shift : Nat
  limit : Nat
  work : Option Nat
  cyc : Nat
  halt : Option Word
  deriving DecidableEq, Repr

/-- The chunk a thread is executing (R144-R147). -/
structure Chunk where
  /-- PC at the chunk's start [R146 | 55 bits | the thread's PC]. -/
  pc0 : Pc
  /-- Predicate word at the chunk's start [R146 | 16 bits | the thread's]. -/
  preds0 : BitVec 16
  /-- FLAGS at the chunk's start [R146 | 6 bits | the thread's]. -/
  flags0 : BitVec 6
  /-- Level bit at the chunk's start [R338 | 1 bit | the thread's]. -/
  level0 : Bool
  /-- Wake bit at the chunk's start [R366 | 1 bit | the thread's]. -/
  wake0 : Bool
  /-- Window registers at the chunk's start, as a payload written since changes them [R146, R366 | size words | the window]. -/
  regs0 : List Word
  /-- Window registers that were poisoned at the chunk's start and that no payload has written since [R283 | numbers | the window's]. -/
  poison0 : List Nat
  /-- A payload has arrived since the chunk's start [R366 | 1 bit | 0]. -/
  paid : Bool
  /-- Instructions of the chunk [R144 | 0-512 | 0]. -/
  count : Nat
  /-- Read set: line numbers (ga / 64) [R146 | 2,048-bit signature | empty]. -/
  rset : List Nat
  /-- Write set: line numbers [R146 | 2,048-bit signature | empty]. -/
  wset : List Nat
  /-- Stores held, oldest first [R146 | list | empty]. -/
  held : List Held
  /-- Changes of program pin counts that take effect at commit: frame base and +1 or −1 [R194 | list | empty]. -/
  pins : List (Nat × Bool)
  /-- The chunk has ended and asks its arbiter [R146 | 1 bit | 0]. -/
  closing : Bool
  /-- Age stamp, kept over squashes [R147 | number | none]. -/
  stamp : Option Nat
  deriving DecidableEq, Repr

/-- The operations of the atomics (R293, R237, R296). -/
inductive AtomOp where
  | add | and | or | xor | min | max | swap | cas | addc
  deriving DecidableEq, Repr

/-- The sync operations (R127) and WAITC (R180). -/
inductive SyncOp where
  | lds | sts | ldf | fec | fef | waitc
  deriving DecidableEq, Repr

/-- Who issued an engine command, as it stood at issue (R141, R150, R225, R374): the thread, its context, task and
device, the next-use code of the lines that the command writes, the thread's BPERIOD and CRED shift, and the energy
charged. -/
structure Issuer where
  core : Nat
  /-- The thread's number (log 53), and how often it had hopped (R331, R343). -/
  thread : Nat
  hops : Nat
  ctx : Nat
  task : Nat
  vdev : VDev
  nu : Nat
  period : Nat
  shift : Nat
  charge : Nat
  launch : Nat
  deriving DecidableEq, Repr

/-- The states of a copy that CPYST reports (R187). -/
inductive CopySt where
  | waiting | reading | sent
  deriving DecidableEq, Repr

/-- A copy in a barrow register (R169, R170, R174). -/
structure Copy where
  id : Nat
  iss : Issuer
  src : Word
  dst : Word
  hidx : Nat
  hgen : Nat
  tag : Half
  rows : Nat
  rowbytes : Nat
  spitch : Nat
  dpitch : Nat
  ctr : Nat
  ox : Nat
  oy : Nat
  wm1 : Nat
  hm1 : Nat
  blk : Nat
  land : Nat
  cmode : Nat
  intr : Bool
  start : Nat
  dspan : Nat
  pin : Bool
  st : CopySt
  /-- The next e to read. -/
  e : Nat
  /-- e at which reading stops: a fault point or the end. -/
  stopAt : Nat
  /-- The fault that stops reading there: cause, address, physical address where it is known. -/
  faultAt : Option (Nat × Nat × Option Nat)
  status : Option Nat
  revoked : Bool
  cancelled : Bool
  sent : Nat
  /-- Packets landing, not yet completed or refused. -/
  flying : Nat
  landed : Nat
  /-- First e that has not landed, where some packet did not. -/
  firstLost : Option Nat
  /-- Bytes landed of each row (cmode 1). -/
  rowsDone : Tbl Nat
  /-- The extent: core of a slab line (else 0) and line (R172). -/
  extent : List (Nat × Nat)
  /-- Bytes landed of each extent line. -/
  linesDone : List ((Nat × Nat) × Nat)
  /-- Source lines read so far, each once (R151): line, image, uncorrectable. -/
  seen : List (Nat × List Byte × Bool)
  /-- Frames whose engine pin count the copy raised. -/
  pinned : List Nat
  /-- Receiving cores that have had a context of the device since acceptance (R281). -/
  hosts : List Nat
  /-- DRAM lines read for the copy. -/
  dram : Nat
  /-- Arrival-counter steps that wait until the copy has written its own line in which the counter lies (R150, R179). -/
  owed : Nat
  deriving DecidableEq, Repr

/-- A matrix command (R213, R218-R220) and its progress (R214). -/
structure MCmd where
  id : Nat
  iss : Issuer
  a : Word
  b : Word
  c : Word
  m : Nat
  n : Nat
  k : Nat
  lda : Nat
  ldb : Nat
  ldc : Nat
  fmtA : Nat
  fmtB : Nat
  sa : Int
  sb : Int
  trig : Nat
  thr : Nat
  /-- The ragged row counter's address; none where the command is not ragged (R217). -/
  rag : Option Nat
  init : Bool
  notify : Bool
  intr : Bool
  tag : Half
  /-- Issued by MCMD from the issuing core (R220). -/
  remote : Bool
  /-- Ring: next core, length and position; none for the other commands (R219). -/
  ring : Option (Nat × Nat × Nat)
  /-- Ownership of the C lines has been granted (R150). -/
  granted : Bool
  /-- The trigger has been met (R216). -/
  fired : Bool
  /-- Rows live in the present block, once a ragged read admits it (R217). -/
  live : Option Nat
  /-- The command has come to its end (R217). -/
  ended : Bool
  /-- Ring step (R219). -/
  rstep : Nat
  /-- Row block, column tile and k of the next step (R214). -/
  rb : Nat
  ct : Nat
  kk : Nat
  steps : Nat
  rows : Nat
  flags : BitVec 6
  cycles : Nat
  /-- The unit runs a tile step of the command (R223). -/
  run : Bool
  /-- A boundary has passed the command over (R223). -/
  passed : Bool
  /-- The cycle of its next counter read (R216, R217). -/
  nextRead : Nat
  /-- A ring tile is on its way to the next core's latch (R219). -/
  out : Bool
  /-- The B tile of the present ring step (R219): three bytes an element; and whether an uncorrectable line entered it. -/
  tile : List Byte
  ringBad : Bool
  /-- The accumulators of the present tile, by row (R211). -/
  acc : List Nat
  /-- Source lines read so far, each once (R151): line, image, uncorrectable. -/
  seen : List (Nat × List Byte × Bool)
  /-- A tile step of the present tile read an uncorrectable line (R283). -/
  tileBad : Bool
  /-- DRAM lines read for the command. -/
  dram : Nat
  deriving DecidableEq, Repr

/-- What a thread waits for at a home, with its operands as they were at issue (R120, R127, R293, R333). -/
inductive MemOp where
  /-- A load of one element at a pointer: effective format, raw. -/
  | load (d : Reg) (ptr : Word) (fmt : Nat) (raw : Bool) (use : Use)
  /-- LDP into two window registers. -/
  | pair (d : Nat) (ptr : Word) (use : Use)
  /-- An atomic: operands v and w. -/
  | atomic (op : AtomOp) (d : Reg) (ptr v w : Word) (use : Use)
  /-- A sync operation: its data, its destination, the SYNCLIM limit that it carries (R168). -/
  | sync (op : SyncOp) (d : Reg) (ptr v : Word) (limit : Nat) (use : Use)
  /-- JOIN: its predicate. -/
  | join (pd : BitVec 4) (ptr : Word) (level : Bool) (use : Use)
  deriving DecidableEq, Repr

/-- A home's reply (R53, R128). -/
inductive Reply where
  | value (w : Word)
  | pair (a b : Word)
  | nothing
  | pred (b : Bool)
  | limit
  deriving DecidableEq, Repr

/-- What a thread that issues again waits on: nothing that an interrupt wakes it from, something that one does (R83),
the mailbox queue to take an entry (R74, R83), or the fill, the recall or the write-back of lines (R143). -/
inductive WaitOn where
  | quiet | irq | mail
  | lines (l : List Nat)
  deriving DecidableEq, Repr

/-- The states of a thread that holds a slot (R53, R54). A thread that is not `ready` has its PC at the instruction
that waits, or at the next one where that instruction has been performed. -/
inductive Status where
  | ready
  /-- Waits on a port, channel, mailbox, ALT, barrow mailbox, tile queue, fence or an engine-owned line and issues again at its next turn;
  `on` says whether an interrupt wakes it (R83). -/
  | poll (on : WaitOn)
  /-- Parked by SUSP (R54). -/
  | suspended
  /-- A request at its home that has not been served (R53). -/
  | home (op : MemOp)
  /-- A sync operation in a park table (R128). -/
  | parked (op : MemOp)
  /-- A sync operation refused by a full park table, with the cycle of its next resend (R128). -/
  | refused (op : MemOp) (next : Nat)
  /-- A reply that has arrived and is not applied yet. -/
  | reply (op : MemOp) (r : Reply)
  /-- Waits until an engine grants, completes or retires what the thread issued, or until its packet is accepted
  (R73, R150, R226, R251). -/
  | engine
  /-- CPYQ waits for a free barrow mailbox register with the copy that it has read (R173). -/
  | copy (y : Copy)
  /-- A matrix instruction waits for its queue's shadow set with its command (R213, R215). -/
  | matrix (hi : Bool) (m : MCmd)
  /-- Forfeits this many further turns, as YIELD asks (R373). -/
  | turns (n : Nat)
  /-- A load has read the word that it sends to a port, which waits for its chunk's commit and for room in the neighbour's
  FIFO (R337). -/
  | port (d : Dir) (w : Word)
  deriving DecidableEq, Repr

/-- A line of a slot's fetch buffer (R156). -/
structure FetchLine where
  line : Nat
  img : List Byte
  deriving DecidableEq, Repr

/-- The core-wide shadow set (R82, R205). -/
structure Shadow where
  /-- The slot whose handler holds the set [R82 | slot | none]. -/
  holder : Option Nat
  /-- Virtual device of the thread that last held it [R82 | 11 bits | none]. -/
  last : Option VDev
  /-- h0-h7 [R82 | 8 x 64 bits | DESIGN CHOICE 0 (log 3)]. -/
  h : List Word
  /-- Shadow PC [R82 | 55 bits | DESIGN CHOICE 0 (log 3)]. -/
  spc : Pc
  /-- The instruction after the shadow PC, for SYNC_LIMIT [R369 | 55 bits | DESIGN CHOICE 0 (log 3)]. -/
  snext : Pc
  /-- Shadow predicate word [R82 | 16 bits | DESIGN CHOICE 0 (log 3)]. -/
  spreds : BitVec 16
  /-- Cause latched at entry [R369 | 8 bits | DESIGN CHOICE 0 (log 3)]. -/
  cause : Nat
  deriving DecidableEq, Repr

/-- A thread in a slot. -/
structure Thread where
  /-- The model's own number of the thread, which it keeps wherever it goes (log 53) [model | number | the next]. -/
  id : Nat
  /-- How often the thread has hopped: a command that it issued before is none of its own any more (log 53) [R331, R343 | number | 0]. -/
  hops : Nat
  /-- Context on the core [R263 | 0-7 | at creation]. -/
  ctx : Nat
  /-- Task on the core [R135 | 0-63 | at creation]. -/
  task : Nat
  /-- Launch [R267 | number | at creation; 0 none]. -/
  launch : Nat
  /-- Virtual device [R265 | 11 bits | at creation]. -/
  vdev : VDev
  /-- Priority of the record or the context that the thread came from [R59, R68 | 1 bit | from the record]. -/
  prio : Bool
  /-- Level bit [R81 | 1 bit | 0]. -/
  level : Bool
  /-- The number of the spawner's task, of a thread that SPAWN created and that has not hopped [R66, R189 | number | at creation]. -/
  spawned : Option Nat
  /-- TBASE.base [R57 | 11 bits | at creation]. -/
  base : Nat
  /-- TLIM.size [R57 | 8 bits | at creation]. -/
  size : Nat
  /-- PC [R103 | 55 bits | the entry]. -/
  pc : Pc
  /-- Predicate word, bit 0 always 1 [R58 | 16 bits | p0 1, p1-p15 0]. -/
  preds : BitVec 16
  /-- FLAGS [R42 | 6 bits | 0]. -/
  flags : BitVec 6
  /-- FSAVE: armed and area [R205 | 64 bits | 0]. -/
  fsave : Word
  /-- Wake bit [R72 | 1 bit | 0]. -/
  wake : Bool
  /-- What the thread does or waits for [R53, R54 | - | ready]. -/
  status : Status
  /-- Turns that the thread still forfeits to the normaliser [R47 | number | 0]. -/
  owed : Nat
  /-- The cycle from which the thread's turns count: its dispatch takes four cycles [R64 | number | at dispatch]. -/
  starts : Nat
  /-- The cycle in which the request that waits at a home has come in there [R127 | number | 0]. -/
  asked : Nat
  /-- The instruction at the PC has issued, and waits for its chunk's other instructions to commit or for a line
  [R134, R136, R145, R168 | - | none]. -/
  issued : Option AtIssue
  /-- Words that an instruction has taken from a port or the mailbox queue and whose effect has not committed, with its PC
  and whether it runs in a handler: an execution that takes them again gets the same words [R107, R146 | list | empty]. -/
  taken : List (Pc × Bool × Taking)
  /-- An upcall whose save area has to wait [R204, R206 | - | none]. -/
  raised : Option Trap
  /-- Runs a user-level handler [R82 | 1 bit | 0]. -/
  handler : Bool
  /-- Pending entries to UHV, oldest first [R82 | list | empty]. -/
  pending : List Irq
  /-- The shadow state that an evicted handler takes again when the shadow set is free [R82, R261 | - | none]. -/
  saved : Option Shadow
  /-- The PC after the instruction that raised SYNC_LIMIT, of a thread that was evicted before it entered its handler
  [R369 | 55 bits | none]. -/
  after : Option Pc
  /-- The cause with which the thread ends at its next boundary: a store of its handler's chunk has been refused (R204, R208)
  [R204 | 5 bits | none]. -/
  doomed : Option Nat
  /-- ALT's last selected alternative [R299 | 0-4 | 4]. -/
  altLast : Nat
  /-- Fetch buffer, oldest first [R156 | 8 lines | empty]. -/
  fetch : List FetchLine
  /-- The chunk being executed [R144 | - | empty]. -/
  chunk : Chunk
  deriving DecidableEq, Repr

/-! ## Records, queues and contexts -/

/-- A task-queue record (R61, R66, R267) with the first registers it gives its thread. -/
structure TaskRec where
  entry : Pc
  prio : Bool
  movable : Bool
  size : Nat
  xs : List Word
  launch : Nat
  vdev : VDev
  /-- The spawner's task for a SPAWN record (R66). -/
  task : Option Nat
  deriving DecidableEq, Repr

/-- A travelling context (R68). -/
structure Travel where
  xs : List Word
  /-- Registers of these that are poisoned (R283). -/
  poison : List Nat
  preds : BitVec 16
  pc : Pc
  flags : BitVec 6
  prio : Bool
  level : Bool
  vdev : VDev
  bclk : Half
  launch : Nat
  /-- The address that HOP named (R259), the thread's number, how often it has hopped, and what it asks of UHV (R82; log 53). -/
  addr : Nat
  id : Nat
  hops : Nat
  pending : List Irq
  deriving DecidableEq, Repr

/-- A task on a core (R135). -/
structure Task where
  /-- The model's own number of the task (log 53) [model | number | the next]. -/
  id : Nat
  /-- BCLK.clock [R135 | 32 bits | 0 or carried]. -/
  bclk : Half
  /-- BPERIOD.period [R135 | 32 bits | 64]. -/
  bperiod : Nat
  /-- The last 64 pairs (CYC, BCLK), oldest first [R137 | 64 pairs | empty]. -/
  hist : List (Nat × Nat)
  /-- The pair when the task started [R137 | pair | at start]. -/
  start : Nat × Nat
  /-- SPLIM.limit [R66 | 8 bits | 0]. -/
  limit : Nat
  /-- SPLIM.count [R66 | 8 bits | 0]. -/
  count : Nat
  /-- Priority [R68 | 1 bit | that of the thread that starts it]. -/
  prio : Bool
  deriving DecidableEq, Repr

/-- A thread saved by an eviction (R261). -/
structure Saved where
  th : Thread
  regs : List Word
  /-- Registers of these that are poisoned (R283). -/
  poison : List Nat
  bclk : Half
  /-- Its task as it stood at the eviction (log 71). -/
  task : Task
  /-- Shadow set of a thread that was in a handler: h0-h7, spc, snext, spreds, cause. -/
  shadow : Option Shadow
  core : Nat
  slot : Nat
  cmds : List (Bool × MCmd)
  deriving DecidableEq, Repr

/-- An entry of an arrival queue or arrival-spill area (R69, R262), with its place in the core's arrival order. -/
inductive Arrival where
  | travel (stamp : Nat) (t : Travel)
  | evicted (stamp : Nat) (s : Saved)
  deriving DecidableEq, Repr

/-- A context on a core (R263). -/
structure Context where
  /-- Virtual device [R263 | 11 bits | at creation]. -/
  vdev : VDev
  /-- DIST0.code [R134 | 8 bits | 32]. -/
  dist0 : Byte
  /-- CRED.score; shift is (255 - score) >> 5 [R142 | 8 bits | 255]. -/
  cred : Nat
  /-- OCCLIM.stash [R132 | 10 bits | 512]. -/
  limStash : Nat
  /-- OCCLIM.slice [R132 | 11 bits | 1,024]. -/
  limSlice : Nat
  /-- EBUD [R225 | 64 bits signed | 0]. -/
  ebud : Int
  /-- ERATE.grant [R225 | 32 bits | 0]. -/
  erate : Half
  /-- Energy credit to be added at the first interval boundary [R274 | number | 0]. -/
  credit : Nat
  /-- UHV [R205 | 64 bits | 0]. -/
  uhv : Word
  /-- UFV [R205 | 64 bits | 0]. -/
  ufv : Word
  /-- SYNCLIM.limit [R129 | 16 bits | 4,096]. -/
  synclim : BitVec 16
  /-- AQD.depth [R313 | 5 bits | the launch's aqd]. -/
  aqd : Nat
  /-- NBIND: slots and enables [R76 | 32 bits | 0]. -/
  nbind : Half
  /-- Domain masks, by domain [R192 | 3 bits each | all ones]. -/
  masks : Tbl (BitVec 3)
  /-- Landing-handler table [R176 | 256 code pointers | 0]. -/
  landing : Tbl Word
  /-- Service line; none where management gave none [R199 | line address | none]. -/
  service : Option Nat
  /-- Firing queue, current part, oldest first [R248 | 64 entries with next | empty]. -/
  fireNow : List Word
  /-- Firing queue, next part [R248 | 64 entries with current | empty]. -/
  fireNext : List Word
  /-- Arrival queue, oldest first [R69 | at most AQD, 16 | empty]. -/
  arrivals : List Arrival
  /-- Arrival-spill area, oldest first [R69 | list | empty]. -/
  arrSpill : List Arrival
  /-- Slots that a hand-over gives the context; none where no hand-over has bound it [R263 | slots | none]. -/
  slots : Option (List Nat)
  /-- The cycle in which the context last issued [R264 | number | 0]. -/
  issued : Nat
  deriving DecidableEq, Repr

/-- A channel end (R78). -/
structure ChanEnd where
  slot : Nat
  recv : Bool
  peer : Nat
  peerEnd : Nat
  allow : Nat
  buf : List Word
  deriving DecidableEq, Repr

/-! ## Lines -/

/-- A reuse record (R138). -/
structure Reuse where
  /-- due [R138 | 15 bits | from the mapping or fill]. -/
  due : Nat
  /-- reached [R138 | 1 bit | 0]. -/
  reached : Bool
  /-- slack [R138 | 12 bits | (d >> 3) + 1]. -/
  slack : Nat
  /-- open [R138 | 1 bit | 1]. -/
  opn : Bool
  /-- dead [R138 | 1 bit | 0, or 1 for code 0]. -/
  dead : Bool
  /-- over [R138 | 1 bit | 0]. -/
  isOver : Bool
  /-- age [R138 | 16 bits | the fill counter]. -/
  age : Nat
  /-- task (stash) or prom core (slice) [R138 | 6 or 20 bits | the issuer's]. -/
  who : Nat
  /-- clk (stash) [R138 | 1 bit | 0 for SMAP, 1 for a slab landing]. -/
  clk : Bool
  deriving DecidableEq, Repr

/-- States of a stash entry that is not free (R121). -/
inductive EntrySt where
  | unfilled | clean | dirty
  deriving DecidableEq, Repr

/-- A stash entry that maps a line (R121, R123, R138). -/
structure Entry where
  /-- Global line number. -/
  line : Nat
  ctx : Nat
  priv : Bool
  st : EntrySt
  /-- A coherent entry holds the line exclusively (R122). -/
  excl : Bool
  /-- 64 bytes; zeros while unfilled. -/
  data : List Byte
  /-- Full/empty bits as filled (R121, R126). -/
  fe : BitVec 8
  /-- Nibble mask of the bytes written (R123): 2 bits a byte. -/
  mask : List Nat
  /-- The domain kept from the fill (R193). -/
  domain : Nat
  reuse : Reuse
  /-- The engine command that owns the entry as a destination (R174, R215, R251). -/
  owner : Option Nat
  /-- The line was poisoned when it was filled (R131). -/
  poison : Bool
  /-- Words with a correctable error [R282 | 8 words | none]. -/
  soft : List Nat
  /-- A record's missed bit and fresh bits as the message-update unit last wrote them into the header that the entry holds; none
  where it has written none since the line was mapped (log 68) [R240 | 1 + 8 bits | none]. -/
  unit : Option (Bool × Nat)
  deriving DecidableEq, Repr

/-- A line of a cache slice (R119). The bytes stand in memory. -/
structure SliceLine where
  /-- Physical line number. -/
  pline : Nat
  vdev : VDev
  reuse : Reuse
  /-- Words with a correctable error [R282 | 8 words | none]. -/
  soft : List Nat
  /-- Written since its fill, so that DRAM is written when another line takes its way [R275 | 1 bit | 0]. -/
  dirty : Bool
  deriving DecidableEq, Repr

/-- A directory entry (R130), keyed by physical line number. A list entry stands with the device on whose account it was
taken (R272). -/
structure DirEntry where
  ptrs : List Nat
  overflow : List (Nat × VDev)
  /-- Sharers that the overflow handler has not added yet. -/
  queued : List (Nat × VDev)
  excl : Bool
  /-- The engine command that owns the line. -/
  engine : Option Nat
  deriving DecidableEq, Repr

/-- A line's metadata at its home beside its computed ecc (R131). -/
structure Meta where
  /-- fe [R131 | 8 bits | 0xFF]. -/
  fe : BitVec 8
  /-- poison [R131 | 1 bit | 0]. -/
  poison : Bool
  /-- owner [R131 | 11 bits | 0]. -/
  owner : VDev
  deriving DecidableEq, Repr

/-- A park-table entry (R128). -/
structure Park where
  core : Nat
  slot : Nat
  pa : Nat
  count : Nat
  limit : Nat
  next : Nat
  deriving DecidableEq, Repr

/-- A leaf in a miss-translation cache (R195). -/
structure Leaf where
  vdev : VDev
  ga : Nat
  size : Nat
  pa : Nat
  domain : Nat
  deriving DecidableEq, Repr

/-! ## Engines -/

/-- A landing packet that has reached its receiving core (R175, R176). -/
structure LandPkt where
  core : Nat
  reg : Nat
  id : Nat
  e : Nat
  addr : Nat
  row : Nat
  bytes : List Byte
  poison : Bool
  deriving DecidableEq, Repr

/-- The landing handler that the riddle runs (R176): its packet, the issuing context and device, and the instructions
that it has executed. -/
structure LandRun where
  pkt : LandPkt
  ctx : Nat
  vdev : VDev
  count : Nat
  deriving DecidableEq, Repr

/-- A ring tile on its way or in a latch (R219): its device, its bytes, and whether an uncorrectable line entered it (R283). -/
structure RingTile where
  vdev : VDev
  bytes : List Byte
  bad : Bool
  deriving DecidableEq, Repr

/-- A matrix queue (R215). -/
structure MQueue where
  active : Option MCmd
  shadow : Option MCmd
  /-- Ring tile latch (R219). -/
  latch : Option RingTile
  deriving DecidableEq, Repr

/-- A row of a WALK (R228): its progress record, whether it runs, the FP32 values of its output row so far and whether
they are to be written, and whether an uncorrectable line entered it (R283). -/
structure WalkRow where
  node : Word
  depth : Nat
  status : Nat
  pend : Nat
  flags : Nat
  runs : Bool
  y : List Nat
  wrote : Bool
  bad : Bool
  deriving DecidableEq, Repr

/-- A WALK in the trellis (R226-R230). -/
structure WalkJob where
  id : Nat
  iss : Issuer
  d : Nat
  rowTile : Word
  root : Word
  out : Nat
  prog : Nat
  /-- K of the root record; none where its fetch failed (R226). -/
  k : Option Nat
  /-- Issued under early service (R288). -/
  early : Bool
  /-- Work against the bound of R229, and the computing cycles of R225. -/
  work : Nat
  cycles : Nat
  dram : Nat
  flags : BitVec 6
  rows : List WalkRow
  /-- No key has run yet. -/
  first : Bool
  /-- The cycle bound has stopped the walk (R229). -/
  isOver : Bool
  /-- Source lines read so far, each once (R151): line, image, uncorrectable. -/
  seen : List (Nat × List Byte × Bool)
  deriving DecidableEq, Repr

/-- A FOREST in the trellis (R231-R233). -/
structure ForestJob where
  id : Nat
  iss : Issuer
  d : Nat
  samples : Nat
  record : Nat
  out : Nat
  count : Nat
  /-- Source lines read so far, each once (R151): line, image, uncorrectable. -/
  seen : List (Nat × List Byte × Bool)
  /-- DRAM lines read and written for the command. -/
  dram : Nat
  deriving DecidableEq, Repr

/-- The trellis. -/
inductive TrellisJob where
  | walk (j : WalkJob)
  | forest (j : ForestJob)
  deriving DecidableEq, Repr

/-- The commands of the message-update unit (R238-R251). -/
inductive GaussOp where
  | fac (j : Nat)
  | var
  /-- The image's bytes 0-55, and whether an uncorrectable line gave them (R283). -/
  | write (slot : Nat) (push : Bool) (image : List Byte) (bad : Bool)
  deriving DecidableEq, Repr

/-- A command accepted by the message-update unit. -/
structure GaussJob where
  id : Nat
  iss : Issuer
  record : Word
  op : GaussOp
  /-- DRAM lines that its acceptance has cost (R225). -/
  dram : Nat
  deriving DecidableEq, Repr

/-- A Gaussian delivery (R247). -/
structure Delivery where
  target : Nat
  record : Word
  slot : Nat
  msg : List Byte
  vdev : VDev
  src : Nat
  /-- The issuing thread's number, for FENCE (R255). -/
  thread : Nat
  /-- An uncorrectable line entered the message (R283). -/
  bad : Bool
  launch : Nat
  deriving DecidableEq, Repr

/-- What waits at the message-update unit (R247). -/
inductive GaussWork where
  | command (j : GaussJob)
  | delivery (d : Delivery)
  deriving DecidableEq, Repr

/-- A prefetch that waits at its line's home (R355): who asked, the address with its tag, and what it declares. -/
structure Prefetch where
  ctx : Nat
  task : Nat
  vdev : VDev
  ptr : Word
  use : Use
  deriving DecidableEq, Repr

/-! ## A core -/

/-- One core. -/
structure Core where
  /-- The cycle at which the core left self-test; CYC counts from it [R25 | 64 bits | 0]. -/
  cycBase : Nat
  /-- Threads by slot 0-61, 63 while the riddle runs a landing handler, and slot + 64 × (context + 1) for a thread of a
  context that took over a slot whose outgoing thread still stands there [R18, R56, R263 | 64 slots | empty]. -/
  slots : Tbl Thread
  /-- Slot generations [R71 | 15 bits each | DESIGN CHOICE 0 (log 3)]. -/
  gens : Tbl (BitVec 15)
  /-- Register file entries [R18 | 2,048 x 64 bits | DESIGN CHOICE 0 (log 3)]. -/
  regs : Tbl Word
  /-- Poisoned register entries [R283 | 2,048 bits | none]. -/
  regPoison : List Nat
  /-- Register entries with a correctable error [R282 | 2,048 bits | none]. -/
  regSoft : List Nat
  /-- Register entries, from 0 up, that programs' windows may use [R262, R284 | number | 2,016]. -/
  usable : Nat
  /-- Contexts 0-7 [R263 | 8 | empty]. -/
  ctxs : Tbl Context
  /-- Tasks 0-63 [R135, R138 | 6-bit numbers | empty]. -/
  tasks : Tbl Task
  /-- Task queue, oldest first [R63 | 64 entries | empty]. -/
  queue : List TaskRec
  /-- Task-spill region, oldest first [R63 | list | empty]. -/
  spill : List TaskRec
  /-- Stash entries by index 0-511 [R121 | 512 | free]. -/
  stash : Tbl Entry
  /-- The stash's fill counter [R138 | 16 bits | DESIGN CHOICE 0 (log 3)]. -/
  stashFill : Nat
  /-- Slice lines by set x 16 + way [R119 | 1,024 | empty]. -/
  slice : Tbl SliceLine
  /-- The slice's fill counter [R138 | 16 bits | DESIGN CHOICE 0 (log 3)]. -/
  sliceFill : Nat
  /-- Directory of this home's lines [R130 | 5 states | uncached]. -/
  dir : Tbl DirEntry
  /-- Directory-overflow work queued for the riddle: physical line and sharer [R130 | list | empty]. -/
  overflowWork : List (Nat × Nat)
  /-- Park table [R128 | 16 entries | empty]. -/
  park : Tbl Park
  /-- Refusal list: core and slot, oldest first [R128 | 64 entries | empty]. -/
  refusals : List (Nat × Nat)
  /-- Round-robin pointer over N, E, S, W and own core, as it stands in the cycle `robinAt` [R127 | 0-4 | N]. -/
  robin : Nat
  /-- The last cycle in which operations were taken, and the ports taken in it, in order [R127 | - | none]. -/
  robinAt : Option (Nat × List Nat)
  /-- Prefetches that wait at their homes, oldest first [R355 | list | empty]. -/
  prefs : List Prefetch
  /-- Mailbox queue, oldest first [R73 | 32 entries | empty]. -/
  mail : List Mail
  /-- Input FIFOs of mN, mE, mS, mW [R76 | 4 x 4 words | empty]. -/
  fifos : Tbl (List Word)
  /-- Channel ends [R78 | 16 | unbound]. -/
  ends : Tbl ChanEnd
  /-- Barrow mailbox registers 0-7 [R55 | 8 | free]. -/
  barrow : Tbl Copy
  /-- The barrow's place in the rotation of active registers [R174 | 0-7 | DESIGN CHOICE 0 (log 3)]. -/
  barrowNext : Nat
  /-- Landing packets in order of arrival [R176, R272 | 32 | empty]. -/
  landing : List LandPkt
  /-- The landing handler in progress [R176 | - | none]. -/
  landRun : Option LandRun
  /-- Matrix queues [R215 | 2 | empty]. -/
  hi : MQueue
  lo : MQueue
  /-- Work of the trellis [R226, R231 | 1 | none]. -/
  trellis : Option TrellisJob
  /-- Work of the message-update unit in order of arrival, at most 16 deliveries among it [R247 | list | empty]. -/
  gauss : List GaussWork
  /-- The cycles at which the matrix, trellis and message-update units have done the work that they have begun
  [R211, R229, R254 | numbers | 0]. -/
  arrayFree : Nat
  trellisFree : Nat
  gaussFree : Nat
  /-- The number of works that the message-update unit has begun (log 1) [model | number | 0]. -/
  gaussSeq : Nat
  /-- Miss-translation cache, least recently used first [R195 | 128 | empty]. -/
  mtc : List Leaf
  /-- Protection lookaside buffer: context, domain and cached rights [R192 | 256 | empty]. -/
  plb : List (Nat × Nat × BitVec 3)
  /-- Halted by HALTD [R158 | 1 bit | 0]. -/
  halted : Bool
  /-- Slots stopped by a breakpoint [R202 | slots | none]. -/
  stopped : List Nat
  /-- DRAINED [R158 | 1 bit | 0]. -/
  drained : Bool
  /-- A drain has been asked for [R158 | 1 bit | 0]. -/
  draining : Bool
  /-- CAPK.part [R220 | 16 bits | 0]. -/
  capPart : BitVec 16
  /-- CAPK.gen [R220 | 32 bits | 0]. -/
  capGen : Half
  /-- Fenced: hosts nothing [R284 | 1 bit | 0]. -/
  fenced : Bool
  /-- Dark: serves as no home [R284 | 1 bit | 0]. -/
  dark : Bool
  /-- Breakpoints [R202 | addresses | none]. -/
  breaks : List Pc
  /-- Corrected-error counter [R282 | number | 0]. -/
  corrected : Nat
  /-- Command window address; none where management gave none [R223 | line address | none]. -/
  window : Option Nat
  /-- Shadow set [R82 | - | free]. -/
  shadow : Shadow
  /-- Slots that wait for the shadow set, in request order [R82 | list | empty]. -/
  wanting : List Nat
  /-- Slots lent on this core: slot, lender, borrower [R273 | list | none]. -/
  lent : List (Nat × VDev × VDev)
  /-- Dispatch is stopped for a shrink or recall [R259, R273 | 1 bit | 0]. -/
  closed : Bool
  /-- Arrival order counter of the core [R70 | number | 0]. -/
  arrStamp : Nat
  /-- Arrivals that found their queue full and that the riddle has still to write into the spill areas, with their contexts
  [R56, R69 | list | empty]. -/
  arrOut : List (Nat × Arrival)
  /-- Slots whose turn will pass them to an incoming context [R263 | slots | none]. -/
  handing : List (Nat × Nat)
  deriving DecidableEq, Repr

/-! ## Packets in flight -/

/-- A packet that its sender does not wait for (R22, R153). -/
inductive Packet where
  | context (dst : Nat) (t : Travel)
  | task (dst : Nat) (t : TaskRec)
  | message (dst src : Nat) (vdev : VDev) (id : Word) (payload : List Word)
  | mail (dst : Nat) (m : Mail)
  | port (dst : Nat) (d : Dir) (vdev : VDev) (w : Word)
  | channel (dst dstEnd src srcEnd : Nat) (w : Word)
  | grant (dst dstEnd src srcEnd : Nat) (n : Nat)
  | credence (dst : Nat) (vdev : VDev) (kept : Bool)
  | gauss (d : Delivery)
  | tile (dst : Nat) (hi : Bool) (t : RingTile)
  | mcmd (dst : Nat) (hi : Bool) (cap : Word) (c : MCmd)
  deriving DecidableEq, Repr

/-- A packet on the mesh with the thread that sent it (for FENCE) and the cycle of its next resend, where it has been
refused (R73). -/
structure Flight where
  pkt : Packet
  core : Nat
  /-- The sending thread's number; 0 where none sent it (log 53). -/
  thread : Nat
  /-- The sending thread forfeits turns until the packet is accepted. -/
  waits : Bool
  resend : Option Nat
  /-- The launch of the sending thread; 0 where none sent it. -/
  launch : Nat
  deriving DecidableEq, Repr

/-! ## Partitions, devices and the ridge controller -/

/-- An owner in a partition (R270-R275). -/
structure Owner where
  cfg : OwnerEntry
  /-- Launches queued, oldest first [R271 | list | empty]. -/
  queue : List Nat
  /-- Deficit of the round robin [R271 | number | 0]. -/
  deficit : Nat
  /-- Accrued credit in slot-turns and energy [R274 | numbers | 0]. -/
  creditTurns : Nat
  creditEnergy : Nat
  /-- Slot-turns used in this window [R274 | number | 0]. -/
  used : Nat
  /-- The limit of slot-turns in this window; none where no limit binds [R274 | number | none]. -/
  cap : Option Nat
  /-- The cycle since which no launch is queued or running; none while one is [R274 | number | the creation]. -/
  idleFrom : Option Nat
  /-- The owner has woken since the window began [R274 | 1 bit | 0]. -/
  woke : Bool
  /-- Usage counters: slot-turns, energy, DRAM bytes, Ultra Ethernet bytes [R275 | 4 x 64 bits | 0]. -/
  turns : Word
  energy : Word
  dramBytes : Word
  ueBytes : Word
  /-- Sequence number of its snapshots [R275 | 64 bits | 0]. -/
  snapSeq : Nat
  deriving DecidableEq, Repr

/-- A region-handle entry (R184). -/
structure Handle where
  /-- generation [R184 | 16 bits | 1]. -/
  gen : Nat
  owner : VDev
  live : Bool
  deriving DecidableEq, Repr

/-- A revocation that waits for acknowledgements (R183): cores that have not acknowledged, the service line to answer. -/
structure Revoke where
  idx : Nat
  gen : Nat
  waiting : List Nat
  free : Bool
  line : Option Nat
  vdev : VDev
  deriving DecidableEq, Repr

/-- The states of a node that is neither inside another nor unlisted (R258). -/
inductive NodeSt where
  | free | part | split
  deriving DecidableEq, Repr

/-- A log entry (R209). -/
structure LogEntry where
  pa : Nat
  ga : Nat
  vdev : VDev
  core : Nat
  cause : Nat
  cyc : Nat
  deriving DecidableEq, Repr

/-- A node of the buddy tree (R257, R258) with a partition's state. -/
structure Node where
  st : NodeSt
  owners : List Owner
  /-- PM [R279 | 64 bytes | 0]. -/
  pm : List Byte
  /-- Sequence number of the configuration in force [R270 | number | 0]. -/
  cfgSeq : Nat
  /-- The configuration in force [R280 | bytes | none]. -/
  cfg : List Byte
  /-- Region handles 1-65,535 [R184 | 65,535 | free, generation 1]. -/
  handles : Tbl Handle
  revokes : List Revoke
  /-- Violation log and its overflow word [R209 | 4,096 entries | empty]. -/
  violations : List LogEntry
  violOver : Nat
  /-- Error log and its overflow word [R209 | 4,096 entries | empty]. -/
  errors : List LogEntry
  errOver : Nat
  /-- The child that a shrink keeps, while the other one's cores leave [R259 | node | none]. -/
  keep : Option Nat
  /-- Next owner that the deficit round robin serves [R271 | index | 0]. -/
  drr : Nat
  deriving DecidableEq, Repr

/-- A launch (R267, R268). -/
structure Launch where
  node : Nat
  vdev : VDev
  qp : Nat
  record : TaskRec
  slots : Nat
  aqd : Nat
  coalesce : Nat
  tag : Half
  started : Bool
  core : Nat
  ended : Nat
  cause : Nat
  turns : Nat
  aborted : Bool
  deriving DecidableEq, Repr

/-- A completion record held by a queue pair (R269). -/
structure HeldDone where
  bytes : List Byte
  at_ : Nat
  limit : Nat
  deriving DecidableEq, Repr

/-- A queue pair (R265, R269). -/
structure QueuePair where
  vdev : VDev
  port : Nat
  launch : Bool
  /-- Ultra Ethernet endpoint address of the device [R265 | number | at creation]. -/
  endpoint : Nat
  /-- Delivery service [R265 | 3 kinds | at creation]. -/
  service : UeService
  /-- coalescing window [R269 | 32 bits | 0]. -/
  window : Nat
  /-- records per event [R269 | 4 bits | 1]. -/
  max : Nat
  held : List HeldDone
  /-- Events and replies sent to the peer, oldest first. -/
  sent : List (List Byte)
  /-- Messages placed in receive buffers, oldest first [R266 | list | empty]. -/
  recv : List (List Byte)
  /-- Error responses given. -/
  errors : Nat
  deriving DecidableEq, Repr

/-- A virtual device (R196, R199, R176). -/
structure Device where
  root : Nat
  /-- Rights table by domain [R192 | 3 bits each | none]. -/
  rights : Tbl (BitVec 3)
  /-- Frame pool: the free 256-byte units of its frames by physical base [R199 | list | empty]. -/
  frames : List Nat
  deriving DecidableEq, Repr

/-- A granule's ownership entry (R200). -/
structure Granule where
  /-- owner [R200 | 11 bits | 0]. -/
  owner : VDev
  /-- valid [R200 | 1 bit | 0]. -/
  valid : Bool
  /-- shared [R200 | 1 bit | 0]. -/
  shared : Bool
  deriving DecidableEq, Repr

/-- A page-lock entry of a frame (R201). -/
structure PinCount where
  /-- engine pins [R201 | 16 bits | 0]. -/
  engine : Nat
  /-- program pins [R201 | 16 bits | 0]. -/
  program : Nat
  deriving DecidableEq, Repr

/-- A migration or unmapping in progress (R201), with the service line that asked for an unmapping. -/
structure Migration where
  vdev : VDev
  /-- The page's base, size code, old frame and domain. -/
  ga : Nat
  size : Nat
  pa : Nat
  domain : Nat
  /-- The new frame; none for an unmapping. -/
  frame : Option Nat
  line : Option Nat
  deriving DecidableEq, Repr

/-- The ridge controller and the board (R276-R290). -/
structure Ridge where
  /-- Fused secret: the 57 bytes are Config.secret of this number, a free value (log 7) [R277 | 57 bytes, by number | 0]. -/
  fuses : Nat
  /-- Flash: the certificate of the public key is Config.certificate of this number, a free value (log 7)
  [R277 | bytes, by number | 0]. -/
  certificate : Nat
  /-- Flash: the firmware images of the stages that ran [R276, R278 | by stage | empty]. -/
  flash : Tbl (List Byte)
  /-- SRAM: the identity key pair, private and public, that the ROM derives at boot [R276, R277 | 2 x 57 bytes | none]. -/
  keys : Option (List Byte × List Byte)
  /-- FM [R278 | 64 bytes | 0]. -/
  fm : List Byte
  /-- Boot stages done, 0-4 [R278 | 3 bits | 0]. -/
  stage : Nat
  /-- Report sequence number [R280 | 64 bits | 0]. -/
  seq : Nat
  /-- service [R286 | 2 bits | 0]. -/
  service : Nat
  /-- replace [R286 | 1 bit | 0]. -/
  replace : Bool
  /-- throttle [R286 | 1 bit | 0]. -/
  throttle : Bool
  /-- Stacks whose DRAM has been trained and scrubbed [R287 | 16 bits | none]. -/
  trained : List Nat
  /-- bootfail [R286 | 3 bits | 0]. -/
  bootfail : Nat
  /-- bfail [R286 | 24 bits | 0]. -/
  bfail : BitVec 24
  /-- STBY_OK, CORE_EN, CORE_OK, MEM_EN, MEM_OK, HOT_STOP [R289 | 6 signals | 0]. -/
  stbyOk : Bool
  coreEn : Bool
  coreOk : Bool
  memEn : Bool
  memOk : Bool
  hotStop : Bool
  /-- The cycle in which a power-down that is under way took its last step; none where none is [R289 | number | none]. -/
  downAt : Option Nat
  /-- Die sensors by stack, in degrees C [R290 | 16 | DESIGN CHOICE 0 (log 3)]. -/
  sensors : Tbl Int
  /-- The cycle since which every sensor has read 90 degrees C or less; none while one reads more [R290 | number | 0]. -/
  cool : Option Nat
  /-- Failed links by boundary x 2 + layer [R285 | counts | 0]. -/
  links : Tbl Nat
  /-- Reports and snapshots returned over the management port, oldest first [R275, R280 | list | empty]. -/
  reports : List (List Byte)
  /-- Refusals reported to management, oldest first [R28, R258 | list | empty]. -/
  notices : List String
  /-- Steps from outside that wait for something and are taken again, oldest first [R199, R201, R259, R273 | list | empty]. -/
  underway : List Instr
  deriving DecidableEq, Repr

/-! ## The module -/

/-- The slot that holds the turn while an encoded instruction executes: its core, its slot and the PC of the
instruction that follows (R103). -/
structure Turn where
  core : Nat
  slot : Nat
  next : Pc
  /-- Words that an earlier execution of the instruction has taken, oldest first (R107, R146). -/
  again : List Word
  /-- The first poisoned register that the instruction has read (R203, R283). -/
  poison : Option Nat
  /-- What stood at the turn in which the instruction issued (R134, R136, R141, R168). -/
  at_ : AtIssue
  deriving DecidableEq, Repr

/-- A step that arrives from outside, and whether it carries a signature that the controller accepts (R276). -/
structure Request where
  step : Instr
  signed : Bool
  deriving DecidableEq, Repr

/-- The module's state. -/
structure State where
  /-- Cycles of the arithmetic clock since power-on [R24 | number | 0]. -/
  now : Nat
  /-- The model's own: cores that still take their turn in this cycle (log 1) [model | list | empty]. -/
  turns : List Nat
  /-- The model's own: whose turn it is (log 1) [model | - | none]. -/
  turn : Option Turn
  /-- The model's own: steps from outside that have arrived and are not taken yet (log 1) [model | list | empty]. -/
  inputs : List Request
  /-- The model's own: periodic steps due in this cycle (log 1) [model | list | empty]. -/
  agenda : List Instr
  /-- Packets in flight, oldest first [R22, R23 | list | empty]. -/
  wire : List Flight
  /-- Cores that hold anything; an unlisted core holds `Core.reset` [R18 | 1,048,576 | Core.reset]. -/
  cores : Tbl Core
  /-- DRAM bytes by physical address, in canonical form [R17, R281 | 4 TiB | scrubbed: 0]. -/
  mem : List Host.Cell
  /-- Line metadata by physical line number [R131 | per line | fe 0xFF, poison 0, owner 0]. -/
  metas : Tbl Meta
  /-- Words with an error their ecc shows, by physical address / 8: true uncorrectable, false correctable [R131, R282 | per word | none]. -/
  soft : Tbl Bool
  /-- Physical lines whose metadata is uncorrectable [R131 | per line | none]. -/
  metaBad : List Nat
  /-- The cycle in which a stack's cores left the self-test of power-on [R25, R284, R287 | 16 numbers | DESIGN CHOICE 0 (log 54)]. -/
  selfTested : Tbl Nat
  /-- Frame ownership table by granule (pa / 4,096) [R200 | per granule | 0]. -/
  granules : Tbl Granule
  /-- Page-lock tables by frame base [R201 | per frame | 0]. -/
  pins : Tbl PinCount
  /-- Virtual devices [R265 | 2,048 | none created]. -/
  vdevs : Tbl Device
  /-- Nodes of the buddy tree; an unlisted node is inside [R257 | 32,767 | node 1 free (log 3)]. -/
  nodes : Tbl Node
  /-- Launches [R267 | list | empty]. -/
  launches : Tbl Launch
  /-- Next launch number [model | number | 1]. -/
  nextLaunch : Nat
  /-- Queue pairs [R265 | 64 per device | none]. -/
  qps : Tbl QueuePair
  /-- Threads evicted, waiting for re-entry [R261 | list | empty]. -/
  evicted : List Saved
  /-- Migrations in progress [R201 | list | empty]. -/
  migrations : List Migration
  /-- Commit arbiters' stamp counters: plots, 16,384 + stack, 16,400 the module [R147 | counters | 0]. -/
  arbiters : Tbl Nat
  /-- The model's own free value: pairs of line numbers that the Bloom signatures do not tell apart (log 6) [R146 | list | empty]. -/
  bloom : List (Nat × Nat)
  /-- The model's own: next engine command number (log 1) [model | number | 1]. -/
  nextCmd : Nat
  /-- The model's own: next number of a thread or a task (log 53) [model | number | 1]. -/
  nextId : Nat
  /-- The ridge controller and the board [R276-R290 | - | power-on]. -/
  ridge : Ridge
  deriving DecidableEq, Repr

/-! ## Reset -/

/-- The shadow set of a core that has left self-test. -/
def Shadow.reset : Shadow := ⟨none, none, [0, 0, 0, 0, 0, 0, 0, 0], 0, 0, 0, 0⟩

/-- An empty matrix queue. -/
def MQueue.empty : MQueue := ⟨none, none, none⟩

/-- A core at power-on. -/
def Core.reset : Core :=
  { cycBase := 0, slots := [], gens := [], regs := [], regPoison := [], regSoft := [], usable := 2016, ctxs := [], tasks := [], queue := [],
    spill := [], stash := [], stashFill := 0, slice := [], sliceFill := 0, dir := [], overflowWork := [], park := [],
    refusals := [], robin := 0, robinAt := none, prefs := [], mail := [], fifos := [], ends := [], barrow := [], barrowNext := 0, landing := [],
    landRun := none, hi := .empty, lo := .empty, trellis := none, gauss := [], arrayFree := 0, trellisFree := 0,
    gaussFree := 0, gaussSeq := 0, mtc := [], plb := [],
    halted := false, stopped := [], drained := false, draining := false, capPart := 0, capGen := 0, fenced := false,
    dark := false, breaks := [], corrected := 0, window := none, shadow := .reset, wanting := [], lent := [],
    closed := false, arrStamp := 0, arrOut := [], handing := [] }

/-- The ridge controller at power-on (R286, R278). -/
def Ridge.reset : Ridge :=
  { fuses := 0, certificate := 0, flash := [], keys := none,
    fm := List.replicate 64 0, stage := 0, seq := 0, service := 0, replace := false, throttle := false, trained := [], bootfail := 0,
    bfail := 0, stbyOk := false, coreEn := false, coreOk := false, memEn := false, memOk := false, hotStop := false,
    downAt := none, sensors := [], cool := some 0, links := [], reports := [], notices := [], underway := [] }

/-- A free node. -/
def Node.free : Node :=
  { st := .free, owners := [], pm := List.replicate 64 0, cfgSeq := 0, cfg := [], handles := [], revokes := [],
    violations := [], violOver := 0, errors := [], errOver := 0, keep := none, drr := 0 }

/-- The module at power-on: service off, rails down, nothing allotted (R286, R287, R289). -/
def State.reset : State :=
  { now := 0, turns := [], turn := none, inputs := [], agenda := [], wire := [], cores := [], mem := [], metas := [],
    soft := [], metaBad := [], selfTested := [], granules := [], pins := [], vdevs := [], nodes := [(1, .free)], launches := [], nextLaunch := 1,
    qps := [], evicted := [], migrations := [], arbiters := [], bloom := [], nextCmd := 1, nextId := 1, ridge := .reset }

end Sys2Proof.Machine
end

