-- ==== Sys2Proof/Machine/Base.lean ====
section
/-! DEFINITION. The step monad, the accessors of the state's tables, the module's geometry (R11-R15, R257), physical
memory, the frame owner check (R200), logs (R209), translation (R195-R198) and rights (R192, R193). -/

namespace Sys2Proof.Machine

/-! ## Stops -/

/-- A log entry that a trap leaves behind (R131, R200, R209): in the error log or the violation log, with the physical
address, where it is known, and the global one. An error-log entry poisons its line. -/
structure Log where
  err : Bool
  pa : Option Nat
  ga : Nat
  deriving DecidableEq, Repr

/-- How an instruction's body ends without its effect. -/
inductive Stop where
  /-- It raises a trap (R202); the log entries stay. -/
  | trap (t : Trap) (logs : List Log)
  /-- It forfeits its turn and issues again (R53, R83). -/
  | wait (on : WaitOn)
  /-- Its chunk has to commit before it issues (R144). -/
  | close
  /-- It has issued, and its effect waits until its chunk's other instructions have committed (R145). -/
  | commit
  deriving DecidableEq, Repr

/-- What follows a body that was performed: the next instruction, or the thread stays as the body left it. -/
inductive Done where
  | next | stay
  deriving DecidableEq, Repr

/-- A step's body: an error reverts the state. -/
abbrev Act (α : Type) := StateT State (Except Stop) α

/-- Raises a trap. -/
def raise {α : Type} (cause : Nat) (d1 d2 d3 : Word) (logs : List Log := []) : Act α :=
  throw (.trap ⟨cause, d1, d2, d3⟩ logs)

/-- Forfeits the turn; an interrupt does not wake the thread. -/
def waitTurn {α : Type} : Act α := throw (.wait .quiet)

/-- Waits for the fill, the recall or the write-back of a line (R143). -/
def waitLine {α : Type} (gl : Nat) : Act α := throw (.wait (.lines [gl]))

/-- Forfeits the turn; an interrupt wakes the thread (R83). -/
def waitIrq {α : Type} : Act α := throw (.wait .irq)

/-! ## Tables -/

/-- Core `c`; one that nothing has touched is as at power-on. -/
def State.core (s : State) (c : Nat) : Core := s.cores.get c Core.reset

/-- The state with core `c` replaced. -/
def State.setCore (s : State) (c : Nat) (k : Core) : State := { s with cores := s.cores.put c k }

/-- The state with core `c` changed. -/
def State.modCore (s : State) (c : Nat) (f : Core → Core) : State := s.setCore c (f (s.core c))

/-- The thread in a slot. -/
def State.thread? (s : State) (c i : Nat) : Option Thread := (s.core c).slots.find? i

/-- The state with the thread in a slot replaced. -/
def State.setThread (s : State) (c i : Nat) (t : Thread) : State :=
  s.modCore c (fun k => { k with slots := k.slots.put i t })

/-- The state with the thread in a slot changed, if there is one. -/
def State.modThread (s : State) (c i : Nat) (f : Thread → Thread) : State :=
  match s.thread? c i with
  | some t => s.setThread c i (f t)
  | none => s

/-- A chunk that has just begun at a thread's state, its window holding `regs`, `poison` among them poisoned (R146, R283). -/
def Chunk.fresh (t : Thread) (regs : List Word) (poison : List Nat := []) : Chunk :=
  ⟨t.pc, t.preds, t.flags, t.level, t.wake, regs, poison, false, 0, [], [], [], [], false, none⟩

/-- No thread: what a read of an empty slot's thread gives. -/
def Thread.blank : Thread :=
  { id := 0, hops := 0, ctx := 0, task := 0, launch := 0, vdev := 0, prio := false, level := false, spawned := none, base := 0, size := 0,
    pc := 0, preds := 1, flags := 0, fsave := 0, wake := false, status := .ready, owed := 0, starts := 0, asked := 0, issued := none,
    taken := [], raised := none, handler := false, pending := [], saved := none, after := none, doomed := none,
    altLast := 4, fetch := [], chunk := ⟨0, 1, 0, false, false, [], [], false, 0, [], [], [], [], false, none⟩ }

/-- A context as its creation leaves it (R129, R132, R134, R142, R192, R205, R225). -/
def Context.fresh (v : VDev) (aqd : Nat) : Context :=
  { vdev := v, dist0 := 32, cred := 255, limStash := 512, limSlice := 1024, ebud := 0, erate := 0, credit := 0,
    uhv := 0, ufv := 0, synclim := 4096, aqd := aqd, nbind := 0, masks := [], landing := [], service := none, fireNow := [], fireNext := [],
    arrivals := [], arrSpill := [], slots := none, issued := 0 }

/-- Context `x` of core `c`; number 63 is the issuing context of the landing handler that the core's riddle runs
(R176). -/
def State.ctx (s : State) (c x : Nat) : Context :=
  if x = 63 then
    match (s.core c).landRun with
    | some r => (s.core r.pkt.core).ctxs.get r.ctx (Context.fresh r.vdev 16)
    | none => Context.fresh 0 16
  else (s.core c).ctxs.get x (Context.fresh 0 16)

/-- The state with a context changed, if it is resident. -/
def State.modCtx (s : State) (c x : Nat) (f : Context → Context) : State :=
  s.modCore c (fun k => { k with ctxs := k.ctxs.mod x f })

/-- The context that a virtual device has on a core (R263). -/
def State.ctxOf (s : State) (c : Nat) (v : VDev) : Option Nat :=
  (List.find? (fun p => p.2.vdev == v) (s.core c).ctxs).map Prod.fst

/-- A context holds a slot (R263): one that a hand-over gave it, or, where none bound it, one that no other context was
given. -/
def State.holdsSlot (s : State) (c x i : Nat) : Bool :=
  match (s.ctx c x).slots with
  | some l => l.contains i
  | none => !(s.core c).ctxs.any (fun p => p.1 != x && match p.2.slots with | some l => l.contains i | none => false)

/-- A thread issues in the turns of its slot (R263): its context holds the slot. -/
def State.active (s : State) (c i : Nat) : Bool :=
  match s.thread? c i with
  | some t => i = 63 || s.holdsSlot c t.ctx (i % 64)
  | none => false

/-- A task as its start leaves it (R66, R68, R135, R137). -/
def Task.fresh (id cyc : Nat) (bclk : Half) (prio : Bool := false) : Task := ⟨id, bclk, 64, [], (cyc, bclk.toNat), 0, 0, prio⟩

/-- Task `t` of core `c`. -/
def State.task (s : State) (c t : Nat) : Task := (s.core c).tasks.get t (Task.fresh 0 0 0)

/-- CYC of a core: the cycles since it left self-test, at power-on with its stack or in a later one of its own (R25, R284).
R25 gives no relation between the CYCs of two cores; here all cores of a stack leave the self-test of power-on in one cycle
(notes/assumptions/54.md). -/
def State.cyc (s : State) (c : Nat) : Nat :=
  (s.now - max (s.core c).cycBase (s.selfTested.get (c / 65536) 0)) % 2 ^ 64

/-- A core's slice tick, CYC[20:6] (R139). -/
def State.sliceTick (s : State) (c : Nat) : Nat := bitsOf (s.cyc c) 20 6

/-! ## Geometry -/

/-- Global x of a core (R13). -/
def gxOf (c : Nat) : Nat := 256 * (c / 65536 % 4) + c % 256

/-- Global y of a core (R13). -/
def gyOf (c : Nat) : Nat := 256 * (c / 65536 / 4 % 4) + c / 256 % 256

/-- The core at global coordinates (R12, R13). -/
def coreAt (gx gy : Nat) : Nat := (gy / 256 * 4 + gx / 256) * 65536 + gy % 256 * 256 + gx % 256

/-- The neighbour of a core in a direction (R13). -/
def neighbour (c : Nat) : Dir → Option Nat
  | .n => if gyOf c = 0 then none else some (coreAt (gxOf c) (gyOf c - 1))
  | .e => if gxOf c = 1023 then none else some (coreAt (gxOf c + 1) (gyOf c))
  | .s => if gyOf c = 1023 then none else some (coreAt (gxOf c) (gyOf c + 1))
  | .w => if gxOf c = 0 then none else some (coreAt (gxOf c - 1) (gyOf c))

/-- The opposite direction. -/
def oppDir : Dir → Dir
  | .n => .s | .e => .w | .s => .n | .w => .e

/-- The index of a direction's FIFO. -/
def dirIdx : Dir → Nat
  | .n => 0 | .e => 1 | .s => 2 | .w => 3

/-- A node's rectangle in plots: x, y, width, height, and its level (R257). -/
def nodeRect : Nat → Nat → Nat × Nat × Nat × Nat × Nat
  | 0, _ => (0, 0, 128, 128, 14)
  | fuel + 1, n =>
    if n ≤ 1 then (0, 0, 128, 128, 14)
    else
      let (x, y, w, h, l) := nodeRect fuel (n / 2)
      if l % 2 = 0 then (x, y + n % 2 * (h / 2), w, h / 2, l - 1) else (x + n % 2 * (w / 2), y, w / 2, h, l - 1)

/-- A core lies in a node (R257). -/
def inNode (n c : Nat) : Bool :=
  let (x, y, w, h, _) := nodeRect 15 n
  x ≤ gxOf c / 8 && gxOf c / 8 < x + w && y ≤ gyOf c / 8 && gyOf c / 8 < y + h

/-- The partition that holds a core (R258). -/
def State.partOf (s : State) (c : Nat) : Option Nat :=
  (List.find? (fun p => p.2.st == .part && inNode p.1 c) s.nodes).map Prod.fst

/-- The state with a node changed. -/
def State.modNode (s : State) (n : Nat) (f : Node → Node) : State := { s with nodes := s.nodes.mod n f }

/-- Two cores lie in one partition. -/
def State.samePart (s : State) (c c' : Nat) : Bool := (s.partOf c).isSome && s.partOf c == s.partOf c'

/-- The plot number of a core (R15). -/
def plotOf (c : Nat) : Nat := gyOf c / 8 * 128 + gxOf c / 8

/-- The owner record of a virtual device in the partition that holds a core. -/
def State.owner? (s : State) (c : Nat) (v : VDev) : Option Owner := do
  let n ← s.partOf c
  let k ← s.nodes.find? n
  k.owners.find? (fun o => o.cfg.vdev == v)

/-- The partition in which a device is an owner, the least by node number where there are several. -/
def State.partitionOf (s : State) (v : VDev) : Option Nat :=
  (List.find? (fun p => p.2.st == .part && p.2.owners.any (fun o => o.cfg.vdev == v)) s.nodes).map Prod.fst

/-- The partition that a request from a core on a device's account belongs to: the core's, or, where the device owns nothing
there (a port's stack), the device's own. -/
def State.nodeFor (s : State) (c : Nat) (v : VDev) : Option Nat :=
  if (s.owner? c v).isSome then s.partOf c else (s.partitionOf v).orElse (fun _ => s.partOf c)

/-- The state with an owner's record changed. -/
def State.modOwner (s : State) (c : Nat) (v : VDev) (f : Owner → Owner) : State :=
  match s.nodeFor c v with
  | some n => s.modNode n (fun k => { k with owners := k.owners.map (fun o => if o.cfg.vdev == v then f o else o) })
  | none => s

/-- A request for `n` units of a shared pool finds them (R272): what is left of its owner's reservation, and of the common
part after what every owner holds beyond its own. `used` counts each owner's units. -/
def poolOpen (total : Nat) (owners : List Owner) (res : OwnerEntry → Nat) (used : VDev → Nat) (v : VDev) (n : Nat := 1) : Bool :=
  let mine := ((owners.find? (fun o => o.cfg.vdev == v)).map (fun o => res o.cfg)).getD 0
  let common := total - (owners.map (fun o => res o.cfg)).foldl (· + ·) 0
  let spent := (owners.map (fun o => used o.cfg.vdev - res o.cfg)).foldl (· + ·) 0 +
    (if owners.any (fun o => o.cfg.vdev == v) then 0 else used v)
  n ≤ (mine - used v) + (common - spent)

/-- Owners of the partition that holds a core. -/
def State.ownersAt (s : State) (c : Nat) : List Owner :=
  match s.partOf c with
  | some n => ((s.nodes.find? n).map Node.owners).getD []
  | none => []

/-! ## Physical memory -/

/-- Reads one byte of memory; an unlisted address reads 0 (R281, R287). -/
def memGet : List Host.Cell → Nat → Byte
  | [], _ => 0
  | (j, b) :: t, a => if j = a then b else if a < j then 0 else memGet t a

/-- Writes one byte, keeping the canonical form: a byte of 0 is not listed. -/
def memSet : List Host.Cell → Nat → Byte → List Host.Cell
  | [], a, v => if v = 0 then [] else [(a, v)]
  | (j, b) :: t, a, v =>
    if a < j then (if v = 0 then (j, b) :: t else (a, v) :: (j, b) :: t)
    else if a = j then (if v = 0 then t else (a, v) :: t)
    else (j, b) :: memSet t a v

/-- The canonical form of memory: addresses rise strictly and no listed byte is 0. -/
def memWf : List Host.Cell → Bool
  | [] => true
  | [(_, b)] => b != 0
  | (j, b) :: (k, c) :: t => b != 0 && j < k && memWf ((k, c) :: t)

/-- The bytes at a physical address. -/
def memRead (m : List Host.Cell) (a : Nat) : Nat → List Byte
  | 0 => []
  | n + 1 => memGet m a :: memRead m (a + 1) n

/-- Writes bytes from a physical address up. -/
def memWrite (m : List Host.Cell) (a : Nat) : List Byte → List Host.Cell
  | [] => m
  | b :: t => memWrite (memSet m a b) (a + 1) t

/-- A nibble-masked byte: 3 both nibbles, 1 the low one, 2 the high one (R363). -/
def mergeByte (old new : Byte) (mask : Nat) : Byte :=
  let o := old.toNat
  let n := new.toNat
  BitVec.ofNat 8 ((if mask / 2 % 2 = 1 then n / 16 else o / 16) * 16 + (if mask % 2 = 1 then n % 16 else o % 16))

/-- Writes nibble-masked bytes. -/
def memMerge (m : List Host.Cell) (a : Nat) : List (Byte × Nat) → List Host.Cell
  | [] => m
  | (b, k) :: t => memMerge (memSet m a (mergeByte (memGet m a) b k)) (a + 1) t

/-- The home of a physical address (R17, R119). -/
def homeOf (pa : Nat) : Nat := pa / 2 ^ 22 % 2 ^ 20

/-- A line's metadata (R131). -/
def State.metaOf (s : State) (pl : Nat) : Meta := s.metas.get pl ⟨0xFF, false, 0⟩

/-- The state with a line's metadata replaced. -/
def State.setMeta (s : State) (pl : Nat) (m : Meta) : State := { s with metas := s.metas.put pl m }

/-- A line that a read finds uncorrectable, in a word or in its metadata, or poisoned (R127, R131). -/
def State.bad (s : State) (pl : Nat) : Bool :=
  (s.metaOf pl).poison || s.metaBad.contains pl || s.soft.any (fun p => p.1 / 8 == pl && p.2)

/-- Poisons a line (R131): its metadata is written with the mark, and holds no error of its own any more. -/
def State.poisonLine (s : State) (pl : Nat) : State :=
  { s.setMeta pl { s.metaOf pl with poison := true } with metaBad := s.metaBad.filter (· ≠ pl) }

/-- Reading a line at its home corrects its correctable errors, in DRAM and in the slice, and counts them (R282). -/
def State.correct (s : State) (pl : Nat) : State :=
  let h := homeOf (64 * pl)
  let n := (s.soft.filter (fun p => p.1 / 8 == pl && !p.2)).length +
    ((s.core h).slice.map (fun p => if p.2.pline == pl then p.2.soft.length else 0)).foldl (· + ·) 0
  if n = 0 then s
  else { s.modCore h (fun k => { k with
      corrected := k.corrected + n
      slice := k.slice.map (fun p => (p.1, if p.2.pline == pl then { p.2 with soft := [] } else p.2)) }) with
    soft := s.soft.filter (fun p => !(p.1 / 8 == pl && !p.2)) }

/-- The 64 bytes of a line at its home. -/
def State.lineBytes (s : State) (pl : Nat) : List Byte := memRead s.mem (64 * pl) 64

/-- A granule's ownership entry (R200). -/
def State.granule (s : State) (g : Nat) : Granule := s.granules.get g ⟨0, false, false⟩

/-- The boundaries that a route crosses (R23, R285; notes/assumptions/22.md): between columns on the source's row of stacks,
then between rows in the target's column. -/
def crossings (c h : Nat) : List Nat :=
  let x := c / 65536 % 4
  let y := c / 65536 / 4 % 4
  let x' := h / 65536 % 4
  let y' := h / 65536 / 4 % 4
  (List.range (max x x' - min x x')).map (fun k => 3 * y + min x x' + k) ++
  (List.range (max y y' - min y y')).map (fun k => 12 + 4 * (min y y' + k) + x')

/-- A packet's route from a core to another crosses no failed boundary (R285). -/
def State.routeOk (s : State) (c h : Nat) : Bool := (crossings c h).all (fun b => !bitOf s.ridge.bfail.toNat b)

/-- A request and its reply both find their way between a core and a home (R23, R285): each has a route of its own. -/
def State.reach (s : State) (c h : Nat) : Bool := s.routeOk c h && s.routeOk h c

/-- The frame owner check of a request that a core makes of a home (R200); a dark home serves nothing (R284), and a request
across a failed boundary reaches none, nor does a reply across one come back (R285). -/
def State.ownerOk (s : State) (c : Nat) (v : VDev) (pa : Nat) : Bool :=
  let g := s.granule (pa / 4096)
  g.valid && (g.owner == v || g.shared) && !(s.core (homeOf pa)).dark && s.reach c (homeOf pa)

/-- The check of a read by a core's walker: granules of virtual device 0 only (R200). -/
def State.walkerOk (s : State) (c : Nat) (pa : Nat) : Bool :=
  let g := s.granule (pa / 4096)
  g.valid && g.owner == 0 && !(s.core (homeOf pa)).dark && s.reach c (homeOf pa)

/-! ## Logs -/

/-- Adds to a ring of 4,096 entries and its overflow word (R209). -/
def ringAdd (l : List LogEntry) (isOver : Nat) (e : LogEntry) : List LogEntry × Nat :=
  if l.length < Config.logRing then (l ++ [e], isOver) else (l, isOver + 1)

/-- Applies a log entry for a requester: an error poisons its line (R131, R209). -/
def State.log (s : State) (core : Nat) (v : VDev) (l : Log) : State :=
  let e : LogEntry := ⟨l.pa.getD 0, l.ga % 2 ^ 55, v, core, if l.err then 9 else 7, s.cyc core⟩
  let s := match l.pa with
    | some pa => if l.err then s.poisonLine (pa / 64) else s
    | none => s
  match s.nodeFor core v with
  | some n => s.modNode n (fun k =>
      if l.err then { k with errors := (ringAdd k.errors k.errOver e).1, errOver := (ringAdd k.errors k.errOver e).2 }
      else { k with violations := (ringAdd k.violations k.violOver e).1, violOver := (ringAdd k.violations k.violOver e).2 })
  | none => s

/-- Applies log entries in order. -/
def State.logs (s : State) (core : Nat) (v : VDev) (ls : List Log) : State := ls.foldl (fun s l => s.log core v l) s

/-! ## Translation -/

/-- The outcome of a translation. -/
inductive Xlat where
  | ok (l : Leaf)
  /-- PAGE_FAULT with its reason (R198). -/
  | fault (reason : Nat)
  /-- A migration entry: the access waits (R198). -/
  | migrating
  /-- A walker read refused by the frame owner check (R200). -/
  | refused (pa : Nat)
  /-- A node line that is uncorrectable (R131). -/
  | poison (pa : Nat)
  deriving DecidableEq, Repr

/-- A page size in bytes: 256 × 4^s (R196). -/
def pageSize (sz : Nat) : Nat := 256 * 4 ^ sz

/-- The index of a level's node entry (R196). -/
def walkIndex (level ga : Nat) : Nat := ga / 2 ^ (48 - 8 * level) % 256

/-- A page-table entry is malformed at a level (R198). -/
def pteBad (level : Nat) (e : Word) : Bool :=
  let leaf := bitOf e.toNat 1
  let size := field e 4 2
  let base := field e 54 21 * 256
  field e 63 55 != 0 ||
  (if leaf then level < 4 || (level == 4 && size < 4) || (level == 5 && size > 3) || base % pageSize size != 0
   else level == 5 || size != 0 || base % 2048 != 0)

/-- The walk from a node base, over the remaining levels (R195, R196, R198). -/
def walkFrom (s : State) (c : Nat) (v : VDev) (ga : Nat) : Nat → Nat → Nat → Xlat
  | 0, _, _ => .fault 1
  | fuel + 1, level, base =>
    let a := base + 8 * walkIndex level ga
    if !s.walkerOk c a then .refused a
    else if s.bad (a / 64) then .poison a
    else
      let e : Word := BitVec.ofNat 64 (leNat (memRead s.mem a 8))
      if !bitOf e.toNat 0 then (if bitOf e.toNat 1 then .migrating else .fault 0)
      else if pteBad level e then .fault 1
      else if bitOf e.toNat 1 then
        let size := field e 4 2
        .ok ⟨v, ga / pageSize size * pageSize size, size, field e 54 21 * 256, field e 20 5⟩
      else walkFrom s c v ga fuel (level + 1) (field e 54 21 * 256)

/-- A device's whole walk, by a core's walker, of at most six nodes (R195, R196). -/
def State.walk (s : State) (c : Nat) (v : VDev) (ga : Nat) : Xlat :=
  match s.vdevs.find? v.toNat with
  | some d => walkFrom s c v ga 6 0 d.root
  | none => .fault 0

/-- The leaf of a miss-translation cache that covers an address (R195). -/
def mtcFind (l : List Leaf) (v : VDev) (ga : Nat) : Option Leaf :=
  l.find? (fun e => e.vdev == v && e.ga ≤ ga && ga < e.ga + pageSize e.size)

/-- A leaf becomes the most recently used of 128 (R195). -/
def mtcUse (l : List Leaf) (e : Leaf) : List Leaf :=
  let l := l.filter (· != e)
  (if l.length ≥ 128 then l.drop 1 else l) ++ [e]

/-- Translates for a core's device: the cache first, then the walker (R195). -/
def State.translate (s : State) (core : Nat) (v : VDev) (ga : Nat) : Xlat :=
  match mtcFind (s.core core).mtc v ga with
  | some l => .ok l
  | none => s.walk core v ga

/-- The physical address of a global one under its leaf (R196). -/
def Leaf.phys (l : Leaf) (ga : Nat) : Nat := l.pa + ga % pageSize l.size

/-- The frame that a leaf maps is being migrated or unmapped (R201). -/
def State.frameMoving (s : State) (l : Leaf) : Bool := s.migrations.any (fun m => m.pa = l.pa)

/-- The lines of page-table nodes that a walk reads (R195, R196). -/
def walkLines (s : State) (c : Nat) (ga : Nat) : Nat → Nat → Nat → List Nat
  | 0, _, _ => []
  | fuel + 1, level, base =>
    let a := base + 8 * walkIndex level ga
    if !s.walkerOk c a then []
    else
      let e : Word := BitVec.ofNat 64 (leNat (memRead s.mem a 8))
      a / 64 :: if s.bad (a / 64) || !bitOf e.toNat 0 || pteBad level e || bitOf e.toNat 1 then []
                else walkLines s c ga fuel (level + 1) (field e 54 21 * 256)

/-- The place of a physical line in its home's slice. -/
def State.sliceFind (s : State) (pl : Nat) : Option (Nat × SliceLine) :=
  List.find? (fun p => p.2.pline == pl) (s.core (homeOf (64 * pl))).slice

/-- Counts DRAM bytes on an owner's behalf (R275). -/
def State.dram (s : State) (core : Nat) (v : VDev) (n : Nat) : State :=
  s.modOwner core v (fun o => { o with dramBytes := o.dramBytes + BitVec.ofNat 64 n })

/-- A core's walker has read the nodes of an address at their homes (R195): their correctable errors are corrected and counted
(R282), and lines that no slice holds were read from DRAM for the device's owner (R275). -/
def State.walked (s : State) (core : Nat) (v : VDev) (ga : Nat) : State :=
  match s.vdevs.find? v.toNat with
  | some d => (walkLines s core ga 6 0 d.root).foldl (fun s pl =>
      (if (s.sliceFind pl).isSome then s else s.dram core v 64).correct pl) s
  | none => s

/-- The leaf enters or is renewed in the core's cache (R195), after a walk where the cache lacked it. -/
def State.useLeaf (s : State) (core : Nat) (l : Leaf) : State :=
  (if (s.core core).mtc.contains l then s else s.walked core l.vdev l.ga).modCore core (fun k => { k with mtc := mtcUse k.mtc l })

/-- Translates for a core's device, its leaf entering or being renewed in the core's cache (R195). -/
def State.lookup (s : State) (core : Nat) (v : VDev) (ga : Nat) : Xlat × State :=
  match s.translate core v ga with
  | .ok l => (.ok l, s.useLeaf core l)
  | x => (x, s.walked core v ga)

/-- The physical address under which a core's device reaches a global one; none where it does not translate. -/
def State.physOf (s : State) (core : Nat) (v : VDev) (ga : Nat) : Option Nat :=
  match s.translate core v ga with
  | .ok l => some (l.phys ga)
  | _ => none

/-! ## Rights -/

/-- The active rights of a context in a domain: grant AND mask (R192). -/
def State.rights (s : State) (core ctx : Nat) (dom : Nat) : BitVec 3 :=
  let x := s.ctx core ctx
  let grant : BitVec 3 := ((s.vdevs.find? x.vdev.toNat).map (fun d => d.rights.get dom 0)).getD 0
  (if dom = 0 then 0 else grant) &&& x.masks.get dom 7

/-- An access to the PLB: active rights enter it, the oldest of 256 leaves (R192). -/
def State.plbUse (s : State) (core ctx dom : Nat) : State :=
  let e := (ctx, dom, s.rights core ctx dom)
  s.modCore core (fun k =>
    if k.plb.contains e then k
    else
      let l := k.plb.filter (fun p => !(p.1 == ctx && p.2.1 == dom))
      { k with plb := (if l.length ≥ 256 then l.drop 1 else l) ++ [e] })

/-- The kinds of access (R193, R202): read, write, both, fetch. -/
inductive Need where
  | r | w | rw | x
  deriving DecidableEq, Repr

/-- The rights suffice (R193). -/
def Need.ok (n : Need) (b : BitVec 3) : Bool :=
  match n with
  | .r => b.getLsbD 0
  | .w => b.getLsbD 1
  | .rw => b.getLsbD 0 && b.getLsbD 1
  | .x => b.getLsbD 2

/-- The access detail of a PROTECTION for rights `b` (R202). -/
def Need.access (n : Need) (b : BitVec 3) : Nat :=
  match n with
  | .r => 0
  | .w => 1
  | .rw => if b.getLsbD 0 then 1 else 0
  | .x => 2

/-- The access detail of PAGE_FAULT and POISON (R202). -/
def Need.plain : Need → Nat
  | .r | .rw => 0
  | .w => 1
  | .x => 2

/-- A number as a word. -/
def toW (n : Nat) : Word := BitVec.ofNat 64 n

/-- The address that a trap's detail 1 gives of a pointer or an address (R46, R202). -/
def addrDetail (p : Word) : Word := p &&& 0x7FFFFFFFFFFFFF

/-- MISALIGN (R202). -/
def misalign {α : Type} (p : Word) : Act α := raise 6 (addrDetail p) 0 0

/-- PROTECTION for a missing right (R202, R209). -/
def protRights {α : Type} (addr : Word) (acc : Nat) (pa : Option Nat) : Act α :=
  raise 7 (addrDetail addr) (toW acc) 0 [⟨false, pa, addr.toNat % 2 ^ 55⟩]

/-- PROTECTION from the frame owner check (R200, R202). -/
def protOwner {α : Type} (addr : Word) (acc pa : Nat) : Act α :=
  raise 7 (addrDetail addr) (toW acc) 1 [⟨false, some pa, addr.toNat % 2 ^ 55⟩]

/-- PAGE_FAULT (R198, R202). -/
def pageFault {α : Type} (addr : Word) (acc reason : Nat) : Act α := raise 8 (addrDetail addr) (toW acc) (toW reason)

/-- POISON (R131, R202): the physical address goes to the error log. -/
def poisonTrap {α : Type} (addr : Word) (acc : Nat) (pa : Option Nat) : Act α :=
  raise 9 (addrDetail addr) (toW acc) 0 [⟨true, pa, addr.toNat % 2 ^ 55⟩]

/-- The leaf of an address for an access of a core's device, its failures raised (R195, R198, R200, R202). -/
def leafFor (core : Nat) (v : VDev) (ga : Nat) (addr : Word) (acc : Nat) : Act Leaf := do
  let (x, s) := (← get).lookup core v ga
  set s
  match x with
  | .ok l => return l
  | .fault r => pageFault addr acc r
  | .migrating => waitTurn
  | .refused pa => protOwner addr acc pa
  | .poison pa => poisonTrap addr acc (some pa)

end Sys2Proof.Machine
end

