-- ==== Sys2Proof/Machine/Chunks.lean ====
section
/-! DEFINITION. The register file (R18, R283) and what every write in the module may do to the chunks of threads: their
start, their squash (R146-R149), and the stores that they hold. -/

namespace Sys2Proof.Machine

/-! ## The register file -/

/-- A file entry's value. -/
def State.reg (s : State) (c e : Nat) : Word := (s.core c).regs.get e 0

/-- Writes a file entry, which clears its poison and its errors (R282, R283). -/
def State.setReg (s : State) (c e : Nat) (v : Word) : State :=
  s.modCore c (fun k => { k with
    regs := k.regs.put e v, regPoison := k.regPoison.filter (· ≠ e), regSoft := k.regSoft.filter (· ≠ e) })

/-- The registers of a thread's window. -/
def State.window (s : State) (c : Nat) (t : Thread) : List Word := (List.range t.size).map (fun n => s.reg c (t.base + n))

/-- The poisoned registers of a thread's window, by number (R283). -/
def State.windowPoison (s : State) (c : Nat) (t : Thread) : List Nat :=
  (List.range t.size).filter (fun n => (s.core c).regPoison.contains (t.base + n))

/-- Registers of a window are poisoned, where it is not written yet (R283). -/
def State.poisonRegs (s : State) (c base : Nat) (l : List Nat) : State :=
  s.modCore c (fun k => { k with regPoison := k.regPoison ++ l.map (base + ·) })

/-- Writes consecutive file entries. -/
def State.setRegs (s : State) (c e : Nat) : List Word → State
  | [] => s
  | w :: ws => State.setRegs (s.setReg c e w) c (e + 1) ws

/-! ## Chunks -/

/-- The thread's next chunk begins at its present state (R145, R146). -/
def State.newChunk (s : State) (c i : Nat) : State :=
  match s.thread? c i with
  | none => s
  | some t => s.setThread c i { t with chunk := Chunk.fresh t (s.window c t) (s.windowPoison c t) }

/-- A squash (R146, R338, R366): the thread goes back to its chunk's start; a payload written since stays, and its wake
bit. The chunk keeps its stamp (R147). BCLK is no part of what R146 restores: a TICK of the squashed execution stands, and
the re-execution advances the clock again; so do h0-h7, which a handler's chunk has written (notes/assumptions/60.md). -/
def State.squash (s : State) (c i : Nat) : State :=
  match s.thread? c i with
  | none => s
  | some t =>
    let k := t.chunk
    let t' : Thread := { t with
      pc := k.pc0, preds := k.preds0, flags := k.flags0, level := k.level0, wake := k.wake0 || k.paid, issued := none,
      status := match t.status with
        | .ready | .poll _ | .suspended | .turns _ | .port _ _ | .home (.load ..) | .home (.pair ..) | .reply (.load ..) _
        | .reply (.pair ..) _ => .ready
        | w => w }
    let s := (s.setRegs c t.base k.regs0).poisonRegs c t.base k.poison0
    s.setThread c i { t' with chunk := { Chunk.fresh t' k.regs0 k.poison0 with stamp := k.stamp } }

/-- Two lines that a signature does not tell apart, or that are one (R146). -/
def State.meets (s : State) (a b : List Nat) : Bool :=
  a.any (fun x => b.any (fun y => x == y || s.bloom.contains (x, y) || s.bloom.contains (y, x)))

/-- Writing lines squashes the running and waiting chunks that read or wrote one of them, but for a thread's own (R146). -/
def State.squashBut (s : State) (skip : Nat → Nat → Bool) (lines : List Nat) : State :=
  s.cores.foldl (fun s p => p.2.slots.foldl (fun s q =>
    if skip p.1 q.1 || q.1 = 63 then s
    else if s.meets lines (q.2.chunk.rset ++ q.2.chunk.wset) then s.squash p.1 q.1 else s) s) s

/-- A commit of written lines squashes the chunks of other threads that meet them (R146, R148). -/
def State.squashMeeting (s : State) (c i : Nat) (lines : List Nat) : State :=
  s.squashBut (fun c' i' => c' = c && i' = i) lines

/-- A line that is written outside any chunk squashes every chunk that meets it (R149). -/
def State.squashLine (s : State) (gl : Nat) : State := s.squashBut (fun _ _ => false) [gl]

/-- A chunk's stores to the private entry of a line become stores of its write set. -/
def Chunk.publish (k : Chunk) (gl : Nat) : Chunk :=
  if k.held.any (fun h => h.priv && h.addr / 64 = gl) then
    { k with
      held := k.held.map (fun h => if h.priv && h.addr / 64 = gl then { h with priv := false } else h)
      wset := if k.wset.contains gl then k.wset else k.wset ++ [gl] }
  else k

/-- A private entry leaves a core's stash, or an engine takes it: stores that chunks hold for it take effect at their
commit where the line then is, as every other store does (R120, R146, R150; notes/assumptions/55.md). -/
def State.publish (s : State) (c gl : Nat) : State :=
  s.modCore c (fun k => { k with slots := k.slots.map (fun p => (p.1, { p.2 with chunk := p.2.chunk.publish gl })) })

end Sys2Proof.Machine
end

