-- ==== Sys2Proof/Machine/Places.lean ====
section
/-! DEFINITION. Where a memory operand lies (R48-R50, R108, R335), and the lines of what a thread waits for. -/

namespace Sys2Proof.Machine

/-- A memory operand: its address with the base's tag, its effective format, L, and its address in units of that
format (nibbles for BFP4, else bytes). -/
structure MemRef where
  ptr : Word
  fmt : Nat
  l : Nat
  at_ : Nat
  deriving DecidableEq, Repr

/-- The operand that a base, an offset and a format override give (R48, R108, R335). An override to a BFP format takes the base
as a pointer of that format; the byte address of a BFP4 base under any other override is its nibble address halved
(notes/assumptions/18.md). -/
def memRef (b : Word) (off : BitVec 16) (fo : Nat) : MemRef :=
  let bf := ptrFmt b
  let eff := if fo ≠ 0 then fo else bf
  let d : Int := if eff = 7 || (bf = 7 && eff ≠ 6) then 2 * off.toInt else off.toInt
  let a := (((ptrAddr b : Int) + d) % (2 ^ 55 : Nat)).toNat
  ⟨mkPtr bf (ptrL b) a, eff, ptrL b, if bf = 7 && eff ≠ 7 && eff ≠ 6 then a / 2 else a⟩

/-- A memory operand taken again from its address: base tag kept, no offset. -/
def memRefAt (p : Word) (fmt : Nat) : MemRef := memRef p 0 fmt

/-- The byte ranges of an element: address and length; a BFP element's exponent pair follows it. -/
def MemRef.ranges (r : MemRef) (raw : Bool) : Option (List (Nat × Nat)) :=
  if r.fmt = 6 || r.fmt = 7 then
    match bfpPlace (r.fmt == 6) r.l r.at_ with
    | none => none
    | some p => some (if raw then [(p.byte, 1)] else [(p.byte, 1), (p.e0, 2)])
  else if r.at_ % elemSize r.fmt ≠ 0 then none
  else some [(r.at_, elemSize r.fmt)]

/-- The lines of a byte range, modulo the address space. -/
def linesOf (a n : Nat) : List Nat := (List.range ((a % 64 + n + 63) / 64)).map (fun k => (a / 64 + k) % 2 ^ 49)

/-- The address that an operation names, with its tag. -/
def MemOp.ptr : MemOp → Word
  | .load _ p _ _ _ | .pair _ p _ | .atomic _ _ p _ _ _ | .sync _ _ p _ _ _ | .join _ p _ _ => p

/-- The lines that an operation touches (R50, R108, R335). -/
def MemOp.lines : MemOp → List Nat
  | .load _ p fmt raw _ => (((memRefAt p fmt).ranges raw).getD []).flatMap (fun r => linesOf r.1 r.2)
  | op => [ptrAddr op.ptr / 64]

end Sys2Proof.Machine
end

