-- ==== Sys2Proof/Machine/Home.lean ====
section
/-! DEFINITION. Reuse records, credence and victims (R133-R143, R374), the cache slice and the directory of a home
(R119-R131), and the stash (R121-R124). -/

namespace Sys2Proof.Machine

/-! ## Distances and reuse records -/

/-- The code that an access carries: DIST0's for 255, and a DIST0 of 255 acts as 254 (R133, R134). -/
def Context.code (x : Context) (nu : Nat) : Nat :=
  if nu = 255 then (if x.dist0 = 255 then 254 else x.dist0.toNat) else nu

/-- A code's distance; none for the dead code 0 (R133). -/
def codeDist (c : Nat) : Option Nat := if c = 0 then none else some (nuDistance c)

/-- CRED.shift (R142). -/
def Context.shift (x : Context) : Nat := (255 - x.cred) / 32

/-- A distance in slice ticks (R141). -/
def sliceDist (bperiod shift : Nat) (d : Option Nat) : Option Nat :=
  d.map (fun d => min 16383 (ceilDiv (d * bperiod * 2 ^ shift) 64))

/-- A record armed again at `now` with a distance; by the dead mark it is dead and its promise closed (R140). -/
def Reuse.arm (r : Reuse) (now : Nat) (d : Option Nat) (who : Nat) : Reuse :=
  match d with
  | none => { r with dead := true, opn := false }
  | some d => { r with due := (now + d) % 2 ^ 15, slack := d / 8 + 1, reached := false, isOver := false, dead := false,
                       opn := true, who := who }

/-- A new record (R138): open, and dead for code 0, whose distance is a free value (notes/assumptions/61.md). -/
def Reuse.new (now : Nat) (d : Option Nat) (age who : Nat) (clk : Bool) : Reuse :=
  let n := d.getD (Config.deadDistance age).toNat
  ⟨(now + n) % 2 ^ 15, false, n / 8 + 1, true, d.isNone, false, age, who, clk⟩

/-- cross: the clock goes from `b` on by `n`; the flag says the promise broke (R139). -/
def Reuse.cross (r : Reuse) (b n : Nat) : Reuse × Bool :=
  let gap (t : Nat) : Nat := (t + 2 ^ 16 - b % 2 ^ 15) % 2 ^ 15
  let r := if !r.reached && gap r.due ≤ n then { r with reached := true } else r
  if !r.isOver && gap (r.due + r.slack) ≤ n then
    ({ r with isOver := true, reached := true, opn := false }, r.opn)
  else (r, false)

/-- touch: the flag says a promise was kept (R140). -/
def Reuse.touch (r : Reuse) (now : Nat) (d : Option Nat) (owner : Bool) (who : Nat) : Reuse × Bool :=
  let kept := r.opn && !r.isOver
  let r := if kept then { r with opn := false } else r
  (if owner then r.arm now d who else r, kept)

/-- A record that was set from the clock of an access's issue meets the clock as it stands when the access is served: a
deadline that has been reached by then makes the line over at once, and the flag says that the promise broke (R136, R140). -/
def Reuse.meets (r : Reuse) (clock now : Nat) : Reuse × Bool :=
  let late := (now + 2 ^ 32 - clock) % 2 ^ 32
  if late = 0 then (r, false) else r.cross (clock % 2 ^ 15) late

/-- touch by the owner, whose clock stood at `clock` when the access issued and stands at `now` when its fill completes (R136,
R140). The flags say that a promise was kept and that one was broken. -/
def Reuse.touchOwn (r : Reuse) (clock now : Nat) (d : Option Nat) (who : Nat) : Reuse × Bool × Bool :=
  let (r, kept) := r.touch (clock % 2 ^ 15) d true who
  let (r, broke) := r.meets clock now
  (r, kept, broke)

/-- The remaining distance (R139). -/
def Reuse.remaining (r : Reuse) (now : Nat) : Nat := if r.reached then 0 else (r.due + 2 ^ 15 - now % 2 ^ 15) % 2 ^ 15

/-- A context's score after a kept or a broken promise (R142). -/
def credAfter (kept : Bool) (c : Nat) : Nat := if kept then min 255 (c + 1) else c - 8

/-- A local event on a context's credence (R142). -/
def State.credit (s : State) (core ctx : Nat) (kept : Bool) : State :=
  s.modCtx core ctx (fun x => { x with cred := credAfter kept x.cred })

/-- The core that a packet goes to. -/
def Packet.dst : Packet → Nat
  | .context d _ | .task d _ | .message d _ _ _ _ | .mail d _ | .port d _ _ _ | .channel d _ _ _ _ | .grant d _ _ _ _
  | .credence d _ _ | .tile d _ _ | .mcmd d _ _ _ => d
  | .gauss d => d.target

/-- A thread on a core, by its number, with its place. -/
def State.threadBy (s : State) (c id : Nat) : Option (Nat × Thread) := List.find? (fun p => p.2.id == id) (s.core c).slots

/-- A packet leaves for the mesh, sent by the thread of a number (0 where none sends it). One whose route crosses a failed
boundary gets an error response at its source: it is dropped, a PROTECTION is logged, and its sender goes on (R285). -/
def State.send (s : State) (p : Packet) (core : Nat) (thread : Nat := 0) (waits : Bool := false)
    (own : Option (VDev × Nat) := none) : State :=
  let t := s.threadBy core thread
  let (v, l) := own.getD <| match p, t with
    | .context _ x, _ => (x.vdev, x.launch)
    | .gauss d, _ => (d.vdev, d.launch)
    | _, some t => (t.2.vdev, t.2.launch)
    | _, none => (0, 0)
  if s.routeOk core p.dst then { s with wire := s.wire ++ [⟨p, core, thread, waits, none, l⟩] }
  else
    let s := s.log core v ⟨false, none, 0⟩
    match t with
    | some (i, t) => if waits && t.status == .engine then s.setThread core i { t with status := .ready } else s
    | none => s

/-- A home's notice of a slice line's event to the core that made the promise (R142). -/
def State.notice (s : State) (l : SliceLine) (kept : Bool) : State := s.send (.credence l.reuse.who l.vdev kept) (homeOf (64 * l.pline))

/-! ## Victims -/

/-- A candidate's rank: class, effective distance (none infinite), age, index (R143). -/
structure Rank where
  cls : Nat
  eff : Option Nat
  old : Nat
  idx : Nat
  deriving DecidableEq, Repr

/-- `a` is chosen before `b` (R143). -/
def Rank.better (a b : Rank) : Bool :=
  if a.cls ≠ b.cls then a.cls < b.cls
  else if a.eff ≠ b.eff then (match a.eff, b.eff with
    | none, _ => true
    | some _, none => false
    | some x, some y => x > y)
  else if a.old ≠ b.old then a.old > b.old
  else a.idx < b.idx

/-- The best candidate of a list. -/
def bestRank : List Rank → Option Rank
  | [] => none
  | r :: rs => some (rs.foldl (fun a b => if b.better a then b else a) r)

/-- The rank of a line (R143). -/
def rankOf (r : Reuse) (now period shift fill idx : Nat) (isOver : Bool) : Rank :=
  ⟨if r.dead then 0 else if isOver then 1 else 2,
   if r.dead || r.isOver then none else some (r.remaining now * period * 2 ^ shift),
   (fill + 2 ^ 16 - r.age) % 2 ^ 16, idx⟩

/-! ## The cache slice -/

/-- The directory entry of a physical line (R130). -/
def State.dirOf (s : State) (pl : Nat) : DirEntry := (s.core (homeOf (64 * pl))).dir.get pl ⟨[], [], [], false, none⟩

/-- The cores that a directory entry names (R130). -/
def DirEntry.sharers (d : DirEntry) : List Nat := d.ptrs ++ (d.overflow ++ d.queued).map Prod.fst

/-- The state with a directory entry replaced; an uncached line is not listed. -/
def State.setDir (s : State) (pl : Nat) (d : DirEntry) : State :=
  s.modCore (homeOf (64 * pl)) (fun k =>
    { k with dir := if d = ⟨[], [], [], false, none⟩ then k.dir.del pl else k.dir.put pl d })

/-- Slice lines of a virtual device on a core (R132). -/
def State.sliceCount (s : State) (c : Nat) (v : VDev) : Nat :=
  ((s.core c).slice.filter (fun p => p.2.vdev == v)).length

/-- Stash lines that a context owns (R132). -/
def State.stashCount (s : State) (c x : Nat) : Nat := ((s.core c).stash.filter (fun p => p.2.ctx == x)).length

/-- The lines for whose fill, recall or write-back a thread waits (R143). -/
def Thread.waitsFor (t : Thread) : List Nat :=
  match t.status with
  | .home op => op.lines
  | .poll (.lines l) => l
  | _ => []

/-- A stash entry's fill, recall or write-back is in progress (R143): a thread or a prefetch waits for its line, or the commit
of a chunk of another core does. -/
def State.filling (s : State) (c gl : Nat) : Bool :=
  s.cores.any (fun k => k.2.slots.any (fun p => p.2.waitsFor.contains gl ||
    (k.1 != c && p.2.chunk.closing && p.2.chunk.wset.contains gl)) ||
    k.2.prefs.any (fun p => ptrAddr p.ptr / 64 == gl))

/-- A request waits at the home of a physical line for a recall, or for the line itself (R143). -/
def State.inProgress (s : State) (pl : Nat) : Bool :=
  let at_ (c : Nat) (v : VDev) (gl : Nat) : Bool := (s.physOf c v (64 * gl)).any (fun pa => pa / 64 == pl)
  let owned := (s.dirOf pl).sharers.any (fun c => (s.core c).stash.any (fun p =>
    !p.2.priv && p.2.owner.isSome && at_ c (s.ctx c p.2.ctx).vdev p.2.line))
  s.cores.any (fun k => k.2.slots.any (fun p => p.2.waitsFor.any (at_ k.1 p.2.vdev) ||
    (owned && p.2.chunk.closing && p.2.chunk.wset.any (at_ k.1 p.2.vdev))) ||
    k.2.prefs.any (fun p => at_ k.1 p.vdev (ptrAddr p.ptr / 64)))

/-- The way that a slice fill takes: a free one, or the victim (R143); none where every way is excluded. -/
def State.sliceWay (s : State) (pl : Nat) : Option Nat :=
  let home := homeOf (64 * pl)
  let k := s.core home
  let set := pl % 64
  match (List.range 16).find? (fun w => (k.slice.find? (set * 16 + w)).isNone) with
  | some w => some (set * 16 + w)
  | none =>
    let isOver (l : SliceLine) : Bool := match s.ctxOf home l.vdev with
      | some x => s.sliceCount home l.vdev > (s.ctx home x).limSlice
      | none => false
    let cands := (List.range 16).filterMap (fun w => match k.slice.find? (set * 16 + w) with
      | some l => if (s.dirOf l.pline).engine.isSome || s.inProgress l.pline then none
                  else some (rankOf l.reuse (s.sliceTick home) 64 0 k.sliceFill (set * 16 + w) (isOver l))
      | none => none)
    (bestRank cands).map Rank.idx

/-- A line has been written in its home's slice (R275). -/
def State.wrote (s : State) (pl : Nat) : State :=
  match s.sliceFind pl with
  | some (i, l) => s.modCore (homeOf (64 * pl)) (fun k => { k with slice := k.slice.put i { l with dirty := true } })
  | none => s

/-- A slice miss fills a way from DRAM: the line's owner field is set from its granule (R143, R200). A victim that was
written is written in DRAM first, on its owner's behalf (R275; notes/assumptions/67.md). None where every way is excluded,
and the request waits. -/
def State.fillSlice (s : State) (pl : Nat) (d : Option Nat) (prom : Nat) (v : VDev) : Option State :=
  match s.sliceWay pl with
  | none => none
  | some i =>
    let home := homeOf (64 * pl)
    let owner := (s.granule (pl / 64)).owner
    let s := s.setMeta pl { s.metaOf pl with owner := owner }
    let s := match (s.core home).slice.find? i with
      | some l => if l.dirty then s.dram home l.vdev 64 else s
      | none => s
    let s := s.dram prom v 64
    some (s.modCore home (fun k =>
      { k with slice := k.slice.put i ⟨pl, owner, Reuse.new (s.sliceTick home) d k.sliceFill prom false, [], false⟩,
               sliceFill := (k.sliceFill + 1) % 2 ^ 16 }))

/-- A request served at the home uses the slice line, filling it on a miss (R140, R143). -/
def State.useSlice (s : State) (pl : Nat) (d : Option Nat) (prom : Nat) (v : VDev) : Option State :=
  match s.sliceFind pl with
  | none => s.fillSlice pl d prom v
  | some (i, l) =>
    let home := homeOf (64 * pl)
    let (r, kept) := l.reuse.touch (s.sliceTick home) d (l.vdev == v) prom
    let s' := s.modCore home (fun k => { k with slice := k.slice.put i { l with reuse := r } })
    some (if kept then s'.notice l true else s')

/-! ## Bytes at the home -/

/-- Writes nibble-masked bytes into a line at its home, given that it may be written (R131, R149): a write of all 64
bytes clears poison and sets every full/empty bit of a poisoned line. -/
def State.putLine (s : State) (pa : Nat) (bytes : List (Byte × Nat)) : State :=
  let pl := pa / 64
  let full := bytes.length = 64 && bytes.all (fun b => b.2 == 3)
  let s := { s with mem := memMerge s.mem pa bytes }
  if full && s.bad pl then
    { s.setMeta pl { s.metaOf pl with poison := false, fe := 0xFF } with soft := s.soft.filter (fun p => p.1 / 8 != pl) }
  else s

/-- A write whose metadata is uncorrectable, and a partial write to a poisoned line, are refused (R131). -/
def State.writeBad (s : State) (pa : Nat) (bytes : List (Byte × Nat)) : Bool :=
  s.metaBad.contains (pa / 64) || s.bad (pa / 64) && !(bytes.length = 64 && bytes.all (fun b => b.2 == 3))

/-! ## The stash -/

/-- The stash entry of a core that maps a global line (R121). -/
def State.stashFind (s : State) (c gl : Nat) : Option (Nat × Entry) :=
  List.find? (fun p => p.2.line == gl) (s.core c).stash

/-- The state with a stash entry replaced. -/
def State.setEntry (s : State) (c i : Nat) (e : Entry) : State :=
  s.modCore c (fun k => { k with stash := k.stash.put i e })

/-- The masked bytes of an entry. -/
def Entry.masked (e : Entry) : List (Byte × Nat) := e.data.zip e.mask

/-- An entry's "now": its task's clock, or the slice tick while clk is set (R139, R374). -/
def State.entryNow (s : State) (c : Nat) (e : Entry) : Nat :=
  if e.reuse.clk then s.sliceTick c else (s.task c e.reuse.who).bclk.toNat % 2 ^ 15

/-- Bytes of a stash entry arrive at their home (R123, R131, R150, R200, R283): a write that the frame owner check refuses
is not performed and is logged; one that the metadata refuses, or that carries poison, poisons the line and is logged. None
where it has to wait. A write-back declares no code: it carries the entry's remaining distance in slice ticks
(notes/assumptions/62.md). -/
def State.putBack (s : State) (c gl pa : Nat) (e : Entry) : Option State :=
  let v := (s.ctx c e.ctx).vdev
  let bytes := e.masked
  if (s.dirOf (pa / 64)).engine.isSome then none
  else if !s.ownerOk c v pa then some (s.log c v ⟨false, some pa, 64 * gl⟩)
  else if s.writeBad pa bytes then some (s.log c v ⟨true, some pa, 64 * gl⟩)
  else
    let period := if e.reuse.clk then 64 else (s.task c e.reuse.who).bperiod
    let d := sliceDist period (s.ctx c e.ctx).shift (some (e.reuse.remaining (s.entryNow c e)))
    (s.useSlice (pa / 64) d c v).map (fun s =>
      let s := (s.putLine pa bytes).wrote (pa / 64)
      if e.poison then s.log c v ⟨true, some pa, 64 * gl⟩ else s)

/-! ## Recalls -/

/-- Recalls the coherent entry that a core holds of a line (R123, R142): dirty bytes go home; the entry becomes unfilled
for a write elsewhere and clean for a read elsewhere, and an open promise closes. A recall whose route crosses a failed boundary
gets an error response at the home and is logged (R285). None where it has to wait. -/
def State.recallFrom (s : State) (gl pl c : Nat) (write : Bool) : Option State :=
  match s.stashFind c gl with
  | none => some s
  | some (i, e) =>
    if e.priv then some s
    else if !s.routeOk (homeOf (64 * pl)) c then some (s.log (homeOf (64 * pl)) (s.ctx c e.ctx).vdev ⟨false, some (64 * pl), 64 * gl⟩)
    else
      let e' := { e with
        st := if write then .unfilled else (if e.st = .dirty then .clean else e.st), excl := false,
        mask := List.replicate 64 0, data := if write then List.replicate 64 0 else e.data
        poison := e.poison && !write, reuse := { e.reuse with opn := false } }
      (if e.st = .dirty then s.putBack c gl (64 * pl) e else some s).map (fun s => s.setEntry c i e')

/-- Recalls every copy of a line but one core's (R123, R130): for a write elsewhere all of them, for a read elsewhere an
exclusive one. None where it has to wait. -/
def State.recall (s : State) (gl pl : Nat) (write : Bool) (keep : Option Nat) : Option State :=
  let d := s.dirOf pl
  let holders := d.sharers.filter (fun c => some c ≠ keep)
  let all (w : Bool) : Option State := holders.foldl (fun s c => s.bind (fun s => s.recallFrom gl pl c w)) (some s)
  if write then
    (all true).map (fun s =>
      let kept := d.sharers.filter (fun c => some c = keep)
      let s := s.modCore (homeOf (64 * pl)) (fun k => { k with overflowWork := k.overflowWork.filter (fun w => w.1 ≠ pl) })
      s.setDir pl { d with ptrs := kept.take 1, overflow := [], queued := [], excl := d.excl && !kept.isEmpty })
  else if d.excl then
    (all false).map (fun s => if holders.isEmpty then s else s.setDir pl { d with excl := false })
  else some s

/-- The cores that hold a line (R130). -/
def State.holders (s : State) (pl : Nat) : List Nat := (s.dirOf pl).sharers

/-- A copy of a line that an engine owns in another stash than `keep`'s: its recall waits for the engine (R150). -/
def State.ownedCopy (s : State) (gl pl : Nat) (keep : Option Nat) : Bool :=
  (s.holders pl).any (fun c => some c ≠ keep && match s.stashFind c gl with
    | some (_, e) => !e.priv && e.owner.isSome
    | none => false)

/-- A line as it stands: the home's bytes with the dirty bytes of an exclusive copy (R152). -/
def State.asStands (s : State) (gl pl : Nat) : List Byte :=
  (s.holders pl).foldl (fun img c => match s.stashFind c gl with
    | some (_, e) => if e.priv || e.st ≠ .dirty then img
                     else (List.zip img e.masked).map (fun p => mergeByte p.1 p.2.1 p.2.2)
    | none => img) (s.lineBytes pl)

/-- Recalls the other copies of a line; none where an engine owns one, or another reason makes it wait (R123, R150). -/
def State.recallCopies (s : State) (gl pl : Nat) (write : Bool) (keep : Option Nat) : Option State :=
  if s.ownedCopy gl pl keep then none else s.recall gl pl write keep

/-! ## Write-backs -/

/-- Writes a dirty entry's bytes home through its owner's device (R123). A private entry's bytes enter the order here: every
other copy is recalled, and the chunks that met the line are squashed (R149). A write-back whose page no longer translates
is dropped (R200; notes/assumptions/17.md). None where it has to wait. -/
def State.writeBack (s : State) (c i : Nat) : Option State :=
  match (s.core c).stash.find? i with
  | none => some s
  | some e =>
    if e.st ≠ .dirty then some s
    else
      let v := (s.ctx c e.ctx).vdev
      let clean (s : State) : State := s.setEntry c i { e with st := .clean, mask := List.replicate 64 0 }
      match s.lookup c v (64 * e.line) with
      | (.migrating, _) => none
      | (.ok l, s) =>
        let pa := l.phys (64 * e.line)
        if e.priv then
          (s.recallCopies e.line (pa / 64) true none).bind (fun s =>
            (s.putBack c e.line pa e).map (fun s => (clean s).squashLine e.line))
        else (s.putBack c e.line pa e).map clean
      | (.refused pa, s) => some ((clean s).log c v ⟨false, some pa, 64 * e.line⟩)
      | (.poison pa, s) => some ((clean s).log c v ⟨true, some pa, 64 * e.line⟩)
      | (.fault _, s) => some (clean s)

/-- Removes a core from a line's directory entry (R124). -/
def State.dropSharer (s : State) (pl c : Nat) : State :=
  let d := s.dirOf pl
  let ptrs := d.ptrs.filter (· ≠ c)
  let isOver := d.overflow.filter (fun p => p.1 ≠ c)
  let n := 4 - ptrs.length
  s.setDir pl { d with ptrs := ptrs ++ (isOver.take n).map Prod.fst, overflow := isOver.drop n,
                       queued := d.queued.filter (fun p => p.1 ≠ c), excl := d.excl && !ptrs.isEmpty }

/-- Removes an entry: its dirty bytes go home first, its home forgets it, the entry is free (R124); stores that chunks hold
for a private one take effect where the line then is. -/
def State.freeEntry (s : State) (c i : Nat) : Option State :=
  match s.writeBack c i with
  | none => none
  | some s =>
    match (s.core c).stash.find? i with
    | none => some s
    | some e =>
      let s := match s.translate c (s.ctx c e.ctx).vdev (64 * e.line) with
        | .ok l => s.dropSharer (l.phys (64 * e.line) / 64) c
        | _ => s
      let s := if e.priv then s.publish c e.line else s
      some (s.modCore c (fun k => { k with stash := k.stash.del i }))

/-- The entry that a new mapping takes: a free one, or the victim (R124, R143); none where every entry is excluded. -/
def State.stashPick (s : State) (c : Nat) : Option Nat :=
  let k := s.core c
  match k.stash.free 512 with
  | some i => some i
  | none =>
    let cands := k.stash.filterMap (fun p =>
      let e := p.2
      if e.owner.isSome || s.filling c e.line then none
      else
        let x := s.ctx c e.ctx
        let period := if e.reuse.clk then 64 else (s.task c e.reuse.who).bperiod
        some (rankOf e.reuse (s.entryNow c e) period x.shift k.stashFill p.1 (s.stashCount c e.ctx > x.limStash)))
    (bestRank cands).map Rank.idx

/-- A new unfilled entry for a line, with the domain where its page has one (R122, R124, R138), its record set at the clock `now`
of the access's issue (R140). None where it has to wait. -/
def State.mapLine (s : State) (c gl ctx : Nat) (priv : Bool) (dom now : Nat) (d : Option Nat) (who : Nat) (clk : Bool) : Option (State × Nat) :=
  match s.stashPick c with
  | none => none
  | some i =>
    match (if ((s.core c).stash.find? i).isSome then s.freeEntry c i else some s) with
    | none => none
    | some s =>
      let e : Entry := {
        line := gl, ctx := ctx, priv := priv, st := .unfilled, excl := false, data := List.replicate 64 0,
        fe := 0xFF, mask := List.replicate 64 0, domain := dom, reuse := Reuse.new now d (s.core c).stashFill who clk,
        owner := none, poison := false, soft := [], unit := none }
      let (r, broke) := if clk then (e.reuse, false) else e.reuse.meets now (s.task c who).bclk.toNat
      let s := (s.setEntry c i { e with reuse := r }).modCore c (fun k => { k with stashFill := (k.stashFill + 1) % 2 ^ 16 })
      some (if broke then s.credit c ctx false else s, i)

/-- A use of a stash entry (R140, R374): by the owner's thread it re-arms the entry in its task, from the clock at the
access's issue. -/
def State.useEntry (s : State) (c i ctx task : Nat) (u : Use) : State :=
  match (s.core c).stash.find? i with
  | none => s
  | some e =>
    if e.ctx == ctx then
      let (r, kept, broke) := e.reuse.touchOwn u.clock (s.task c task).bclk.toNat (codeDist u.code) task
      let s := s.setEntry c i { e with reuse := { r with clk := false, who := task } }
      let s := if kept then s.credit c e.ctx true else s
      if broke then s.credit c e.ctx false else s
    else
      let (r, kept) := e.reuse.touch (s.entryNow c e) none false task
      let s := s.setEntry c i { e with reuse := r }
      if kept then s.credit c e.ctx true else s

/-- An engine's read of a stash entry is a use that does not re-arm it (R140). -/
def State.engineTouch (s : State) (c i : Nat) : State := s.useEntry c i 64 0 ⟨0, 0, none⟩

/-- Reading a stash entry corrects its correctable errors and counts them (R282). -/
def State.correctEntry (s : State) (c i : Nat) : State :=
  match (s.core c).stash.find? i with
  | some e => if e.soft.isEmpty then s
              else (s.setEntry c i { e with soft := [] }).modCore c (fun k => { k with corrected := k.corrected + e.soft.length })
  | none => s

/-! ## Sharers -/

/-- The cores of the partition that a core lies in. -/
def State.partCores (s : State) (c : Nat) : Tbl Core := s.cores.filter (fun p => p.1 == c || s.samePart c p.1)

/-- Directory-list entries of a partition's homes that were taken on a device's account (R130, R272). -/
def State.overflowUsed (s : State) (home : Nat) (v : VDev) : Nat :=
  ((s.partCores home).map (fun p =>
    (p.2.dir.map (fun e => ((e.2.overflow ++ e.2.queued).filter (fun x => x.2 == v)).length)).foldl (· + ·) 0)).foldl (· + ·) 0

/-- Records a core as a sharer (R130). A fifth one is served and queued for the riddle's overflow handler; none where
the pool is exhausted for the requesting owner, and the fill is refused. -/
def State.addSharer (s : State) (pl c : Nat) (excl : Bool) (v : VDev) : Option State :=
  let h := homeOf (64 * pl)
  let d := s.dirOf pl
  if excl then some (s.setDir pl { d with ptrs := [c], overflow := [], queued := [], excl := true })
  else if d.sharers.contains c then some s
  else if d.ptrs.length < 4 then some (s.setDir pl { d with ptrs := d.ptrs ++ [c] })
  else if poolOpen Config.overflowPool (s.ownersAt h) OwnerEntry.resOverflow (s.overflowUsed h) v then
    some ((s.setDir pl { d with queued := d.queued ++ [(c, v)] }).modCore h (fun k =>
      { k with overflowWork := k.overflowWork ++ [(pl, c)] }))
  else none

/-! ## Requests served at a home -/

/-- Who makes a request (R141, R200): its core, context and device, the distance in slice ticks (none dead), the
address and access that a trap reports, and whether an engine reads (R152). -/
structure Rq where
  core : Nat
  ctx : Nat
  vdev : VDev
  dist : Option Nat
  addr : Word
  acc : Nat
  engine : Bool
  deriving DecidableEq, Repr

/-- Lifts a state change that may have to wait. -/
def orWait (f : State → Option State) (on : WaitOn := .quiet) : Act Unit := do
  match f (← get) with
  | some s => set s
  | none => throw (.wait on)

/-- An instruction fetch or a stash fill reads the line from the slice, or from DRAM, and leaves its record; one that misses
the slice fills no way, as it declares no next use (R140, R143; notes/assumptions/29.md). -/
def State.passSlice (s : State) (pl : Nat) (core : Nat) (v : VDev) : State :=
  if (s.sliceFind pl).isSome then s else s.dram core v 64

/-- Reads a line at its home (R120, R131, R150, R152, R200): frame owner, engine ownership, recall of an exclusive
copy, the slice, poison. Fetches and stash fills are no uses of the slice line. An engine's read that finds every way of the
set excluded passes by the slice, as it waits for no engine (R152). -/
def homeRead (q : Rq) (gl pa : Nat) (use : Bool := true) : Act (List Byte) := do
  let s ← get
  let pl := pa / 64
  if !s.ownerOk q.core q.vdev pa then protOwner q.addr q.acc pa
  if (s.dirOf pl).engine.isSome && !q.engine then waitLine gl
  let stands := q.engine && s.ownedCopy gl pl none
  if !stands then orWait (fun s => s.recallCopies gl pl false none) (.lines [gl])
  let pass (s : State) : State := s.passSlice pl q.core q.vdev
  if !use then modify pass
  else if q.engine then modify (fun s => (s.useSlice pl q.dist q.core q.vdev).getD (pass s))
  else orWait (fun s => s.useSlice pl q.dist q.core q.vdev) (.lines [gl])
  modify (fun s => s.correct pl)
  let s ← get
  if s.bad pl then poisonTrap q.addr q.acc (some pa)
  return if stands then s.asStands gl pl else s.lineBytes pl

/-- Writes masked bytes into one line at its home (R131, R146, R150, R200): every other copy is recalled first. -/
def homeWrite (q : Rq) (gl pa : Nat) (bytes : List (Byte × Nat)) : Act Unit := do
  let s ← get
  let pl := pa / 64
  if !s.ownerOk q.core q.vdev pa then protOwner q.addr q.acc pa
  if (s.dirOf pl).engine.isSome && !q.engine then waitLine gl
  if s.writeBad pa bytes then poisonTrap q.addr q.acc (some pa)
  orWait (fun s => s.recallCopies gl pl true none) (.lines [gl])
  orWait (fun s => s.useSlice pl q.dist q.core q.vdev) (.lines [gl])
  modify (fun s => (s.putLine pa bytes).wrote pl)

/-- Fills an unfilled entry from its home (R122): a shared or an exclusive copy for a coherent entry; a private one is
not recorded. One that an engine owns is waited for (R150). -/
def fillEntry (q : Rq) (i : Nat) (l : Leaf) (excl : Bool) : Act Unit := do
  match ((← get).core q.core).stash.find? i with
  | none => pure ()
  | some e =>
    if e.owner.isSome then waitLine e.line
    let pa := l.phys (64 * e.line)
    let pl := pa / 64
    let bytes ← homeRead q e.line pa (use := false)
    if !e.priv then
      if excl then orWait (fun s => s.recallCopies e.line pl true (some q.core)) (.lines [e.line])
      orWait (fun s => s.addSharer pl q.core excl q.vdev) (.lines [e.line])
    modify (fun s => s.setEntry q.core i { e with
      st := .clean, data := bytes, fe := (s.metaOf pl).fe,
      excl := excl && !e.priv, domain := l.domain, mask := List.replicate 64 0 })

/-- A write to a coherent entry needs the line exclusively, which its home grants after every other copy is recalled (R122,
R123). -/
def makeExcl (q : Rq) (i gl : Nat) : Act Unit := do
  let l ← leafFor q.core q.vdev (64 * gl) q.addr q.acc
  let pa := l.phys (64 * gl)
  let s ← get
  if !s.ownerOk q.core q.vdev pa then protOwner q.addr q.acc pa
  if (s.dirOf (pa / 64)).engine.isSome then waitLine gl
  orWait (fun s => s.recallCopies gl (pa / 64) true (some q.core)) (.lines [gl])
  orWait (fun s => s.addSharer (pa / 64) q.core true q.vdev) (.lines [gl])
  modify (fun s => match (s.core q.core).stash.find? i with
    | some e => s.setEntry q.core i { e with excl := true }
    | none => s)

/-! ## Resolving lines for a thread or an engine -/

/-- Where an access to a global line is served (R120), with the domain and the leaf it found. -/
inductive Where where
  | stash (i domain : Nat)
  | unfilled (i : Nat) (l : Leaf)
  | home (l : Leaf)
  deriving DecidableEq, Repr

/-- The domain that an access is checked against (R193). -/
def Where.domain : Where → Nat
  | .stash _ d => d
  | .unfilled _ l => l.domain
  | .home l => l.domain

/-- The leaf, where the access needed one. -/
def Where.leaf? : Where → Option Leaf
  | .stash _ _ => none
  | .unfilled _ l => some l
  | .home l => some l

/-- The access is served at the home, and fills no entry. -/
def Where.home? : Where → Bool
  | .home _ => true
  | _ => false

/-- Resolves a line without effect: the stash, else a translation. -/
def State.resolve (s : State) (c : Nat) (v : VDev) (gl : Nat) (atHome : Bool) : Except Xlat Where :=
  let viaLeaf (k : Leaf → Where) : Except Xlat Where :=
    match s.translate c v (64 * gl) with
    | .ok l => .ok (k l)
    | x => .error x
  if atHome then viaLeaf .home
  else match s.stashFind c gl with
    | some (i, e) => if e.st = .unfilled then viaLeaf (.unfilled i) else .ok (.stash i e.domain)
    | none => viaLeaf .home

/-- A line that an instruction accesses: what it needs there, the line, the address that a trap reports, and whether the
access is served at the home even where a stash maps the line. -/
structure Access where
  need : Need
  line : Nat
  addr : Word
  atHome : Bool
  deriving DecidableEq, Repr

/-- Checks the lines of one instruction in the order of R203 over all of them: every missing right and every frame that is
not its device's before any PAGE_FAULT, and these before a poisoned walk. Answers where each is served. `held`: the lines written
are a thread's stores, whose frames their homes check at commit (R200, R204). -/
def checkAll (c ctx : Nat) (v : VDev) (lines : List Access) (held : Bool := false) : Act (List Where) := do
  let s ← get
  let rs := lines.map (fun p => (p, s.resolve c v p.line p.atHome))
  for (p, r) in rs do
    match r with
    | .ok w =>
      let b := s.rights c ctx w.domain
      modify (fun s => s.plbUse c ctx w.domain)
      let a := p.addr.toNat % 2 ^ 55
      if !p.need.ok b then
        protRights p.addr (p.need.access b) (s.physOf c v (if a / 64 = p.line then a else 64 * p.line))
      match (if held && p.need = .w then none else w.leaf?) with
      | some l => if !s.ownerOk c v (l.phys (64 * p.line)) then protOwner p.addr p.need.plain (l.phys (64 * p.line))
      | none => pure ()
    | .error (.refused pa) => protOwner p.addr p.need.plain pa
    | .error _ => pure ()
  for (p, r) in rs do
    match r with
    | .error (.fault reason) => pageFault p.addr p.need.plain reason
    | _ => pure ()
  for (p, r) in rs do
    match r with
    | .error (.poison pa) => poisonTrap p.addr p.need.plain (some pa)
    | .error .migrating => waitTurn
    | .ok w => match w.leaf? with
      | some l => modify (fun s => s.useLeaf c l)
      | none => pure ()
    | .error _ => pure ()
  return rs.filterMap (fun p => match p.2 with | .ok w => some w | .error _ => none)

/-- `checkAll` for lines that one need covers. -/
def checkLines (c ctx : Nat) (v : VDev) (need : Need) (lines : List (Nat × Word)) (atHome : Bool := false)
    (held : Bool := false) : Act (List Where) :=
  checkAll c ctx v (lines.map (fun p => ⟨need, p.1, p.2, atHome⟩)) held

/-- Runs a body, answering its stop as a value. -/
def attempt {α : Type} (a : Act α) (s : State) : Except Stop (α × State) := a.run s

end Sys2Proof.Machine
end

