-- ==== Sys2Proof/Machine/Ops.lean ====
section
/-! DEFINITION. The named operations over a thread: its registers, its chunk, its stores, the end of a thread, TAKING AN
EXCEPTION (traps, upcalls and handlers: R82, R202-R208) and returning from one, and how an instruction's body is run. -/

namespace Sys2Proof.Machine

/-! ## The running thread -/

/-- The core and slot that hold the turn. -/
def me : Act (Nat × Nat) := do
  match (← get).turn with
  | some t => pure (t.core, t.slot)
  | none => pure (0, 0)

/-- The running thread. -/
def thr : Act Thread := do
  let (c, i) ← me
  match (← get).thread? c i with
  | some t => pure t
  | none => pure Thread.blank

/-- Changes the running thread. -/
def modThr (f : Thread → Thread) : Act Unit := do
  let (c, i) ← me
  modify (fun s => s.modThread c i f)

/-- The running thread's context. -/
def myCtx : Act Context := do
  let (c, _) ← me
  return (← get).ctx c (← thr).ctx

/-- The generation of a slot, one for every thread that stands in it (R71, R263). -/
def State.gen (s : State) (c i : Nat) : BitVec 15 := (s.core c).gens.get (i % 64) 0

/-- What an instruction of a thread finds at its turn (R134, R136, R141, R168, R312). -/
def State.atIssue (s : State) (c : Nat) (t : Thread) : AtIssue :=
  let k := s.task c t.task
  let x := s.ctx c t.ctx
  ⟨k.bclk.toNat, k.bperiod, x.dist0, x.shift, x.synclim.toNat, none, s.cyc c, none⟩

/-- The header of a mailbox entry (R73). -/
def Mail.header (m : Mail) : Word :=
  BitVec.ofNat 64 (m.kind % 16 + m.payload.length % 16 * 16 + m.src % 2 ^ 20 * 256 + m.tag.toNat * 2 ^ 32)

/-- The word that an instruction gets of what it takes (R73, R107). -/
def Taking.word : Taking → Word
  | .port _ w => w
  | .mail m => m.header

/-- The turn of a thread: one whose instruction has issued already keeps what it found then, and the words that it has taken
(R107, R134, R136, R145, R168). -/
def State.turnOf (s : State) (c i : Nat) (t : Thread) (next : Pc) : Turn :=
  { core := c, slot := i, next := next, poison := none, at_ := t.issued.getD (s.atIssue c t)
    again := (t.taken.filter (fun p => p.1 == t.pc && p.2.1 == t.handler)).map (fun p => p.2.2.word) }

/-- The PC of the instruction that follows the running one (R103). -/
def nextPc : Act Pc := do
  match (← get).turn with
  | some t => pure t.next
  | none => pure 0

/-- The running instruction transfers control to an address (R104). -/
def goto (pc : Pc) : Act Unit :=
  modify (fun s => { s with turn := s.turn.map (fun t => { t with next := pc }) })

/-- The thread runs on the riddle (R56, R176). -/
def onRiddle : Act Bool := do return (← me).2 == 63

/-! ## Registers -/

/-- Reads window register n (R105). A correctable error is corrected and counted (R282); a poisoned entry is noted, and the
instruction takes POISON where no condition that ranks before it ends it (R203, R283). -/
def rdX (n : Nat) : Act Word := do
  let (c, _) ← me
  let t ← thr
  let s ← get
  let e := t.base + n
  if (s.core c).regPoison.contains e then
    modify (fun s => { s with turn := s.turn.map (fun t => { t with poison := t.poison <|> some n }) })
  if (s.core c).regSoft.contains e then
    modify (fun s => s.modCore c (fun k => { k with regSoft := k.regSoft.filter (· ≠ e), corrected := k.corrected + 1 }))
  return s.reg c e

/-- Writes window register n. -/
def wrX (n : Nat) (v : Word) : Act Unit := do
  let (c, _) ← me
  let t ← thr
  modify (fun s => s.setReg c (t.base + n) v)

/-- Reads n consecutive window registers. -/
def rdXs (n : Nat) : Nat → Act (List Word)
  | 0 => pure []
  | k + 1 => do
    let v ← rdX n
    let vs ← rdXs (n + 1) k
    return v :: vs

/-- The number of a window register; a field of another kind gives 0, and `checkFields` has raised its trap. -/
def regWin : Reg → Nat
  | .x n => n.toNat
  | _ => 0

/-- A predicate (R58). -/
def Thread.pred (t : Thread) (p : BitVec 4) : Bool := t.preds.getLsbD p.toNat

/-- Writes a predicate; p0 stays 1 (R58). -/
def Thread.setPred (t : Thread) (p : BitVec 4) (b : Bool) : Thread :=
  if p = 0 then t
  else { t with preds := if b then t.preds ||| (1#16 <<< p.toNat) else t.preds &&& ~~~(1#16 <<< p.toNat) }

/-- A guard holds (R58, R98). -/
def Thread.guard (t : Thread) (g : Guard) : Bool := t.preds.getLsbD g.p.toNat != g.neg

/-- Writes a predicate of the running thread. -/
def wrP (p : BitVec 4) (b : Bool) : Act Unit := modThr (·.setPred p b)

/-- Reads a predicate of the running thread. -/
def rdP (p : BitVec 4) : Act Bool := do return (← thr).pred p

/-- ORs flags into FLAGS (R42, R291). -/
def orFlags (f : Flags) : Act Unit := modThr (fun t => { t with flags := t.flags ||| f })

/-! ## Chunks -/

/-- The arbiter that a chunk asks: its plot's, its stack's or the module's (R146). A line whose page no longer translates has
no home, and is left out of the choice (notes/assumptions/64.md). -/
def State.arbiterOf (s : State) (c : Nat) (v : VDev) (lines : List Nat) : Nat :=
  let homes := lines.filterMap (fun l => match s.translate c v (64 * l) with
    | .ok e => some (homeOf (e.phys (64 * l)))
    | _ => none)
  if homes.all (fun h => plotOf h == plotOf c) then plotOf c
  else if homes.all (fun h => h / 65536 == c / 65536) then 16384 + c / 65536
  else 16400

/-- The chunk asks its arbiter for commit, with an age stamp from the arbiter's counter the first time (R146, R147). -/
def State.closeChunk (s : State) (c i : Nat) : State :=
  match s.thread? c i with
  | none => s
  | some t =>
    match t.chunk.stamp with
    | some _ => s.setThread c i { t with chunk := { t.chunk with closing := true } }
    | none =>
      let a := s.arbiterOf c t.vdev (t.chunk.rset ++ t.chunk.wset)
      let n := s.arbiters.get a 0
      { s.setThread c i { t with chunk := { t.chunk with closing := true, stamp := some n } } with
        arbiters := s.arbiters.put a (n + 1) }

/-- A chunk whose read set and write set are empty asks no arbiter (R147). -/
def Chunk.quiet (k : Chunk) : Bool := k.rset.isEmpty && k.wset.isEmpty

/-- Merges masked bytes into an entry's data and mask at an offset in its line (R123). -/
def Entry.merge (e : Entry) (off : Nat) (bytes : List (Byte × Nat)) : Entry :=
  let put (p : Nat × (Byte × Nat)) (e : Entry) : Entry :=
    let a := off + p.1
    let old := e.data.getD a 0
    let m := e.mask.getD a 0
    { e with
      data := e.data.set a (mergeByte old p.2.1 p.2.2)
      mask := e.mask.set a (m ||| p.2.2) }
  { ((List.range bytes.length).zip bytes).foldl (fun e p => put p e) e with st := .dirty }

/-- Reads a byte range of a line image. -/
def slice (img : List Byte) (off n : Nat) : List Byte := (img.drop off).take n

/-- Cuts bytes from an address into the parts that fall in one line each: address, bytes. `n` bounds the lines. -/
def cutLines {α : Type} : Nat → Nat → List α → List (Nat × List α)
  | 0, _, _ => []
  | n + 1, a, bs =>
    if bs.isEmpty then []
    else (a, bs.take (64 - a % 64)) :: cutLines n ((a / 64 + 1) * 64 % 2 ^ 55) (bs.drop (64 - a % 64))

/-- A store into the private entry of a line, which takes effect when its chunk commits (R123, R147). -/
def State.storePrivate (s : State) (c : Nat) (h : Held) : State :=
  match s.stashFind c (h.addr / 64) with
  | some (j, e) => s.setEntry c j (e.merge (h.addr % 64) h.bytes)
  | none => s

/-- Changes a frame's program pin count (R194): it sticks at 65,535 and does not fall below 0. -/
def State.pinProgram (s : State) (frame : Nat) (up : Bool) : State :=
  let p := s.pins.get frame ⟨0, 0⟩
  let n := if p.program = 65535 then 65535 else if up then p.program + 1 else p.program - 1
  { s with pins := s.pins.put frame { p with program := n } }

/-- What a chunk without read and write set does when it ends: its stores to private entries and its pin counts take
effect (R147, R194). -/
def State.commitQuiet (s : State) (c i : Nat) : State :=
  match s.thread? c i with
  | none => s
  | some t =>
    let s := t.chunk.held.foldl (fun s h => s.storePrivate c h) s
    let s := t.chunk.pins.foldl (fun s p => s.pinProgram p.1 p.2) s
    s.setThread c i { t with chunk := { t.chunk with held := [], pins := [] } }

/-- The running instruction ends its chunk: the chunk's other instructions commit first (R145). -/
def endChunk : Act Unit := do
  let (c, i) ← me
  let t ← thr
  if !t.chunk.quiet then throw .commit
  modify (fun s => s.commitQuiet c i)
  modThr (fun t => { t with chunk := { t.chunk with closing := true } })

/-- The end of a chunk (R145-R147): one without read and write set commits at once, any other asks its arbiter. -/
def State.chunkOver (s : State) (c i : Nat) : State :=
  match s.thread? c i with
  | none => s
  | some t => if t.chunk.quiet then (s.commitQuiet c i).newChunk c i else s.closeChunk c i

/-! ## Stores into a line -/

/-- Who accesses: a request of a core's context and task, with what it declares. -/
structure Who where
  core : Nat
  ctx : Nat
  task : Nat
  vdev : VDev
  use : Use
  deriving DecidableEq, Repr

/-- The code that an access carries where DIST0 stands at `d` (R134). -/
def AtIssue.code (a : AtIssue) (nu : Nat) : Nat := if nu = 255 then (if a.dist0 = 255 then 254 else a.dist0.toNat) else nu

/-- What an access declares at its issue (R134, R136, R141). -/
def AtIssue.use (a : AtIssue) (nu : Nat) : Use :=
  ⟨a.code nu, a.clock, sliceDist a.period a.shift (codeDist (a.code nu))⟩

/-- What a landing handler's access declares: its requests carry the distance of its context's DIST0, or 64 where the context
is gone (R141). -/
def State.riddleUse (s : State) (c nu : Nat) : Use :=
  match (s.core c).landRun with
  | none => ⟨nu, 0, some 64⟩
  | some r => match (s.core r.pkt.core).ctxs.find? r.ctx with
    | none => ⟨nu, 0, some 64⟩
    | some x => if x.vdev == r.vdev then ⟨x.code nu, 0, codeDist (x.code 255)⟩ else ⟨nu, 0, some 64⟩

/-- The request that an access makes of a home (R141). -/
def Who.rq (w : Who) (addr : Word) (acc : Nat) (engine : Bool := false) : Rq :=
  ⟨w.core, w.ctx, w.vdev, w.use.dist, addr, acc, engine⟩

/-- Stores masked bytes into one line, in the stash where the line is mapped and else at its home (R120, R122, R146). -/
def storeLine (w : Who) (addr : Word) (off : Nat) (bytes : List (Byte × Nat)) (use : Bool) : Act Unit := do
  let s ← get
  let gl := addr.toNat % 2 ^ 55 / 64
  match s.stashFind w.core gl with
  | some (i, e) =>
    if e.owner.isSome then waitLine gl
    if e.st = .unfilled then
      fillEntry (w.rq addr 1) i (← leafFor w.core w.vdev (64 * gl) addr 1) true
    else if !e.priv && !e.excl then makeExcl (w.rq addr 1) i gl
    modify (fun s => match (s.core w.core).stash.find? i with
      | some e => s.setEntry w.core i (e.merge off bytes)
      | none => s)
    if use then modify (fun s => s.useEntry w.core i w.ctx w.task w.use)
  | none =>
    let l ← leafFor w.core w.vdev (64 * gl) addr 1
    homeWrite (w.rq addr 1) gl (l.phys (64 * gl) + off) bytes

/-- Whole bytes as masked bytes. -/
def whole (bs : List Byte) : List (Byte × Nat) := bs.map (fun b => (b, 3))

/-! ## Fetch buffers -/

/-- A fetch of a line at its home (R156): translation, the X right, the frame owner check, poison. -/
def fetchHome (c ctx : Nat) (v : VDev) (pc : Pc) : Act (List Byte) := do
  let addr : Word := codePtr (BitVec.ofNat 55 (pc.toNat / 64 * 64))
  let ws ← checkLines c ctx v .x [(pc.toNat / 64, addr)] true
  match ws with
  | [.home l] => homeRead ⟨c, ctx, v, none, addr, 2, false⟩ (pc.toNat / 64) (l.phys (pc.toNat / 64 * 64)) (use := false)
  | _ => waitTurn

/-- The fetch buffer with a line put in, the oldest of eight leaving (R156). -/
def fetchPut (l : List FetchLine) (line : Nat) (img : List Byte) : List FetchLine :=
  (if l.length ≥ 8 then l.drop 1 else l) ++ [⟨line, img⟩]

/-- The image of a line in a thread's fetch buffer. -/
def Thread.image? (t : Thread) (line : Nat) : Option (List Byte) :=
  (t.fetch.find? (fun f => f.line == line)).map FetchLine.img

/-- The address of the instruction after the one at a thread's PC (R103). -/
def Thread.following (t : Thread) : Pc :=
  match t.image? (t.pc.toNat / 64) with
  | some img => followingPc img t.pc
  | none => t.pc + 2

/-- The trap of a transfer to a handler entry (R104, R208): its format, an odd address, a position that is no head. -/
def State.entryTrap (s : State) (c : Nat) (t : Thread) (p : Word) : Option Nat :=
  if ptrFmt p ≠ 0 && ptrFmt p ≠ 15 then some 5
  else if ptrAddr p % 2 = 1 then some 6
  else
    let pc : Pc := BitVec.ofNat 55 (ptrAddr p)
    let img := match t.image? (pc.toNat / 64) with
      | some i => some i
      | none => match attempt (fetchHome c t.ctx t.vdev pc) s with
        | .ok (i, _) => some i
        | .error _ => none
    match img with
    | some i => (match lineAt i (bitsOf pc.toNat 5 1) with | .noHead _ => some 1 | _ => none)
    | none => none

/-! ## Threads that stand in no slot -/

/-- A saved or a travelling thread changed in an arrival. -/
def Arrival.change (f : Saved → Saved) (g : Travel → Travel) : Arrival → Arrival
  | .travel n t => .travel n (g t)
  | .evicted n v => .evicted n (f v)

/-- The threads changed that stand in no slot: saved by an eviction, waiting at a core or travelling (R54). -/
def State.away (s : State) (f : Saved → Saved) (g : Travel → Travel) : State :=
  let arr (l : List Arrival) : List Arrival := l.map (Arrival.change f g)
  { s with
    cores := s.cores.map (fun p => (p.1, { p.2 with
      ctxs := p.2.ctxs.map (fun x => (x.1, { x.2 with arrivals := arr x.2.arrivals, arrSpill := arr x.2.arrSpill }))
      arrOut := p.2.arrOut.map (fun a => (a.1, a.2.change f g)) }))
    evicted := s.evicted.map f
    wire := s.wire.map (fun w => match w.pkt with
      | .context d t => { w with pkt := .context d (g t) }
      | _ => w) }

/-- The thread of a number changed where it stands in no slot. -/
def State.reachAway (s : State) (id : Nat) (f : Saved → Saved) (g : Travel → Travel) : State :=
  s.away (fun v => if v.th.id = id then f v else v) (fun t => if t.id = id then g t else t)

/-- The place of a thread that stands in a slot. -/
def State.placeOf (s : State) (id : Nat) : Option (Nat × Nat) :=
  s.cores.findSome? (fun p => (List.find? (fun q => q.2.id == id && q.1 != 63) p.2.slots).map (fun q => (p.1, q.1)))

/-- The thread of a number changed wherever it is (notes/assumptions/53.md). -/
def State.reachThread (s : State) (id : Nat) (f : Thread → Thread) (g : Travel → Travel) : State :=
  match s.placeOf id with
  | some (c, i) => s.modThread c i f
  | none => s.reachAway id (fun v => { v with th := f v.th }) g

/-! ## The end of a thread -/

/-- The task's stash lines become over and their open promises close (R142). -/
def State.taskOver (s : State) (c task : Nat) : State :=
  s.modCore c (fun k => { k with
    stash := k.stash.map (fun p => if p.2.reuse.who == task && !p.2.reuse.clk then
      (p.1, { p.2 with reuse := { p.2.reuse with isOver := true, reached := true, opn := false } }) else p)
    tasks := k.tasks.del task })

/-- A spawned thread has ended or hopped: the count of its spawner's task drops, on its core or as an eviction saved it (R66,
R189). -/
def State.unspawn (s : State) (id : Nat) : State :=
  let drop (k : Task) : Task := if k.id = id then { k with count := k.count - 1 } else k
  let s : State := { s with cores := s.cores.map (fun p => (p.1, { p.2 with tasks := p.2.tasks.map (fun t => (t.1, drop t.2)) })) }
  s.away (fun v => { v with task := drop v.task }) (fun t => t)

/-- A task has no thread on the core, and no SPAWN record of it waits (R135, R142). -/
def State.taskGone (s : State) (c task : Nat) : Bool :=
  !(s.core c).slots.any (fun p => p.2.task == task && p.1 != 63) &&
  !((s.core c).queue ++ (s.core c).spill).any (fun r => r.task == some task)

/-- The slot is freed and its window released: generation, wake bit, task (R71, R316, R331); where the thread ends or
hops, and is not evicted, its channel ends close and its spawner's count drops (R66, R189, R308). -/
def State.freeSlot (s : State) (c i : Nat) (leaves : Bool) : State :=
  match s.thread? c i with
  | none => s
  | some t =>
    let s := s.modCore c (fun k => { k with
      slots := k.slots.del i
      gens := k.gens.put (i % 64) (k.gens.get (i % 64) 0 + 1)
      ends := if leaves then k.ends.filter (fun p => p.2.slot != i) else k.ends
      wanting := k.wanting.filter (· ≠ i)
      shadow := if k.shadow.holder == some i then { k.shadow with holder := none } else k.shadow })
    let s := match t.spawned with
      | some id => if leaves then s.unspawn id else s
      | none => s
    if s.taskGone c t.task then s.taskOver c t.task else s

/-- A thread ends, as at EXIT; a cause is recorded in its launch (R208, R268, R316). -/
def State.endThread (s : State) (c i : Nat) (cause : Option Nat) : State :=
  match s.thread? c i with
  | none => s
  | some t =>
    let s := s.freeSlot c i true
    match cause with
    | none => s
    | some k => { s with launches := s.launches.mod t.launch (fun l =>
        { l with
          cause := if l.ended = 0 then k else l.cause
          ended := min (2 ^ 32 - 1) (l.ended + 1) }) }

/-! ## A landing handler's failure -/

/-- The copy of a landing packet, where it still stands in its barrow register. -/
def State.copyOf (s : State) (p : LandPkt) : Option Copy :=
  ((s.core p.core).barrow.find? p.reg).filter (fun y => y.id == p.id)

/-- The state with a packet's copy changed. -/
def State.modCopy (s : State) (p : LandPkt) (f : Copy → Copy) : State :=
  match s.copyOf p with
  | some y => s.modCore p.core (fun k => { k with barrow := k.barrow.put p.reg (f y) })
  | none => s

/-- The lesser of an optional number and a number. -/
def optMin (a : Option Nat) (b : Nat) : Option Nat := some (match a with | some x => min x b | none => b)

/-- A packet that does not land: its copy stops with a status (R176, R181, R183). -/
def State.lost (s : State) (p : LandPkt) (status : Nat) : State :=
  s.modCopy p (fun y => { y with
    flying := y.flying - 1
    firstLost := optMin y.firstLost p.e
    stopAt := min y.stopAt y.e
    revoked := y.revoked || status == 2
    status := if y.status.isNone then some status else y.status })

/-- The riddle is free for its next work (R178). -/
def State.riddleFree (s : State) (c : Nat) : State :=
  s.modCore c (fun k => { k with slots := k.slots.del 63, landRun := none })

/-- A trap, a LANDST outside the extent or the 1,024th instruction ends the copy with LANDFAULT (R176). -/
def State.landFault (s : State) (c : Nat) : State :=
  match (s.core c).landRun with
  | some r => (s.lost r.pkt 6).riddleFree c
  | none => s.riddleFree c

/-- The instruction has been performed: the PC moves on, and the chunk counts it or ends (R103, R144, R145). A landing
handler's instruction counts towards its 1,024 (R176). -/
def State.retire (s : State) (t : Turn) : State :=
  match s.thread? t.core t.slot with
  | none => s
  | some h =>
    if t.slot = 63 then
      let s := s.setThread t.core 63 { h with pc := t.next, taken := [], chunk := Chunk.fresh { h with pc := t.next } [] }
      match (s.core t.core).landRun with
      | none => s
      | some r =>
        if r.count + 1 ≥ Config.landLimit then s.landFault t.core
        else s.modCore t.core (fun k => { k with landRun := some { r with count := r.count + 1 } })
    else
      let taken := if h.chunk.quiet then h.taken.filter (fun p => p.2.1 != h.handler) else h.taken
      let h := { h with pc := t.next, taken := taken, chunk := { h.chunk with count := h.chunk.count + 1 } }
      let s := s.setThread t.core t.slot h
      if h.chunk.closing || h.chunk.count ≥ Config.chunkLimit then s.chunkOver t.core t.slot else s

/-! ## Taking an exception -/

/-- The causes whose vector is UHV (R202). -/
def Trap.toUhv (t : Trap) : Bool := t.cause == 7 || t.cause == 9 || t.cause == 10 || t.cause == 17

/-- A thread asks for an entry to UHV, and waits for the core's shadow set in request order (R82). Which of a thread's own
pending entries comes first is not given: those that its present instruction cannot pass (a refused store, a synchronous
cause, SYNC_LIMIT) come before the others (notes/assumptions/58.md). -/
def State.wantHandler (s : State) (c i : Nat) (q : Irq) : State :=
  match s.thread? c i with
  | none => s
  | some t =>
    (s.setThread c i { t with pending := if q.sync || q.cause = 10 then q :: t.pending else t.pending ++ [q] }).modCore c
      (fun k => { k with wanting := k.wanting ++ [i] })

/-- The save area's words (R206). -/
def saveWords (t : Thread) (tr : Trap) (regs : List Word) : List Word :=
  [codePtr t.pc,
   BitVec.ofNat 64 (t.preds.toNat + t.size * 2 ^ 16 + tr.cause * 2 ^ 24 + t.flags.toNat * 2 ^ 32),
   tr.d1, tr.d2, tr.d3, 0, 0, 0] ++ regs

/-- Writes the save area as one chunk at module scope (R206): every line is visible at its home, and the chunks that met
one are squashed. -/
def saveArea (c i : Nat) (t : Thread) (a : Nat) (words : List Word) : Act Unit := do
  let parts := cutLines 20 a (wordBytes words)
  let w : Who := ⟨c, t.ctx, t.task, t.vdev, ((← get).atIssue c t).use 255⟩
  discard (checkLines c t.ctx t.vdev .w (parts.map (fun p => (p.1 / 64, toW p.1))))
  for p in parts do
    storeLine w (toW p.1) (p.1 % 64) (whole p.2) true
    match (← get).stashFind c (p.1 / 64) with
    | some (j, e) => if e.priv then orWait (fun s => s.writeBack c j)
    | none => pure ()
  modify (fun s => s.squashMeeting c i (parts.map (fun p => p.1 / 64)))

/-- The upcall of R206 for a thread whose chunk has committed. A save that has to wait leaves the upcall to be made at a
later turn of the thread. -/
def State.upcall (s : State) (c i : Nat) (tr : Trap) : State :=
  match s.thread? c i with
  | none => s
  | some t =>
    let x := s.ctx c t.ctx
    if x.ufv = 0 || !t.fsave.getLsbD 0 then s.endThread c i (some tr.cause)
    else
      let a := field t.fsave 54 6 * 64
      match attempt (saveArea c i t a (saveWords t tr (s.window c t))) s with
      | .error (.trap _ logs) => (s.logs c t.vdev logs).endThread c i (some tr.cause)
      | .error _ => s.setThread c i { t with raised := some tr }
      | .ok (_, s) =>
        let t' := { t with fsave := t.fsave &&& ~~~1, flags := 0, pc := BitVec.ofNat 55 (ptrAddr x.ufv), status := .ready
                           raised := none, issued := none }
        let s := s.setThread c i t'
        let s := s.setRegs c t.base ([toW a, toW tr.cause, tr.d1].take t.size)
        match s.entryTrap c t' x.ufv with
        | some k => s.endThread c i (some k)
        | none => s.newChunk c i

/-- An instruction that traps takes no word and pops no entry (R107): what it has taken stands at the front of its queues
again. -/
def State.giveBack (s : State) (c i : Nat) : State :=
  match s.thread? c i with
  | none => s
  | some t =>
    let mine (p : Pc × Bool × Taking) : Bool := p.1 == t.pc && p.2.1 == t.handler
    if !t.taken.any mine then s
    else
      let s := (t.taken.filter mine).foldr (fun p s => s.modCore c (fun k => match p.2.2 with
        | .port d w => { k with fifos := k.fifos.put (dirIdx d) (w :: k.fifos.get (dirIdx d) []) }
        | .mail m => { k with mail := m :: k.mail })) s
      s.setThread c i { t with taken := t.taken.filter (fun p => !mine p) }

/-- TAKING AN EXCEPTION (R82, R107, R176, R202-R208): the thread's chunk commits before the trap is delivered; a landing
handler's trap ends its copy; one inside a user-level handler ends the thread; a cause of UHV asks for the handler, and
every other one is an upcall. -/
def State.takeTrap (s : State) (c i : Nat) (tr : Trap) (logs : List Log) : State :=
  match s.thread? c i with
  | none => s
  | some t =>
    if i = 63 then (s.logs c t.vdev logs).landFault c
    else if !t.chunk.quiet then s.closeChunk c i
    else
      let logs := if tr.cause = 7 && logs.isEmpty then [⟨false, none, 0⟩] else logs
      let s := (((s.giveBack c i).logs c t.vdev logs).commitQuiet c i).newChunk c i
      if t.handler then s.endThread c i (some tr.cause)
      else if tr.toUhv then
        if (s.ctx c t.ctx).uhv = 0 then s.endThread c i (some tr.cause)
        else s.wantHandler c i ⟨tr.cause, false, tr.d1, tr.d2, tr.d3, true⟩
      else s.upcall c i tr

/-- A thread stands at an instruction boundary, what ended its last chunk performed. -/
def Thread.settled (t : Thread) : Bool :=
  !t.chunk.closing && t.owed = 0 && t.issued.isNone && t.raised.isNone && match t.status with
    | .ready | .poll .irq | .poll .mail | .suspended | .turns _ | .port _ _ => true
    | _ => false

/-- A thread stands at an instruction boundary at which a handler may be entered (R82, R83). -/
def Thread.atBoundary (t : Thread) : Bool := !t.handler && t.doomed.isNone && t.settled

/-- Enters UHV (R82, R202): the shadow set takes the PC, the predicate word and the cause, and h0-h3 the cause and its
details; another device's leavings are zeroed first. A transfer that traps, and a UHV of 0, end the thread (R208). -/
def State.enterHandler (s : State) (c i : Nat) : State :=
  match s.thread? c i with
  | none => s
  | some t =>
    match t.pending with
    | [] => s.modCore c (fun k => { k with wanting := k.wanting.filter (· ≠ i) })
    | q :: rest =>
      let uhv := (s.ctx c t.ctx).uhv
      if uhv = 0 then s.endThread c i (some q.cause)
      else
        let h0 : Word := BitVec.ofNat 64 (q.cause % 256 + if q.back then 256 else 0)
        let s := s.modCore c (fun k =>
          let h := if k.shadow.last == some t.vdev then k.shadow.h else List.replicate 8 0
          { k with
            shadow := ⟨some i, some t.vdev, [h0, q.h1, q.h2, q.h3] ++ h.drop 4, t.pc, t.after.getD t.following, t.preds, q.cause⟩
            wanting := k.wanting.erase i })
        let t' := { t with
          handler := true, pending := rest, pc := BitVec.ofNat 55 (ptrAddr uhv), status := .ready
          after := if q.cause = 10 then none else t.after }
        let s := s.setThread c i t'
        match s.entryTrap c t' uhv with
        | some k => s.endThread c i (some k)
        | none => s.newChunk c i

/-- RETURNING FROM A HANDLER (R129, R369): the PC and the predicate word come back from the shadow set, which is freed;
after SYNC_LIMIT with h2 ≠ 0 the PC is the next instruction. -/
def State.leaveHandler (s : State) (c i : Nat) : State × Pc :=
  let sh := (s.core c).shadow
  let pc := if sh.cause = 10 && sh.h.getD 2 0 != 0 then sh.snext else sh.spc
  ((s.modThread c i (fun t => { t with handler := false, preds := sh.spreds })).modCore c
    (fun k => { k with shadow := { k.shadow with holder := none } }), pc)

/-! ## Fields -/

/-- A field of an instruction with its kind (R106). -/
inductive Fld where
  | src (r : Reg)
  | dst (r : Reg)
  /-- A destination that is written after a reply (LD's d), and whose port need have no room before that (R337). -/
  | late (r : Reg)
  | base (r : Reg)
  /-- A group of n registers. -/
  | group (r : Reg) (n : Nat)
  /-- x0-x127 only (LOOP's d), or no port (MOVHI's d). -/
  | win (r : Reg)
  | noPort (r : Reg)
  /-- A number field with its least forbidden value. -/
  | num (v bound : Nat)
  deriving DecidableEq, Repr

/-- The register of a field. -/
def Fld.reg? : Fld → Option Reg
  | .src r | .dst r | .late r | .base r | .group r _ | .win r | .noPort r => some r
  | .num _ _ => none

/-- The register of a value source. -/
def Fld.src? : Fld → Option Reg
  | .src r => some r
  | _ => none

/-- A field names a port or mbx, for which the instruction waits before it issues (R107). -/
def Fld.io (f : Fld) : Bool :=
  match f with
  | .late _ => false
  | _ => match f.reg? with | some (.port _) | some .mbx => true | _ => false

/-- WINDOW: the register that lies beyond a window of `size` (R57, R106). -/
def Fld.window? (size : Nat) : Fld → Option Nat
  | .group (.x n) len => if n.toNat + len > size then some (max n.toNat size) else none
  | .src (.x n) | .dst (.x n) | .late (.x n) | .base (.x n) | .win (.x n) | .noPort (.x n) =>
    if n.toNat ≥ size then some n.toNat else none
  | _ => none

/-- A port is dead or not bound to the slot (R14, R76). -/
def State.portDead (s : State) (c i : Nat) (t : Thread) (d : Dir) : Bool :=
  let nb := (s.ctx c t.ctx).nbind.toNat / 2 ^ (8 * dirIdx d)
  let bound := bitOf nb 7 && nb % 64 == i % 64
  !bound || match neighbour c d with
    | none => true
    | some n => (s.core n).fenced || !s.samePart c n

/-- ILLEGAL_OPERAND for a field: a kind that does not accept the register, h0-h7 outside a handler, a dead or unbound
port, a number beyond its limit (R82, R105, R106, R291). -/
def State.fieldBad (s : State) (c i : Nat) (t : Thread) (f : Fld) : Option Nat :=
  match f with
  | .num v b => if v ≥ b then some v else none
  | .group r _ | .win r => (match r with | .x _ => none | r => some r.num.toNat)
  | .src r | .dst r | .late r | .base r | .noPort r =>
    match r with
    | .x _ | .zr => none
    | .h _ => if t.handler then none else some r.num.toNat
    | .mbx => (match f with | .src _ => none | _ => some r.num.toNat)
    | .port d => (match f with
      | .src _ | .dst _ | .late _ => if s.portDead c i t d then some r.num.toNat else none
      | _ => some r.num.toNat)

/-- The first of a list of optional numbers. -/
def firstSome : List (Option Nat) → Option Nat
  | [] => none
  | some a :: _ => some a
  | none :: t => firstSome t

/-- Mailbox entries held for a device (R75). -/
def State.mailFor (s : State) (c : Nat) (v : VDev) : List Mail := (s.core c).mail.filter (fun m => m.vdev == v)

/-- Entries that a thread may take: the lower-numbered waiting slots of its device come first (R74). -/
def State.mailFree (s : State) (c i : Nat) (v : VDev) : Nat :=
  (s.mailFor c v).length -
    ((s.core c).slots.filter (fun p => p.1 % 64 < i % 64 && p.2.vdev == v && p.2.status == .poll .mail && s.active c p.1)).length

/-- The head entry of a device's part of the mailbox queue leaves it (R75). -/
def popMail (v : VDev) : List Mail → List Mail
  | [] => []
  | m :: t => if m.vdev == v then t else m :: popMail v t

/-- A core's input FIFO (R76). -/
def Core.fifo (k : Core) (d : Dir) : List Word := k.fifos.get (dirIdx d) []

/-- The context that claims a port (R77). -/
def State.claimant (s : State) (c : Nat) (d : Dir) : Option Context :=
  (List.find? (fun p => bitOf p.2.nbind.toNat (8 * dirIdx d + 7)) (s.core c).ctxs).map Prod.snd

/-- A thread waits for a home to perform its operation or for its reply (R53). -/
def Status.asks : Status → Bool
  | .home _ | .parked _ | .refused _ _ | .reply _ _ => true
  | _ => false

/-- Words of a FIFO that instructions which may still trap have taken: their places stay theirs (R107). -/
def Core.lentWords (k : Core) (d : Dir) : Nat :=
  (k.slots.map (fun p => if p.2.status.asks then
    (p.2.taken.filter (fun q => q.1 == p.2.pc && match q.2.2 with | .port x _ => x == d | .mail _ => false)).length else 0)).foldl (· + ·) 0

/-- A word from a neighbour enters the FIFO of the port it comes in at, or is refused (R76, R77). -/
def State.portAccept (s : State) (c : Nat) (d : Dir) (v : VDev) (w : Word) : Option State :=
  match s.claimant c d with
  | some x =>
    if x.vdev == v && ((s.core c).fifo d).length + (s.core c).lentWords d < 4 then
      some (s.modCore c (fun k => { k with fifos := k.fifos.put (dirIdx d) (k.fifo d ++ [w]) }))
    else none
  | none => none

/-- The checks of R291 on an instruction's fields in the order of R203, its waits for ports and mbx (R107), and the
end of its chunk where a field names one (R145). -/
def checkFields (fs : List Fld) : Act Unit := do
  let (c, i) ← me
  let t ← thr
  let s ← get
  match firstSome (fs.map (Fld.window? t.size)) with
  | some n => raise 3 (toW n) (toW t.size) 0
  | none => pure ()
  match firstSome (fs.map (s.fieldBad c i t)) with
  | some n => raise 2 (toW n) 0 0
  | none => pure ()
  let srcs := if (s.turn.map (fun t => t.again.isEmpty)).getD true then fs.filterMap Fld.src? else []
  if fs.any Fld.io then
    for d in [Dir.n, Dir.e, Dir.s, Dir.w] do
      if (srcs.filter (· == .port d)).length > ((s.core c).fifo d).length then waitIrq
    let pops := (srcs.filter (· == .mbx)).length
    if pops > 0 && pops > s.mailFree c i t.vdev then throw (.wait .mail)
    for f in fs do
      match f with
      | .dst (.port d) =>
        match neighbour c d with
        | some n => if (s.portAccept n (oppDir d) t.vdev 0).isNone then waitIrq
        | none => pure ()
      | _ => pure ()
    endChunk

/-- A word that the instruction takes from a queue: one that an earlier execution has taken, else the queue's (R107, R146). -/
def takeWord (pop : State → Taking × State) : Act Word := do
  let s ← get
  match s.turn.map Turn.again with
  | some (w :: rest) =>
    set ({ s with turn := s.turn.map (fun t => { t with again := rest }) } : State)
    return w
  | _ =>
    let (w, s) := pop s
    set s
    modThr (fun t => { t with taken := t.taken ++ [(t.pc, t.handler, w)] })
    return w.word

/-- Reads a value source (R105, R107): a port gives up its oldest word, mbx its head entry. -/
def rd (r : Reg) : Act Word := do
  let (c, _) ← me
  let t ← thr
  match r with
  | .x n => rdX n.toNat
  | .zr => return 0
  | .h n => return ((← get).core c).shadow.h.getD n.toNat 0
  | .port d => takeWord (fun s => (.port d (((s.core c).fifo d).getD 0 0),
      s.modCore c (fun k => { k with fifos := k.fifos.put (dirIdx d) ((k.fifo d).drop 1) })))
  | .mbx => takeWord (fun s => (.mail (((s.mailFor c t.vdev).head?).getD ⟨t.vdev, 0, 0, 0, []⟩),
      s.modCore c (fun k => { k with mail := popMail t.vdev k.mail })))

/-- The packet leaves the core, and the thread forfeits its turns until it is accepted (R73, R153). -/
def sendWait (p : Packet) : Act Unit := do
  let (c, _) ← me
  let t ← thr
  modThr (fun t => { t with status := .engine })
  modify (fun s => s.send p c t.id true)

/-- Writes a value destination (R105): a port sends the word to the neighbour's opposite FIFO. -/
def wr (r : Reg) (v : Word) : Act Unit := do
  let (c, _) ← me
  match r with
  | .x n => wrX n.toNat v
  | .zr | .mbx => pure ()
  | .h n => modify (fun s => s.modCore c (fun k => { k with shadow := { k.shadow with h := k.shadow.h.set n.toNat v } }))
  | .port d =>
    match neighbour c d with
    | some n => sendWait (.port n (oppDir d) (← thr).vdev v)
    | none => pure ()

/-! ## Running an instruction -/

/-- The instruction that waits so has issued, and keeps what it found at its turn (R134, R136, R140); one that waits for a port,
a queue or an interrupt issues again (R83, R107). -/
def WaitOn.issued : WaitOn → Bool
  | .quiet | .lines _ => true
  | .irq | .mail => false

/-- Leaves the thread waiting, to go on or to issue again at its next turn (R53). -/
def State.pollAgain (s : State) (c i : Nat) (w : WaitOn) : State :=
  s.modThread c i (fun t => { t with status := .poll w, issued := if w.issued then s.turn.map Turn.at_ else none })

/-- An ending instruction has issued and waits until its chunk's other instructions have committed (R145). -/
def State.awaitCommit (s : State) (c i : Nat) : State :=
  (s.closeChunk c i).modThread c i (fun t => { t with issued := s.turn.map Turn.at_ })

/-- What a body's end makes of the state it started from: a body that has read a poisoned register takes POISON, unless a
condition that ranks before it has ended it (R203, R283). -/
def State.finish (s : State) (t : Turn) : Except Stop (Done × State) → State
  | .ok (d, s') =>
    match s'.turn.bind Turn.poison, d with
    | some n, _ => s.takeTrap t.core t.slot ⟨9, toW (2 ^ 63 + n), 0, 0⟩ []
    | none, .next => s'.retire (s'.turn.getD t)
    | none, .stay =>
      match s'.thread? t.core t.slot with
      | some h => if h.chunk.closing then s'.chunkOver t.core t.slot else s'
      | none => s'
  | .error (.trap tr logs) => s.takeTrap t.core t.slot tr logs
  | .error (.wait w) => s.pollAgain t.core t.slot w
  | .error .close => s.closeChunk t.core t.slot
  | .error .commit => s.awaitCommit t.core t.slot

/-- Runs an encoded instruction: a false guard only takes the turn (R58); a body that stops leaves no effect but its
trap, its wait or its chunk's end. -/
def runInstr (g : Guard) (body : Act Done) (s : State) : Host.Outcome State Fault Refusal :=
  match s.turn with
  | none => .fault .noThread
  | some t =>
    match s.thread? t.core t.slot with
    | none => .fault .noThread
    | some h =>
      let s := s.setThread t.core t.slot { h with status := .ready, issued := none }
      if h.guard g then .next (s.finish t (body.run s)) else .next (s.retire t)

/-- Runs a body that goes on to the next instruction. -/
def runNext (g : Guard) (body : Act Unit) (s : State) : Host.Outcome State Fault Refusal :=
  runInstr g (do body; return .next) s

end Sys2Proof.Machine
end

