-- ==== Sys2Proof/Machine/Operands.lean ====
section
/-! DEFINITION. Operand forms: memory operands and effective formats (R48-R50, R108, R335, R363), dereferenced addresses,
and the loads and stores of a running thread (R120-R123, R337, R364). -/

namespace Sys2Proof.Machine

/-! ## Memory operands -/

/-- A load's value from the bytes of its ranges (R50, R335). -/
def MemRef.value (r : MemRef) (raw : Bool) (bs : List (List Byte)) : Word :=
  let n := leNat (bs.getD 0 [])
  if r.fmt = 6 || r.fmt = 7 then
    let bits := if r.fmt = 6 then n else if r.at_ % 2 = 1 then n / 16 else n % 16
    if raw then toW bits
    else
      let e := ((bs.getD 1 []).getD (if bfpSel (r.fmt == 6) bits then 1 else 0) 0).toNat
      toW (roundVal .fp32 .ne false (bfpVal (r.fmt == 6) bits e)).1
  else if r.fmt = 0 || r.fmt ≥ 12 then toW n
  else if r.fmt ≥ 8 then (if raw then toW n else wordOfInt (sintOf (8 * elemSize r.fmt) n))
  else if raw || r.fmt = 1 then toW n
  else toW (convFloat .fp32 (codeFmt r.fmt) .ne false n).1

/-- A store's bytes, nibble masks and flags (R363). -/
def MemRef.stored (r : MemRef) (raw : Bool) (v : Word) : List (Byte × Nat) × Flags :=
  if r.fmt = 7 then
    let n := v.toNat % 16
    (if r.at_ % 2 = 1 then [(BitVec.ofNat 8 (n * 16), 2)] else [(BitVec.ofNat 8 n, 1)], 0)
  else if 2 ≤ r.fmt && r.fmt ≤ 5 && !raw then
    let (n, f) := convFloat (codeFmt r.fmt) .fp32 .ne false (v.toNat % 2 ^ 32)
    (whole (leBytes (elemSize r.fmt) n), f)
  else (whole (leBytes (elemSize r.fmt) v.toNat), 0)

/-- The dereference of a pointer with its own format: its byte address (R48, R49). PTR_FORMAT for a reserved code or a BFP
format with L below 10. -/
def deref (p : Word) : Act Nat := do
  if ptrFormatBad (ptrFmt p) (ptrL p) then raise 5 p 0 0
  return if ptrFmt p = 7 then ptrAddr p / 2 else ptrAddr p

/-- The address of an operand that takes no BFP format: atomics, sync operations, pairs, JOIN (R127, R294, R333, R336). -/
def plainRef (b : Word) (off : BitVec 16) (align : Nat) : Act Word := do
  let f := ptrFmt b
  if f ≥ 16 || f = 6 || f = 7 then raise 5 (memRef b off 0).ptr 0 0
  let p := (memRef b off 0).ptr
  if ptrAddr p % align ≠ 0 then misalign p
  return p

/-! ## Who accesses -/

/-- What an access of the running instruction declares (R134, R136, R141). -/
def useNow (nu : Nat) : Act Use := do
  let (c, i) ← me
  let s ← get
  return if i = 63 then s.riddleUse c nu else match s.turn with
    | some t => t.at_.use nu
    | none => ⟨nu, 0, none⟩

/-- The running thread as a requester; the riddle's handler belongs to no task (R141). -/
def whoAmI (u : Use) : Act Who := do
  let (c, i) ← me
  let t ← thr
  return ⟨c, t.ctx, if i = 63 then 64 else t.task, t.vdev, u⟩

/-- The lines that byte ranges touch, each once, with the address that a fault reports: a range's own pointer for its first
line. -/
def spanLines : List (Word × Nat × Nat) → List (Nat × Word)
  | [] => []
  | (ptr, a, n) :: rest =>
    let here := (List.range ((a % 64 + n + 63) / 64)).map (fun k =>
      ((a / 64 + k) % 2 ^ 49, if k = 0 then ptr else toW ((a / 64 + k) * 64 % 2 ^ 55)))
    here ++ (spanLines rest).filter (fun p => !here.any (fun q => q.1 == p.1))

/-- `spanLines` of ranges that one pointer names. -/
def rangeLines (ptr : Word) (ranges : List (Nat × Nat)) : List (Nat × Word) := spanLines (ranges.map (fun r => (ptr, r)))

/-! ## The command window -/

/-- The queue's latch holds a ring tile for a command: one of its device (R219, R281). -/
def MQueue.tileFor (q : MQueue) (m : MCmd) : Bool := q.latch.any (fun t => t.vdev == m.iss.vdev)

/-- A command is ready at a tile-step boundary: neither its trigger, nor its rows, nor a ring latch is waited for
(R215-R219). -/
def MCmd.ready (m : MCmd) (q : MQueue) : Bool :=
  m.granted && m.fired && !m.ended && !m.out && (m.rag.isNone || m.live.isSome) &&
  (match m.ring with | some _ => m.rstep = 0 || m.kk ≠ 0 || q.tileFor m | none => true)

/-- A line of the command window (R223). -/
def MQueue.window (q : MQueue) : List Word :=
  match q.active with
  | none => [toW (if q.shadow.isSome then 4 else 0), 0, 0, 0, 0, 0, 0, 0]
  | some m =>
    let st := if m.run then 2 else if m.passed then 3 else 1
    [toW (st + if q.shadow.isSome then 4 else 0), toW m.steps, toW m.rows, m.tag.setWidth 64, 0, 0, 0, 0]

/-- The image of a command-window line, where the line is one of the core's window (R223). -/
def State.windowLine (s : State) (c gl : Nat) : Option (List Byte) :=
  match (s.core c).window with
  | some a =>
    if gl = a / 64 then some (wordBytes (s.core c).lo.window)
    else if gl = a / 64 + 1 then some (wordBytes (s.core c).hi.window)
    else none
  | none => none

/-! ## Loads of a thread -/

/-- The image of a line with the chunk's own held stores laid over it (R337). -/
def overlay (held : List Held) (gl : Nat) (img : List Byte) : List Byte :=
  held.foldl (fun img h =>
    if h.addr / 64 = gl then ((List.range h.bytes.length).zip h.bytes).foldl
      (fun img q => img.set (h.addr % 64 + q.1) (mergeByte (img.getD (h.addr % 64 + q.1) 0) q.2.1 q.2.2)) img
    else img) img

/-- Reads the image of one line for a thread, already checked and resolved (R120, R122, R150, R152). A line that an engine
owns is waited for, but by the handler of the copy that owns it (R176). -/
def readLine (w : Who) (own : Option Nat) (gl : Nat) (addr : Word) (wh : Where) : Act (List Byte) := do
  let fromStash (i : Nat) : Act (List Byte) := do
    let s ← get
    match (s.core w.core).stash.find? i with
    | some e =>
      if e.owner.isSome && e.owner ≠ own then waitLine gl
      if e.poison then poisonTrap addr 0 (s.physOf w.core w.vdev (64 * gl))
      modify (fun s => (s.useEntry w.core i w.ctx w.task w.use).correctEntry w.core i)
      return e.data
    | none => return List.replicate 64 0
  match wh with
  | .stash i _ => fromStash i
  | .unfilled i l =>
    match ((← get).core w.core).stash.find? i with
    | some e => if e.owner.isNone then fillEntry (w.rq addr 0) i l false
    | none => pure ()
    fromStash i
  | .home l =>
    let pa := l.phys (64 * gl)
    let d := (← get).dirOf (pa / 64)
    homeRead (w.rq addr 0 (own.isSome && d.engine = own)) gl pa

/-- Bytes gathered from line images. -/
def gather (imgs : List (Nat × List Byte)) (a : Nat) : Nat → List Byte
  | 0 => []
  | n + 1 =>
    (match imgs.find? (fun p => p.1 == a / 64) with
     | some p => p.2.getD (a % 64) 0
     | none => 0) :: gather imgs ((a + 1) % 2 ^ 55) n

/-- Loads byte ranges, each with the pointer that names it, for the running thread (R120, R146, R193, R223, R337): the checks of
every line first, then the reads, whose lines enter the read set. -/
def loadSpans (spans : List (Word × Nat × Nat)) (u : Use) : Act (List (List Byte)) := do
  let w ← whoAmI u
  let riddle ← onRiddle
  let t ← thr
  let lines := spanLines spans
  let s ← get
  let own := if riddle then (s.core w.core).landRun.map (fun r => r.pkt.id) else none
  let inWin := lines.filter (fun p => (s.windowLine w.core p.1).isSome)
  let rest := lines.filter (fun p => (s.windowLine w.core p.1).isNone)
  let wheres ← checkLines w.core w.ctx w.vdev .r rest
  let mut imgs : List (Nat × List Byte) := inWin.map (fun p => (p.1, (s.windowLine w.core p.1).getD []))
  for (p, wh) in rest.zip wheres do
    let img ← readLine w own p.1 p.2 wh
    imgs := imgs ++ [(p.1, overlay t.chunk.held p.1 img)]
  if !riddle then
    let s ← get
    let seen := rest.filterMap (fun p => match s.stashFind w.core p.1 with
      | some (_, e) => if e.priv then none else some p.1
      | none => some p.1)
    modThr (fun t => { t with chunk := { t.chunk with
      rset := t.chunk.rset ++ seen.filter (fun l => !t.chunk.rset.contains l) } })
  return spans.map (fun r => gather imgs r.2.1 r.2.2)

/-- `loadSpans` for ranges that one pointer names. -/
def loadRanges (ptr : Word) (ranges : List (Nat × Nat)) (u : Use) : Act (List (List Byte)) :=
  loadSpans (ranges.map (fun r => (ptr, r))) u

/-- Loads n bytes at an address. -/
def loadBytes (ptr : Word) (a n : Nat) (u : Use) : Act (List Byte) := do
  return (← loadRanges ptr [(a, n)] u).getD 0 []

/-- A load of an instruction that has ended its chunk and reads and takes effect in one turn: the line joins no read set
(R145, R173, R213). -/
def loadEnd (ptr : Word) (a n : Nat) : Act (List Byte) := do
  let bs ← loadBytes ptr a n (← useNow 255)
  modThr (fun t => { t with chunk := { t.chunk with rset := [] } })
  return bs

/-! ## Stores of a thread -/

/-- Distinct lines of a write set that are not mapped in the core's stash (R144). -/
def State.outside (s : State) (c : Nat) (lines : List Nat) : Nat :=
  (lines.filter (fun l => (s.stashFind c l).isNone)).length

/-- The lines of an instruction's stores are checked (R193, R223): a command window raises PROTECTION. -/
def checkStores (ptr : Word) (ranges : List (Nat × Nat)) : Act (List Where) := do
  if ← onRiddle then raise 1 0 0 0
  let (c, _) ← me
  let t ← thr
  let s ← get
  let lines := rangeLines ptr ranges
  for p in lines do
    if (s.windowLine c p.1).isSome then protRights p.2 1 (s.physOf c t.vdev (64 * p.1))
  checkLines c t.ctx t.vdev .w lines (held := true)

/-- A store's turn at a line that the stash maps (R122): an unfilled or shared entry is taken exclusively. What the home refuses
then for its frame's owner or for poison, it refuses again when the chunk commits, and the store takes it there (R131, R200,
R204). -/
def takeEntry (w : Who) (gl : Nat) (addr : Word) (wh : Where) : Act Unit := do
  let s ← get
  let take : Act Unit := match wh with
    | .unfilled i l => fillEntry (w.rq addr 1) i l true
    | .stash i _ =>
      match (s.core w.core).stash.find? i with
      | some e => if e.owner.isSome then waitLine gl else if !e.priv && !e.excl then makeExcl (w.rq addr 1) i gl else pure ()
      | none => pure ()
    | .home _ => pure ()
  match attempt take s with
  | .ok (_, s) => set s
  | .error (.trap tr logs) => if tr.cause = 8 then throw (.trap tr logs)
  | .error e => throw e

/-- Holds stores of the running thread until its chunk commits, all checked first (R122, R144, R146, R193, R364), each cut into
what falls in one line; a 65th line outside the stash ends the chunk before the instruction. -/
def holdStores (ptr : Word) (stores : List (Nat × List (Byte × Nat))) (nu : Nat) : Act Unit := do
  let w ← whoAmI (← useNow nu)
  let ranges := stores.map (fun p => (p.1, p.2.length))
  let lines := rangeLines ptr ranges
  let wheres ← checkStores ptr ranges
  for (p, wh) in lines.zip wheres do
    takeEntry w p.1 p.2 wh
  let t ← thr
  let s ← get
  let isPriv (l : Nat) : Bool := match s.stashFind w.core l with | some (_, e) => e.priv && e.st != .unfilled | none => false
  let fresh := (lines.map Prod.fst).filter (fun l => !isPriv l && !t.chunk.wset.contains l)
  if s.outside w.core (t.chunk.wset ++ fresh) > Config.chunkLines then throw .close
  for p in lines do
    match s.stashFind w.core p.1 with
    | some (i, _) => modify (fun s => s.useEntry w.core i w.ctx w.task w.use)
    | none => pure ()
  modThr (fun t => { t with chunk := { t.chunk with
    wset := t.chunk.wset ++ fresh
    held := t.chunk.held ++ stores.flatMap (fun p => (cutLines 4 p.1 p.2).map (fun q => ⟨q.1, q.2, w.use, isPriv (q.1 / 64)⟩)) } })

end Sys2Proof.Machine
end

