-- ==== Sys2Proof/Machine/Flags.lean ====
section
/-! DEFINITION. Results with their flags: integer saturation (R33, R297, R298, R345), conditions (R309), conversions
(R41, R323), float results written (R292) and the normaliser's turns (R47). -/

namespace Sys2Proof.Machine

/-- A signed result in 64 bits: modulo 2^64, or saturated with IS (R33). -/
def intResult (sat : Bool) (i : Int) : Word × Flags :=
  if sat then
    if i > 2 ^ 63 - 1 then (0x7FFF_FFFF_FFFF_FFFF, flagIS)
    else if i < -2 ^ 63 then (0x8000_0000_0000_0000, flagIS)
    else (wordOfInt i, 0)
  else (wordOfInt i, 0)

/-- A condition of CMP and CMPI (R309). -/
def condHolds (c : Cond) (a b : Word) : Bool :=
  match c with
  | .eq => a == b
  | .ne => a != b
  | .lt => a.toInt < b.toInt
  | .le => a.toInt ≤ b.toInt
  | .gt => a.toInt > b.toInt
  | .ge => a.toInt ≥ b.toInt
  | .ltu => a.toNat < b.toNat
  | .leu => a.toNat ≤ b.toNat
  | .gtu => a.toNat > b.toNat
  | .geu => a.toNat ≥ b.toNat

/-- Truncated signed division (R33, R297). -/
def divS (a b : Word) : Word :=
  if b = 0 then BitVec.allOnes 64 else wordOfInt (Int.tdiv a.toInt b.toInt)

/-- The remainder of truncated signed division (R33, R349). -/
def remS (a b : Word) : Word := if b = 0 then a else wordOfInt (Int.tmod a.toInt b.toInt)

/-- Unsigned division (R33, R297). -/
def divU (a b : Word) : Word := if b = 0 then BitVec.allOnes 64 else toW (a.toNat / b.toNat)

/-- Unsigned remainder (R33, R349). -/
def remU (a b : Word) : Word := if b = 0 then a else toW (a.toNat % b.toNat)

/-- Zero bits above the highest 1 bit (R295). -/
def clzW (a : Word) : Nat := if a = 0 then 64 else 63 - Nat.log2 a.toNat

/-- The number of 1 bits (R347). -/
def popW (a : Word) : Nat := ((List.range 64).filter (fun i => a.getLsbD i)).length

/-- Bits [w−1:0] of a register as a float operand (R292). -/
def fbitsOf (f : FloatFmt) (a : Word) : Nat := a.toNat % 2 ^ f.width

/-- A value is subnormal in its format (R47). -/
def isSubnormal (f : FloatFmt) (bits : Nat) : Bool :=
  bitsOf bits (f.width - 2) f.fbits == 0 && bits % 2 ^ f.fbits != 0

/-- The thread forfeits the normaliser's turns for its subnormal lanes (R47). -/
def normalise (f : FloatFmt) (lanes : List Nat) : Act Unit := do
  let c := (lanes.filter (isSubnormal f)).length
  if c > 0 then modThr (fun t => { t with owed := ceilDiv c 8 })

/-- Writes a float result, its flags and the normaliser's turns (R47, R291, R292). -/
def wrF (d : Reg) (f : FloatFmt) (ops : List Nat) (r : Nat × Flags) : Act Unit := do
  orFlags r.2
  wr d (toW r.1)
  normalise f (ops ++ [r.1])

/-- The integer range of a format of FCVT (R115, R322). -/
def cvtRange : CvtFmt → Int × Int
  | .i8 => (-2 ^ 7, 2 ^ 7 - 1)
  | .i16 => (-2 ^ 15, 2 ^ 15 - 1)
  | .i32 => (-2 ^ 31, 2 ^ 31 - 1)
  | .i64 => (-2 ^ 63, 2 ^ 63 - 1)
  | .u8 => (0, 2 ^ 8 - 1)
  | .u16 => (0, 2 ^ 16 - 1)
  | .u32 => (0, 2 ^ 32 - 1)
  | .u64 => (0, 2 ^ 64 - 1)
  | _ => (0, 0)

/-- The width of an integer format. -/
def cvtWidth : CvtFmt → Nat
  | .i8 | .u8 => 8
  | .i16 | .u16 => 16
  | .i32 | .u32 => 32
  | _ => 64

/-- The float format of a format code of FCVT. -/
def cvtFloat : CvtFmt → FloatFmt
  | .bf16 => .bf16
  | .fp16 => .fp16
  | .e4m3 => .e4m3
  | .e5m2 => .e5m2
  | _ => .fp32

/-- An integer source operand (R322). -/
def cvtSource (src : CvtFmt) (a : Word) : Int :=
  let n := a.toNat % 2 ^ cvtWidth src
  if (cvtRange src).1 < 0 then sintOf (cvtWidth src) n else n

/-- FCVT (R41, R322, R323). -/
def fcvt (rm : Rnd) (sat : Bool) (tgt src : CvtFmt) (a : Word) : Word × Flags :=
  if src.isInt then
    let i := cvtSource src a
    if tgt.isInt then
      let (lo, hi) := (cvtRange tgt)
      if lo ≤ i && i ≤ hi then (wordOfInt i, 0)
      else if sat then (wordOfInt (if i < lo then lo else hi), flagIS)
      else
        let n := (i % (2 ^ cvtWidth tgt : Nat)).toNat
        (if lo < 0 then wordOfInt (sintOf (cvtWidth tgt) n) else toW n, 0)
    else
      let r := roundVal (cvtFloat tgt) rm sat (intVal i)
      (toW r.1, r.2)
  else
    let bits := fbitsOf (cvtFloat src) a
    if tgt.isInt then
      let (i, f) := toInt rm (cvtRange tgt).1 (cvtRange tgt).2 (unpack (cvtFloat src) bits)
      (wordOfInt i, f)
    else
      let r := convFloat (cvtFloat tgt) (cvtFloat src) rm sat bits
      (toW r.1, r.2)

/-- The lanes of a register (R370). -/
def lanes (f : FloatFmt) (a : Word) : List Nat :=
  (List.range (64 / f.width)).map (fun i => bitsOf a.toNat (f.width * (i + 1) - 1) (f.width * i))

/-- The first greatest lane, NaN as −∞ (R370): none where every lane is NaN. -/
def argmaxIdx : List FVal → Nat → Option (Nat × FVal) → Option Nat
  | [], _, best => best.map Prod.fst
  | v :: vs, i, best =>
    if v.isNan then argmaxIdx vs (i + 1) best
    else match best with
      | none => argmaxIdx vs (i + 1) (some (i, v))
      | some (_, b) => if b.lt v then argmaxIdx vs (i + 1) (some (i, v)) else argmaxIdx vs (i + 1) best

/-- The index of the first greatest value with NaN counting as −∞, which ties with −∞ (R229, R370): none where all are
NaN. -/
def argmax (vs : List FVal) : Option Nat :=
  if vs.all FVal.isNan then none
  else
    let ws := vs.map (fun v => if v.isNan then FVal.inf true else v)
    argmaxIdx ws 0 none

end Sys2Proof.Machine
end

