-- ==== Sys2Proof/Machine/Integer.lean ====
section
/-! DEFINITION. The integer, predicate and pointer instructions, by register and by immediate (R291, R295-R298, R309, R310,
R340, R344, R345, R347, R349-R353, R356-R358). -/

namespace Sys2Proof.Machine

/-- d := f a b, with flags (R291, R297). -/
def op2 (g : Guard) (d a b : Reg) (f : Word → Word → Word × Flags) (s : State) : Host.Outcome State Fault Refusal :=
  runNext g (do
    checkFields [.dst d, .src a, .src b]
    let x ← rd a
    let y ← rd b
    let r := f x y
    orFlags r.2
    wr d r.1) s

/-- d := f a, with flags (R291, R295). -/
def op1 (g : Guard) (d a : Reg) (f : Word → Word × Flags) (s : State) : Host.Outcome State Fault Refusal :=
  runNext g (do
    checkFields [.dst d, .src a]
    let r := f (← rd a)
    orFlags r.2
    wr d r.1) s

/-- pd := f a b over predicates (R352). -/
def opP (g : Guard) (pd : BitVec 4) (f : Act Bool) (s : State) : Host.Outcome State Fault Refusal :=
  runNext g (do wrP pd (← f)) s

/-- A result without flags. -/
def plain2 (f : Word → Word → Word) (x y : Word) : Word × Flags := (f x y, 0)

/-- ADD (R297). -/
def execAdd (g : Guard) (d a b : Reg) (sat : Bool) (s : State) : Host.Outcome State Fault Refusal :=
  op2 g d a b (fun x y => if sat then intResult true (x.toInt + y.toInt) else (x + y, 0)) s

/-- SUB (R349). -/
def execSub (g : Guard) (d a b : Reg) (sat : Bool) (s : State) : Host.Outcome State Fault Refusal :=
  op2 g d a b (fun x y => if sat then intResult true (x.toInt - y.toInt) else (x - y, 0)) s

/-- MUL (R345). -/
def execMul (g : Guard) (d a b : Reg) (sat : Bool) (s : State) : Host.Outcome State Fault Refusal :=
  op2 g d a b (fun x y => if sat then intResult true (x.toInt * y.toInt) else (x * y, 0)) s

/-- MULH (R345). -/
def execMulh (g : Guard) (d a b : Reg) (s : State) : Host.Outcome State Fault Refusal :=
  op2 g d a b (plain2 fun x y => wordOfInt (floorDiv (x.toInt * y.toInt) (2 ^ 64))) s

/-- MULHU (R345). -/
def execMulhu (g : Guard) (d a b : Reg) (s : State) : Host.Outcome State Fault Refusal :=
  op2 g d a b (plain2 fun x y => toW (x.toNat * y.toNat / 2 ^ 64)) s

/-- DIV (R297). -/
def execDiv (g : Guard) (d a b : Reg) (s : State) : Host.Outcome State Fault Refusal := op2 g d a b (plain2 divS) s

/-- DIVU (R297). -/
def execDivu (g : Guard) (d a b : Reg) (s : State) : Host.Outcome State Fault Refusal := op2 g d a b (plain2 divU) s

/-- REM (R349). -/
def execRem (g : Guard) (d a b : Reg) (s : State) : Host.Outcome State Fault Refusal := op2 g d a b (plain2 remS) s

/-- REMU (R349). -/
def execRemu (g : Guard) (d a b : Reg) (s : State) : Host.Outcome State Fault Refusal := op2 g d a b (plain2 remU) s

/-- AND (R297). -/
def execAnd (g : Guard) (d a b : Reg) (s : State) : Host.Outcome State Fault Refusal :=
  op2 g d a b (plain2 fun x y => x &&& y) s

/-- OR (R349). -/
def execOr (g : Guard) (d a b : Reg) (s : State) : Host.Outcome State Fault Refusal :=
  op2 g d a b (plain2 fun x y => x ||| y) s

/-- XOR (R349). -/
def execXor (g : Guard) (d a b : Reg) (s : State) : Host.Outcome State Fault Refusal :=
  op2 g d a b (plain2 fun x y => x ^^^ y) s

/-- ANDN (R297). -/
def execAndn (g : Guard) (d a b : Reg) (s : State) : Host.Outcome State Fault Refusal :=
  op2 g d a b (plain2 fun x y => x &&& ~~~y) s

/-- A shift's count (R356). -/
def shiftCount (y : Word) : Nat := y.toNat % 64

/-- SHL (R356). -/
def execShl (g : Guard) (d a b : Reg) (s : State) : Host.Outcome State Fault Refusal :=
  op2 g d a b (plain2 fun x y => x <<< shiftCount y) s

/-- SHR (R356). -/
def execShr (g : Guard) (d a b : Reg) (s : State) : Host.Outcome State Fault Refusal :=
  op2 g d a b (plain2 fun x y => x >>> shiftCount y) s

/-- SAR (R356). -/
def execSar (g : Guard) (d a b : Reg) (s : State) : Host.Outcome State Fault Refusal :=
  op2 g d a b (plain2 fun x y => x.sshiftRight (shiftCount y)) s

/-- ROL (R356). -/
def execRol (g : Guard) (d a b : Reg) (s : State) : Host.Outcome State Fault Refusal :=
  op2 g d a b (plain2 fun x y => x.rotateLeft (shiftCount y)) s

/-- ROR (R356). -/
def execRor (g : Guard) (d a b : Reg) (s : State) : Host.Outcome State Fault Refusal :=
  op2 g d a b (plain2 fun x y => x.rotateRight (shiftCount y)) s

/-- MIN (R340). -/
def execMin (g : Guard) (d a b : Reg) (s : State) : Host.Outcome State Fault Refusal :=
  op2 g d a b (plain2 fun x y => if y.toInt < x.toInt then y else x) s

/-- MAX (R340). -/
def execMax (g : Guard) (d a b : Reg) (s : State) : Host.Outcome State Fault Refusal :=
  op2 g d a b (plain2 fun x y => if x.toInt < y.toInt then y else x) s

/-- MINU (R340). -/
def execMinu (g : Guard) (d a b : Reg) (s : State) : Host.Outcome State Fault Refusal :=
  op2 g d a b (plain2 fun x y => if y.toNat < x.toNat then y else x) s

/-- MAXU (R340). -/
def execMaxu (g : Guard) (d a b : Reg) (s : State) : Host.Outcome State Fault Refusal :=
  op2 g d a b (plain2 fun x y => if x.toNat < y.toNat then y else x) s

/-- NEG (R347). -/
def execNeg (g : Guard) (d a : Reg) (sat : Bool) (s : State) : Host.Outcome State Fault Refusal :=
  op1 g d a (fun x => intResult sat (-x.toInt)) s

/-- ABS (R295). -/
def execAbs (g : Guard) (d a : Reg) (sat : Bool) (s : State) : Host.Outcome State Fault Refusal :=
  op1 g d a (fun x => intResult sat (x.toInt.natAbs : Int)) s

/-- CLZ (R295). -/
def execClz (g : Guard) (d a : Reg) (s : State) : Host.Outcome State Fault Refusal :=
  op1 g d a (fun x => (toW (clzW x), 0)) s

/-- POPC (R347). -/
def execPopc (g : Guard) (d a : Reg) (s : State) : Host.Outcome State Fault Refusal :=
  op1 g d a (fun x => (toW (popW x), 0)) s

/-- SEL: both sources are read (R358). -/
def execSel (g : Guard) (d : Reg) (k : BitVec 4) (a b : Reg) (s : State) : Host.Outcome State Fault Refusal :=
  runNext g (do
    checkFields [.dst d, .src a, .src b]
    let x ← rd a
    let y ← rd b
    wr d (if ← rdP k then x else y)) s

/-- CMP (R309). -/
def execCmp (g : Guard) (pd : BitVec 4) (c : Cond) (a b : Reg) (s : State) : Host.Outcome State Fault Refusal :=
  runNext g (do
    checkFields [.src a, .src b]
    let x ← rd a
    let y ← rd b
    wrP pd (condHolds c x y)) s

/-- MOV (R344). -/
def execMov (g : Guard) (d a : Reg) (s : State) : Host.Outcome State Fault Refusal := op1 g d a (fun x => (x, 0)) s

/-- PAND (R352). -/
def execPand (g : Guard) (pd pa pb : BitVec 4) (s : State) : Host.Outcome State Fault Refusal :=
  opP g pd (do return (← rdP pa) && (← rdP pb)) s

/-- POR (R352). -/
def execPor (g : Guard) (pd pa pb : BitVec 4) (s : State) : Host.Outcome State Fault Refusal :=
  opP g pd (do
    let x ← rdP pa
    let y ← rdP pb
    return x || y) s

/-- PXOR (R352). -/
def execPxor (g : Guard) (pd pa pb : BitVec 4) (s : State) : Host.Outcome State Fault Refusal :=
  opP g pd (do return (← rdP pa) != (← rdP pb)) s

/-- PNOT (R352). -/
def execPnot (g : Guard) (pd pa : BitVec 4) (s : State) : Host.Outcome State Fault Refusal :=
  opP g pd (do return !(← rdP pa)) s

/-- PMOV (R352). -/
def execPmov (g : Guard) (pd pa : BitVec 4) (s : State) : Host.Outcome State Fault Refusal := opP g pd (rdP pa) s

/-- ADDI (R298). -/
def execAddi (g : Guard) (d a : Reg) (imm : BitVec 32) (sat : Bool) (s : State) : Host.Outcome State Fault Refusal :=
  op1 g d a (fun x => if sat then intResult true (x.toInt + imm.toInt) else (x + sext32 imm, 0)) s

/-- ANDI (R298). -/
def execAndi (g : Guard) (d a : Reg) (imm : BitVec 32) (s : State) : Host.Outcome State Fault Refusal :=
  op1 g d a (fun x => (x &&& sext32 imm, 0)) s

/-- ORI (R350). -/
def execOri (g : Guard) (d a : Reg) (imm : BitVec 32) (s : State) : Host.Outcome State Fault Refusal :=
  op1 g d a (fun x => (x ||| sext32 imm, 0)) s

/-- XORI (R350). -/
def execXori (g : Guard) (d a : Reg) (imm : BitVec 32) (s : State) : Host.Outcome State Fault Refusal :=
  op1 g d a (fun x => (x ^^^ sext32 imm, 0)) s

/-- SHLI (R357). -/
def execShli (g : Guard) (d a : Reg) (n : BitVec 6) (s : State) : Host.Outcome State Fault Refusal :=
  op1 g d a (fun x => (x <<< n.toNat, 0)) s

/-- SHRI (R357). -/
def execShri (g : Guard) (d a : Reg) (n : BitVec 6) (s : State) : Host.Outcome State Fault Refusal :=
  op1 g d a (fun x => (x >>> n.toNat, 0)) s

/-- SARI (R357). -/
def execSari (g : Guard) (d a : Reg) (n : BitVec 6) (s : State) : Host.Outcome State Fault Refusal :=
  op1 g d a (fun x => (x.sshiftRight n.toNat, 0)) s

/-- CMPI (R309). -/
def execCmpi (g : Guard) (pd : BitVec 4) (c : Cond) (a : Reg) (imm : BitVec 32) (s : State) :
    Host.Outcome State Fault Refusal :=
  runNext g (do
    checkFields [.src a]
    wrP pd (condHolds c (← rd a) (sext32 imm))) s

/-- MOVI (R344). -/
def execMovi (g : Guard) (d : Reg) (imm : BitVec 32) (s : State) : Host.Outcome State Fault Refusal :=
  runNext g (do
    checkFields [.dst d]
    wr d (sext32 imm)) s

/-- MOVHI reads its own destination, which is no port (R344). -/
def execMovhi (g : Guard) (d : Reg) (imm : BitVec 32) (s : State) : Host.Outcome State Fault Refusal :=
  runNext g (do
    checkFields [.noPort d]
    let x ← rd d
    wr d (imm ++ x.extractLsb' 0 32)) s

/-- PADD by a count (R51, R351). -/
def paddBy (p : Word) (k : Int) : Act Word :=
  match padd p k with
  | .ok r => pure r
  | .ptrFormat => raise 5 p 0 0
  | .misalign => misalign p

/-- PADD with a register count (R351). -/
def execPaddReg (g : Guard) (d a b : Reg) (s : State) : Host.Outcome State Fault Refusal :=
  runNext g (do
    checkFields [.dst d, .src a, .src b]
    let p ← rd a
    let k ← rd b
    wr d (← paddBy p k.toInt)) s

/-- PADD with an immediate count (R351). -/
def execPaddImm (g : Guard) (d a : Reg) (imm : BitVec 32) (s : State) : Host.Outcome State Fault Refusal :=
  runNext g (do
    checkFields [.dst d, .src a]
    wr d (← paddBy (← rd a) imm.toInt)) s

/-- PFMT: a code in 16-31 raises ILLEGAL_OPERAND (R353). -/
def execPfmt (g : Guard) (d a : Reg) (code : BitVec 5) (l : BitVec 4) (s : State) : Host.Outcome State Fault Refusal :=
  runNext g (do
    checkFields [.dst d, .src a, .num code.toNat 16]
    let x ← rd a
    wr d (mkPtr code.toNat l.toNat (ptrAddr x))) s

/-- PTAG (R353). -/
def execPtag (g : Guard) (d a : Reg) (s : State) : Host.Outcome State Fault Refusal :=
  op1 g d a (fun x => (toW (ptrFmt x + ptrL x * 256), 0)) s

/-- A continuation id (R71). -/
def contId (core slot reg gen : Nat) : Word :=
  BitVec.ofNat 64 (core % 2 ^ 20 * 2 ^ 44 + slot % 64 * 2 ^ 38 + reg % 128 * 2 ^ 31 + gen % 2 ^ 15 * 2 ^ 16)

/-- CONTID (R310): on the riddle it raises ILLEGAL_OP. -/
def execContid (g : Guard) (d : Reg) (n : BitVec 8) (s : State) : Host.Outcome State Fault Refusal :=
  runNext g (do
    if ← onRiddle then raise 1 0 0 0
    checkFields [.dst d, .num n.toNat 128]
    let (c, i) ← me
    wr d (contId c (i % 64) n.toNat ((← get).gen c i).toNat)) s

end Sys2Proof.Machine
end

