-- ==== Sys2Proof/Machine/Float.lean ====
section
/-! DEFINITION. The scalar, packed and block float instructions (R300-R303, R317-R324, R370). -/

namespace Sys2Proof.Machine

/-- A float operation of two operands (R318). -/
def fop2 (g : Guard) (d a b : Reg) (f : FloatFmt) (op : Nat → Nat → Nat × Flags) (s : State) :
    Host.Outcome State Fault Refusal :=
  runNext g (do
    checkFields [.dst d, .src a, .src b]
    let x := fbitsOf f (← rd a)
    let y := fbitsOf f (← rd b)
    wrF d f [x, y] (op x y)) s

/-- A float operation of one operand (R317). -/
def fop1 (g : Guard) (d a : Reg) (f : FloatFmt) (op : Nat → Nat × Flags) (s : State) : Host.Outcome State Fault Refusal :=
  runNext g (do
    checkFields [.dst d, .src a]
    let x := fbitsOf f (← rd a)
    wrF d f [x] (op x)) s

/-- FADD (R318). -/
def execFadd (g : Guard) (d a b : Reg) (m : FMod) (s : State) : Host.Outcome State Fault Refusal :=
  fop2 g d a b (ffFmt m.ff) (fadd (ffFmt m.ff) m.rnd m.sat) s

/-- FSUB (R318). -/
def execFsub (g : Guard) (d a b : Reg) (m : FMod) (s : State) : Host.Outcome State Fault Refusal :=
  fop2 g d a b (ffFmt m.ff) (fsub (ffFmt m.ff) m.rnd m.sat) s

/-- FMUL (R318). -/
def execFmul (g : Guard) (d a b : Reg) (m : FMod) (s : State) : Host.Outcome State Fault Refusal :=
  fop2 g d a b (ffFmt m.ff) (fmul (ffFmt m.ff) m.rnd m.sat) s

/-- FDIV (R318). -/
def execFdiv (g : Guard) (d a b : Reg) (m : FMod) (s : State) : Host.Outcome State Fault Refusal :=
  fop2 g d a b (ffFmt m.ff) (fdiv (ffFmt m.ff) m.rnd m.sat) s

/-- FSQRT (R317). -/
def execFsqrt (g : Guard) (d a : Reg) (m : FMod) (s : State) : Host.Outcome State Fault Refusal :=
  fop1 g d a (ffFmt m.ff) (fsqrt (ffFmt m.ff) m.rnd m.sat) s

/-- FMA: one rounding (R324). -/
def execFma (g : Guard) (d a b c : Reg) (m : FMod) (s : State) : Host.Outcome State Fault Refusal :=
  runNext g (do
    checkFields [.dst d, .src a, .src b, .src c]
    let f := ffFmt m.ff
    let x := fbitsOf f (← rd a)
    let y := fbitsOf f (← rd b)
    let z := fbitsOf f (← rd c)
    wrF d f [x, y, z] (ffma f m.rnd m.sat x y z)) s

/-- FPMA: FMA on each FP32 lane (R324). -/
def execFpma (g : Guard) (d a b c : Reg) (r : RMod) (s : State) : Host.Outcome State Fault Refusal :=
  runNext g (do
    checkFields [.dst d, .src a, .src b, .src c]
    let x ← rd a
    let y ← rd b
    let z ← rd c
    let lo := ffma .fp32 r.rnd r.sat (field x 31 0) (field y 31 0) (field z 31 0)
    let hi := ffma .fp32 r.rnd r.sat (field x 63 32) (field y 63 32) (field z 63 32)
    orFlags (lo.2 ||| hi.2)
    wr d (toW (lo.1 + hi.1 * 2 ^ 32))
    normalise .fp32 (lanes .fp32 x ++ lanes .fp32 y ++ lanes .fp32 z ++ [lo.1, hi.1])) s

/-- FMIN (R319). -/
def execFmin (g : Guard) (d a b : Reg) (f : FF) (s : State) : Host.Outcome State Fault Refusal :=
  fop2 g d a b (ffFmt f) (fminmax (ffFmt f) false) s

/-- FMAX (R319). -/
def execFmax (g : Guard) (d a b : Reg) (f : FF) (s : State) : Host.Outcome State Fault Refusal :=
  fop2 g d a b (ffFmt f) (fminmax (ffFmt f) true) s

/-- The operand with a sign, a NaN canonical (R317). -/
def signed (f : FloatFmt) (neg : Bool) (x : Nat) : Nat × Flags :=
  let v := unpack f x
  if v.isNan then (f.qnan, if v.isSig then flagNV else 0)
  else (x % 2 ^ (f.width - 1) + if neg then 2 ^ (f.width - 1) else 0, 0)

/-- FABS (R317). -/
def execFabs (g : Guard) (d a : Reg) (f : FF) (s : State) : Host.Outcome State Fault Refusal :=
  fop1 g d a (ffFmt f) (signed (ffFmt f) false) s

/-- FNEG (R317). -/
def execFneg (g : Guard) (d a : Reg) (f : FF) (s : State) : Host.Outcome State Fault Refusal :=
  fop1 g d a (ffFmt f) (fun x => signed (ffFmt f) (!bitOf x ((ffFmt f).width - 1)) x) s

/-- FCMP (R321). -/
def execFcmp (g : Guard) (pd : BitVec 4) (c : FCond) (f : FF) (a b : Reg) (s : State) : Host.Outcome State Fault Refusal :=
  runNext g (do
    checkFields [.src a, .src b]
    let x := fbitsOf (ffFmt f) (← rd a)
    let y := fbitsOf (ffFmt f) (← rd b)
    let r := fcmp c (ffFmt f) x y
    orFlags r.2
    wrP pd r.1
    normalise (ffFmt f) [x, y]) s

/-- FCVT (R322, R323). -/
def execFcvt (g : Guard) (d a : Reg) (r : RMod) (tgt src : CvtFmt) (s : State) : Host.Outcome State Fault Refusal :=
  runNext g (do
    checkFields [.dst d, .src a]
    let x ← rd a
    let v := fcvt r.rnd r.sat tgt src x
    orFlags v.2
    wr d v.1
    let n := (if !src.isInt && isSubnormal (cvtFloat src) (fbitsOf (cvtFloat src) x) then 1 else 0) +
      (if !tgt.isInt && isSubnormal (cvtFloat tgt) (fbitsOf (cvtFloat tgt) v.1) then 1 else 0)
    if n > 0 then modThr (fun t => { t with owed := 1 })) s

/-- FCLASS (R320). -/
def execFclass (g : Guard) (d a : Reg) (f : FF) (s : State) : Host.Outcome State Fault Refusal :=
  runNext g (do
    checkFields [.dst d, .src a]
    let x := fbitsOf (ffFmt f) (← rd a)
    wr d (toW (fclass (ffFmt f) x))
    normalise (ffFmt f) [x]) s

/-! ## Blocks -/

/-- A block's place in memory: the byte of its first element and of its exponent pair (R300). -/
structure BlockAt where
  fp8 : Bool
  elems : Nat
  exps : Nat
  deriving DecidableEq, Repr

/-- The checks of a block pointer, in groups that R203 ranks: format, kind, alignment (R300). -/
def blockFmt (p : Word) : Act Unit := do
  if ptrFormatBad (ptrFmt p) (ptrL p) then raise 5 p 0 0

/-- A block pointer has format 6 or 7 (R300). -/
def blockKind (p : Word) : Act Unit := do
  if ptrFmt p ≠ 6 && ptrFmt p ≠ 7 then raise 2 (toW (ptrFmt p)) 0 0

/-- A block pointer names element 0 of a block (R300). -/
def blockPlace (p : Word) : Act BlockAt := do
  match bfpPlace (ptrFmt p == 6) (ptrL p) (ptrAddr p) with
  | some b =>
    if b.j % 32 ≠ 0 then misalign p
    return ⟨ptrFmt p == 6, b.byte, b.e0⟩
  | none => misalign p

/-- The byte ranges of a block. -/
def BlockAt.ranges (b : BlockAt) : List (Nat × Nat) := [(b.elems, if b.fp8 then 32 else 16), (b.exps, 2)]

/-- The codes of a block's elements from its bytes. -/
def blockCodes (fp8 : Bool) (bs : List Byte) : List Nat :=
  if fp8 then bs.map BitVec.toNat else bs.flatMap (fun b => [b.toNat % 16, b.toNat / 16])

/-- The values of a block's elements (R35, R37). -/
def blockVals (fp8 : Bool) (elems exps : List Byte) : List FVal :=
  (blockCodes fp8 elems).map (fun c => bfpVal fp8 c (exps.getD (if bfpSel fp8 c then 1 else 0) 0).toNat)

/-- Whole lines of a block's ranges, for the checks. -/
def blockLines (p : Word) (rs : List (Nat × Nat)) : List (Nat × Word) := rangeLines p rs

/-- BDOT (R301). -/
def execBdot (g : Guard) (d a b : Reg) (r : RMod) (s : State) : Host.Outcome State Fault Refusal :=
  runNext g (do
    checkFields [.dst d, .src a, .src b]
    let x ← rd a
    let y ← rd b
    blockFmt x
    blockFmt y
    blockKind x
    blockKind y
    let p ← blockPlace x
    let q ← blockPlace y
    let bs ← loadSpans (p.ranges.map (fun r => (x, r)) ++ q.ranges.map (fun r => (y, r))) (← useNow 255)
    let xs := blockVals p.fp8 (bs.getD 0 []) (bs.getD 1 [])
    let ys := blockVals q.fp8 (bs.getD 2 []) (bs.getD 3 [])
    let sum := exactSum false ((xs.zip ys).map (fun t => (mulVal t.1 t.2).1))
    let v := roundVal .fp32 r.rnd r.sat sum.1
    wrF d .fp32 [] v) s

/-- A pointer's format and alignment for a plain element array (R302, R303). -/
def arrayAlign (p : Word) (size : Nat) : Act Unit := do
  if ptrAddr p % size ≠ 0 then misalign p

/-- The format code of a float format. -/
def ffCode : FF → Nat
  | .fp32 => 1 | .bf16 => 2 | .fp16 => 3

/-- The lines that an instruction reads and those that it stores to, checked together before any is read (R203, R302,
R303); a store into the command window is PROTECTION, and a load from it is served at the core (R223). -/
def checkMoves (src : Word) (from_ : List (Nat × Nat)) (dst : Word) (onto : List (Nat × Nat)) : Act Unit := do
  let w ← whoAmI (← useNow 255)
  let s ← get
  let inWin (p : Nat × Word) : Bool := (s.windowLine w.core p.1).isSome
  for p in rangeLines dst onto do
    if inWin p then protRights p.2 1 (s.physOf w.core w.vdev (64 * p.1))
  discard (checkAll w.core w.ctx w.vdev
    (((rangeLines src from_).filter (fun p => !inWin p)).map (fun p => ⟨.r, p.1, p.2, false⟩) ++
     (rangeLines dst onto).map (fun p => ⟨.w, p.1, p.2, false⟩)) true)

/-- BDQ (R302): every source and destination line is checked before any is read. -/
def execBdq (g : Guard) (d a : Reg) (m : FMod) (s : State) : Host.Outcome State Fault Refusal :=
  runNext g (do
    checkFields [.base d, .src a]
    let dst ← rd d
    let src ← rd a
    blockFmt dst
    blockFmt src
    if ptrFmt dst ≠ 0 && ptrFmt dst ≠ ffCode m.ff then raise 2 (toW (ptrFmt dst)) 0 0
    blockKind src
    let f := ffFmt m.ff
    let size := f.width / 8
    arrayAlign dst size
    let p ← blockPlace src
    checkMoves src p.ranges dst [(ptrAddr dst, 32 * size)]
    let bs ← loadRanges src p.ranges (← useNow 255)
    let rs := (blockVals p.fp8 (bs.getD 0 []) (bs.getD 1 [])).map (roundVal f m.rnd m.sat)
    holdStores dst [(ptrAddr dst, whole (rs.flatMap (fun r => leBytes size r.1)))] 255
    orFlags (rs.foldl (fun a r => a ||| r.2) 0)
    normalise f (rs.map Prod.fst)) s

/-- The bytes of a block's element codes. -/
def packCodes (fp8 : Bool) : List Nat → List Byte
  | [] => []
  | [a] => [BitVec.ofNat 8 a]
  | a :: b :: t =>
    if fp8 then BitVec.ofNat 8 a :: BitVec.ofNat 8 b :: packCodes fp8 t
    else BitVec.ofNat 8 (a % 16 + b % 16 * 16) :: packCodes fp8 t

/-- BQNT (R38, R303). -/
def execBqnt (g : Guard) (d a : Reg) (spread : BitVec 4) (s : State) : Host.Outcome State Fault Refusal :=
  runNext g (do
    checkFields [.base d, .src a]
    let dst ← rd d
    let src ← rd a
    blockFmt dst
    blockFmt src
    blockKind dst
    let fc := ptrFmt src
    if fc = 0 || fc > 5 then raise 2 (toW fc) 0 0
    let f := codeFmt fc
    let size := elemSize fc
    let p ← blockPlace dst
    arrayAlign src size
    checkMoves src [(ptrAddr src, 32 * size)] dst p.ranges
    let bs ← loadBytes src (ptrAddr src) (32 * size) (← useNow 255)
    let bits := (List.range 32).map (fun i => leNat (slice bs (size * i) size))
    let q := quantise p.fp8 spread.toNat f (bits.map (unpack f))
    holdStores dst [(p.elems, whole (packCodes p.fp8 q.elems)),
      (p.exps, whole [BitVec.ofNat 8 q.e0, BitVec.ofNat 8 q.e1])] 255
    orFlags q.flags
    if fc ≤ 3 then normalise f bits) s

/-! ## Lanes -/

/-- VARGMAX (R370). -/
def execVargmax (g : Guard) (d a b : Reg) (f : FF) (s : State) : Host.Outcome State Fault Refusal :=
  runNext g (do
    checkFields [.dst d, .src a, .src b]
    let x ← rd a
    let y ← rd b
    let ls := lanes (ffFmt f) x ++ lanes (ffFmt f) y
    let vs := ls.map (unpack (ffFmt f))
    orFlags (if vs.any FVal.isSig then flagNV else 0)
    wr d (match argmax vs with | some i => toW i | none => BitVec.allOnes 64)
    normalise (ffFmt f) ls) s

/-- VPERM (R370). -/
def execVperm (g : Guard) (d a b : Reg) (f : FF) (s : State) : Host.Outcome State Fault Refusal :=
  op2 g d a b (plain2 fun x y =>
    let w := (ffFmt f).width
    let n := 64 / w
    toW ((List.range n).foldl (fun acc i =>
      let k := bitsOf y.toNat (4 * i + 2) (4 * i)
      acc + (if !bitOf y.toNat (4 * i + 3) && k < n then bitsOf x.toNat (w * (k + 1) - 1) (w * k) * 2 ^ (w * i) else 0)) 0)) s

/-- VSUM (R370). -/
def execVsum (g : Guard) (d a b : Reg) (m : FMod) (s : State) : Host.Outcome State Fault Refusal :=
  runNext g (do
    checkFields [.dst d, .src a, .src b]
    let f := ffFmt m.ff
    let x ← rd a
    let y ← rd b
    let ls := lanes f x ++ lanes f y
    wrF d f ls (sumRound f m.rnd m.sat (ls.map (unpack f)))) s

end Sys2Proof.Machine
end

