-- ==== Sys2Proof/Machine/Control.lean ====
section
/-! DEFINITION. Control and system instructions: transfers (R104, R304, R305, R332, R339), chunks, fences and fetch
(R145, R154-R157), traps, returns and ends (R207, R316, R367-R369, R373), halts (R328, R329), clocks and CSRs (R81, R136,
R311-R314), masks and pins (R194). -/

namespace Sys2Proof.Machine

/-- The head of an instruction, ILLEGAL_OP's detail 1 (R202). -/
def headValue (i : Instr) : Word := toW ((encode i).map Prod.fst |>.getD 0)

/-- An instruction that has no meaning on the riddle: it ends the landing handler's copy (notes/assumptions/11.md). -/
def notOnRiddle (i : Instr) : Act Unit := do
  if ← onRiddle then raise 1 (headValue i) 0 0

/-- NOP (R348). -/
def execNop (g : Guard) (s : State) : Host.Outcome State Fault Refusal := runNext g (pure ()) s

/-- A branch's target (R304). -/
def branchTo (off : BitVec 32) : Act Unit := do
  goto ((← thr).pc + off.signExtend 55)

/-- BR (R304). -/
def execBr (g : Guard) (off : BitVec 32) (s : State) : Host.Outcome State Fault Refusal := runNext g (branchTo off) s

/-- BRL (R305). -/
def execBrl (g : Guard) (d : Reg) (off : BitVec 32) (s : State) : Host.Outcome State Fault Refusal :=
  runNext g (do
    checkFields [.dst d]
    wr d (codePtr (← nextPc))
    branchTo off) s

/-- The checks of a transfer through a register (R104): its format and an odd address. -/
def jumpTarget (p : Word) : Act Pc := do
  if ptrFmt p ≠ 0 && ptrFmt p ≠ 15 then raise 5 p 0 0
  if ptrAddr p % 2 = 1 then misalign p
  return BitVec.ofNat 55 (ptrAddr p)

/-- JMP (R332). -/
def execJmp (g : Guard) (a : Reg) (s : State) : Host.Outcome State Fault Refusal :=
  runNext g (do
    checkFields [.src a]
    goto (← jumpTarget (← rd a))) s

/-- JMPL reads xa before it writes xd (R332). -/
def execJmpl (g : Guard) (d a : Reg) (s : State) : Host.Outcome State Fault Refusal :=
  runNext g (do
    checkFields [.dst d, .src a]
    let pc ← jumpTarget (← rd a)
    wr d (codePtr (← nextPc))
    goto pc) s

/-- LOOP (R339). -/
def execLoop (g : Guard) (d : Reg) (off : BitVec 32) (s : State) : Host.Outcome State Fault Refusal :=
  runNext g (do
    checkFields [.win d]
    let x := (← rd d) - 1
    wr d x
    if x ≠ 0 then branchTo off) s

/-- CHUNK (R157). -/
def execChunk (g : Guard) (s : State) : Host.Outcome State Fault Refusal := runNext g endChunk s

/-! ## Fences -/

/-- A target core lies inside a scope of the issuing thread (R154). -/
def State.inScope (s : State) (sc : Scope) (c t : Nat) : Bool :=
  match sc with
  | .thread => false
  | .core => t == c
  | .plot => plotOf t == plotOf c
  | .stack => t / 65536 == c / 65536
  | .part => s.samePart c t
  | .module | .sys => true

/-- The core at which a packet of a thread is to be accepted: a Gaussian delivery on its way back has been sent to its record's
core (R154, R255). -/
def Packet.target : Packet → Nat
  | .mail _ m => if m.kind = 4 then m.src else 2 ^ 20
  | p => p.dst

/-- A packet that a thread has sent, wherever it has gone since, to a target inside a scope of the issuing core has not been
accepted yet (R154, R255). -/
def State.unaccepted (s : State) (sc : Scope) (c id : Nat) : Bool :=
  s.wire.any (fun f => f.thread == id && s.inScope sc c f.pkt.target) ||
  s.cores.any (fun p => s.inScope sc c p.1 && p.2.gauss.any (fun w => match w with
    | .delivery d => d.thread == id
    | .command _ => false))

/-- The dirty private entries of a context. -/
def State.privates (s : State) (c x : Nat) : List (Nat × Entry) :=
  (s.core c).stash.filter (fun p => p.2.ctx == x && p.2.priv && p.2.st == .dirty)

/-- Their lines. -/
def State.privateLines (s : State) (c x : Nat) : List Nat := (s.privates c x).map (fun p => p.2.line)

/-- Writes back every dirty private entry of a context (R154). -/
def State.flushPrivate (s : State) (c x : Nat) : Option State :=
  (s.privates c x).foldl (fun s p => s.bind (fun s => s.writeBack c p.1)) (some s)

/-- FENCE (R154): no Ultra Ethernet operation is issued on a context's behalf in this model but launch completions
(notes/assumptions/19.md), so `.sys` waits as `.module` does. -/
def execFence (g : Guard) (sc : Scope) (s : State) : Host.Outcome State Fault Refusal :=
  runNext g (do
    endChunk
    let (c, _) ← me
    let t ← thr
    if (← get).unaccepted sc c t.id then waitTurn
    match sc with
    | .thread | .core => pure ()
    | _ => orWait (fun s => s.flushPrivate c t.ctx) (.lines ((← get).privateLines c t.ctx))) s

/-- IFENCE (R157). -/
def execIfence (g : Guard) (s : State) : Host.Outcome State Fault Refusal :=
  runNext g (do
    endChunk
    modThr (fun t => { t with fetch := [] })) s

/-- The operands that SMAP, SWB, SDROP and FLUSHI share (R124): the first line and the count. -/
def rangeArgs (p n : Word) : Act (Nat × Nat) := do
  if n.toNat > 512 then raise 2 n 0 0
  if ptrFormatBad (ptrFmt p) (ptrL p) || ptrFmt p = 7 then raise 5 p 0 0
  if ptrAddr p % 64 ≠ 0 then misalign p
  return (ptrAddr p / 64, n.toNat)

/-- The lines of a range in ascending order, modulo the address space. -/
def rangeOf (gl n : Nat) : List Nat := (List.range n).map (fun k => (gl + k) % 2 ^ 49)

/-- The running context may act on an entry: it owns it, or has the write right on its line's domain, which an entry that
holds no data takes from the page (R124, R193). -/
def State.mayAct (s : State) (c x : Nat) (e : Entry) : Bool :=
  e.ctx == x ||
  (if e.st = .unfilled then
    match s.translate c (s.ctx c x).vdev (64 * e.line) with
    | .ok l => (s.rights c x l.domain).getLsbD 1
    | _ => false
  else (s.rights c x e.domain).getLsbD 1)

/-- Acts on the mapped entries of a range that the context may act on, waiting for an engine that owns one (R124). -/
def eachEntry (lines : List Nat) (f : Nat → Nat → Act Unit) : Act Unit := do
  let (c, _) ← me
  let t ← thr
  for gl in lines do
    let s ← get
    match s.stashFind c gl with
    | some (i, e) =>
      if s.mayAct c t.ctx e then
        if e.owner.isSome then waitLine gl
        match attempt (f c i) s with
        | .ok (_, s) => set s
        | .error (.wait _) => waitLine gl
        | .error x => throw x
    | none => pure ()

/-- FLUSHI (R157). -/
def execFlushi (g : Guard) (a b : Reg) (s : State) : Host.Outcome State Fault Refusal :=
  runNext g (do
    checkFields [.src a, .src b]
    let p ← rd a
    let n ← rd b
    let (gl, k) ← rangeArgs p n
    endChunk
    eachEntry (rangeOf gl k) (fun c i => orWait (fun s => s.writeBack c i))
    modThr (fun t => { t with fetch := t.fetch.filter (fun f => !(rangeOf gl k).contains f.line) })) s

/-! ## Traps, returns and ends -/

/-- TRAP raises SOFT (R368): the thread goes on after it, at UHV. -/
def execTrap (g : Guard) (n : BitVec 16) (s : State) : Host.Outcome State Fault Refusal :=
  runInstr g (do
    notOnRiddle (.trap g n)
    endChunk
    let (c, i) ← me
    let t ← thr
    if t.handler || (← myCtx).uhv = 0 then
      modify (fun s => s.endThread c i (some 17))
      return .stay
    modify (fun s => s.wantHandler c i ⟨17, false, n.setWidth 64, 0, 0, false⟩)
    return .next) s

/-- URET (R369): RETURN FROM EXCEPTION. -/
def execUret (g : Guard) (s : State) : Host.Outcome State Fault Refusal :=
  runNext g (do
    if !(← thr).handler then raise 1 (headValue (.uret g)) 0 0
    endChunk
    let (c, i) ← me
    let (s, pc) := (← get).leaveHandler c i
    set s
    goto pc) s

/-- ERET resumes a fibre from its save area (R207, R315). -/
def execEret (g : Guard) (s : State) : Host.Outcome State Fault Refusal :=
  runNext g (do
    let t ← thr
    if t.handler then raise 1 (headValue (.eret g)) 0 0
    notOnRiddle (.eret g)
    let a := field t.fsave 54 6 * 64
    let u ← useNow 255
    let ws := leWords (← loadBytes (toW a) a 16 u) 2
    let pcw := ws.getD 0 0
    let st := ws.getD 1 0
    let size := field st 23 16
    if size > t.size then raise 3 (toW t.size) (toW t.size) 0
    if ptrFmt pcw ≠ 0 && ptrFmt pcw ≠ 15 then raise 5 pcw 0 0
    if ptrAddr pcw % 2 = 1 then misalign pcw
    let regs := leWords (← loadBytes (toW (a + 64)) ((a + 64) % 2 ^ 55) (8 * size) u) size
    let (c, _) ← me
    modify (fun s => s.setRegs c t.base regs)
    modThr (fun t => { t with
      preds := BitVec.ofNat 16 (st.toNat % 2 ^ 16) ||| 1
      flags := BitVec.ofNat 6 (field st 37 32)
      fsave := t.fsave ||| 1 })
    goto (BitVec.ofNat 55 (ptrAddr pcw))) s

/-- EXIT (R316). -/
def execExit (g : Guard) (s : State) : Host.Outcome State Fault Refusal :=
  runInstr g (do
    notOnRiddle (.exit g)
    endChunk
    let (c, i) ← me
    modify (fun s => s.endThread c i none)
    return .stay) s

/-- Lines of spill space are written to DRAM or read from it on an owner's behalf (R63, R69, R261, R275). -/
def State.spillDram (s : State) (c : Nat) (v : VDev) (lines : Nat) : State := s.dram c v (64 * lines)

/-- Entries beyond 64 return to the queue in arrival order as entries leave it (R63). -/
def State.unspill (s : State) (c : Nat) : State :=
  let k := s.core c
  let n := 64 - k.queue.length
  (k.spill.take n).foldl (fun s r => s.spillDram c r.vdev 1)
    (s.setCore c { k with queue := k.queue ++ k.spill.take n, spill := k.spill.drop n })

/-- Discards the SPAWN records of a task that wait, lowering its count by one for each; entries beyond 64 take their places
(R63, R367). -/
def State.dropSpawns (s : State) (c task : Nat) : State :=
  let mine (r : TaskRec) : Bool := r.task == some task
  let n := (((s.core c).queue ++ (s.core c).spill).filter mine).length
  (s.modCore c (fun k => { k with
    queue := k.queue.filter (fun r => !mine r)
    spill := k.spill.filter (fun r => !mine r)
    tasks := k.tasks.mod task (fun t => { t with count := t.count - n }) })).unspill c

/-- TASKEND (R367). -/
def execTaskend (g : Guard) (s : State) : Host.Outcome State Fault Refusal :=
  runInstr g (do
    notOnRiddle (.taskend g)
    endChunk
    let (c, i) ← me
    let t ← thr
    modify (fun s => (s.dropSpawns c t.task).endThread c i none)
    return .stay) s

/-- YIELD forfeits the next seven turns (R373). -/
def execYield (g : Guard) (s : State) : Host.Outcome State Fault Refusal :=
  runNext g (do
    notOnRiddle (.yield g)
    modThr (fun t => { t with status := .turns 7 })) s

/-! ## Halts -/

/-- A thread has a reply outstanding, so that a halt finds it at no boundary yet (R329). -/
def Status.busy : Status → Bool
  | .home _ | .parked _ | .refused _ _ | .reply _ _ | .engine => true
  | _ => false

/-- Every program slot of a core has stopped: no reply is outstanding, and a chunk that has not committed is squashed
(R158, R329). None while one is busy. -/
def State.haltSlots (s : State) (c : Nat) : Option State :=
  let ths := (s.core c).slots.filter (fun p => p.1 ≠ 63)
  if ths.any (fun p => p.2.status.busy) then none
  else some (ths.foldl (fun s p => s.squash c p.1) s)

/-- Every engine command that a core issued has completed, and every landing into its stash has ended (R158). -/
def State.enginesIdle (s : State) (c : Nat) : Bool :=
  let k := s.core c
  k.barrow.isEmpty && k.trellis.isNone && k.gauss.isEmpty && k.landing.isEmpty && k.landRun.isNone &&
  !s.cores.any (fun p => [p.2.hi.active, p.2.hi.shadow, p.2.lo.active, p.2.lo.shadow].any (fun m => match m with
    | some m => m.iss.core == c
    | none => false)) &&
  !k.stash.any (fun p => p.2.owner.isSome)

/-- What the running instruction found at the turn in which it issued. -/
def atNow : Act AtIssue := do
  match (← get).turn with
  | some t => pure t.at_
  | none => pure ⟨0, 0, 0, 0, 0, none, 0, none⟩

/-- The running thread waits for a core to halt, as the request that it has sent asks (R329). -/
def awaitHalt (x : Word) : Act Done := do
  let a ← atNow
  modThr (fun h => { h with status := .poll .quiet, issued := some { a with halt := some x } })
  return .stay

/-- A halt that has been sent to a core (R158, R329): its slots stop, and with a drain its engines come to rest. The thread
goes on once they have, or once the core has been released again (notes/assumptions/72.md). -/
def halting (x : Word) (t : Nat) (drain : Bool) : Act Done := do
  if !((← get).core t).halted then return .next
  match (← get).haltSlots t with
  | none => awaitHalt x
  | some s' =>
    set s'
    if !drain || (s'.core t).drained then return .next
    if s'.enginesIdle t then
      modify (fun s => s.modCore t (fun k => { k with drained := true, draining := false }))
      return .next
    awaitHalt x

/-- HALTD (R328, R329): the halt leaves once, at its turn; the thread waits until the slots have stopped, and for DRAINED. -/
def execHaltd (g : Guard) (a : Reg) (drain : Bool) (s : State) : Host.Outcome State Fault Refusal :=
  runInstr g (do
    match (← atNow).halt with
    | some x => halting x (x.toNat % 2 ^ 20) drain
    | none =>
      checkFields [.src a]
      let x ← rd a
      let (c, _) ← me
      let t := x.toNat % 2 ^ 20
      let resume := bitOf x.toNat 20
      let s ← get
      if field x 63 21 ≠ 0 || (resume && drain) || (s.core t).fenced || t = c then raise 2 x 0 0
      if (← thr).vdev ≠ 0 then raise 7 x 0 0 [⟨false, none, 0⟩]
      if resume then
        modify (fun s => s.modCore t (fun k => { k with halted := false, stopped := [], drained := false, draining := false }))
        return .next
      modify (fun s => s.modCore t (fun k => { k with halted := true, draining := k.draining || drain }))
      halting x t drain) s

/-! ## Clocks and the level bit -/

/-- BPERIOD after an advance (R137). -/
def Task.tick (k : Task) (cyc n : Nat) : Task :=
  let b := (k.bclk.toNat + n) % 2 ^ 32
  let hist := k.hist ++ [(cyc, b)]
  let ref := if hist.length > 64 then hist.headD k.start else k.start
  let db := (b + 2 ^ 32 - ref.2) % 2 ^ 32
  let dc := (cyc + 2 ^ 64 - ref.1) % 2 ^ 64
  { k with
    bclk := BitVec.ofNat 32 b
    bperiod := if db = 0 then k.bperiod else max 1 (min (2 ^ 32 - 1) (dc / db))
    hist := if hist.length > 64 then hist.drop 1 else hist }

/-- cross over the stash lines that a clock governs (R136, R139); a broken promise charges the owner (R142). -/
def State.crossStash (s : State) (c : Nat) (sel : Entry → Bool) (b n : Nat) : State :=
  (s.core c).stash.foldl (fun s p =>
    if sel p.2 then
      let (r, broke) := p.2.reuse.cross b n
      let s := s.setEntry c p.1 { p.2 with reuse := r }
      if broke then s.credit c p.2.ctx false else s
    else s) s

/-- TICK (R136). A landing handler belongs to no task and has no clock to advance (R141; notes/assumptions/11.md). -/
def execTick (g : Guard) (n : BitVec 16) (s : State) : Host.Outcome State Fault Refusal :=
  runNext g (do
    if n ≠ 0 && !(← onRiddle) then
      let (c, _) ← me
      let t ← thr
      modify (fun s =>
        let k := s.task c t.task
        let s := s.crossStash c (fun e => e.reuse.who == t.task && !e.reuse.clk) (k.bclk.toNat % 2 ^ 15) n.toNat
        s.modCore c (fun q => { q with tasks := q.tasks.put t.task (k.tick (s.cyc c) n.toNat) }))) s

/-- LEVEL (R338). -/
def execLevel (g : Guard) (on : Bool) (s : State) : Host.Outcome State Fault Refusal :=
  runNext g (modThr (fun t => { t with level := on })) s

/-! ## CSRs -/

/-- A CSR's value (R111, R312): none for an unlisted number and for CAPK. -/
def State.csr (s : State) (c : Nat) (t : Thread) (n : Nat) : Option Word :=
  let x := s.ctx c t.ctx
  let k := s.task c t.task
  match n with
  | 0x000 => some (t.flags.setWidth 64)
  | 0x001 => some (toW t.base)
  | 0x002 => some (toW t.size)
  | 0x003 => some (toW (k.limit + k.count * 256))
  | 0x004 => some (k.bclk.setWidth 64)
  | 0x005 => some (toW k.bperiod)
  | 0x006 => some (x.dist0.setWidth 64)
  | 0x007 => some (toW (x.cred + x.shift * 256))
  | 0x008 => some (toW (s.stashCount c t.ctx + s.sliceCount c t.vdev * 65536))
  | 0x009 => some (toW (x.limStash + x.limSlice * 65536))
  | 0x00A => some (wordOfInt x.ebud)
  | 0x00B => some (x.erate.setWidth 64)
  | 0x00C => some x.uhv
  | 0x00D => some x.ufv
  | 0x00E => some t.fsave
  | 0x00F => some (x.synclim.setWidth 64)
  | 0x010 => some (toW x.aqd)
  | 0x011 => some (x.nbind.setWidth 64)
  | 0x012 => some (toW (s.cyc c))
  | 0x013 => some (if (s.core c).drained then 1 else 0)
  | _ => none

/-- The checks of a CSR number (R111): CAPK raises PROTECTION, an unlisted number ILLEGAL_OPERAND. -/
def csrCheck (n : BitVec 12) (write : Bool) : Act Unit := do
  if n.toNat > 0x014 then raise 2 (n.setWidth 64) 0 0
  if n.toNat = 0x014 then raise 7 0x14 (if write then 1 else 0) 0

/-- A claim on a port ends: the FIFO's words are discarded (R77, R281). -/
def Core.dropFifo (k : Core) (d : Dir) : Core := { k with fifos := k.fifos.del (dirIdx d) }

/-- A write of NBIND (R76, R77): a port that another resident context claims stays unbound, and a claim that ends
empties its FIFO. -/
def State.writeNbind (s : State) (c ctx : Nat) (v : Word) : State :=
  let old := (s.ctx c ctx).nbind
  let others (d : Dir) : Bool :=
    (s.core c).ctxs.any (fun p => p.1 != ctx && bitOf p.2.nbind.toNat (8 * dirIdx d + 7))
  let want : Half := v.extractLsb' 0 32 &&& 0xBFBFBFBF
  let new := [Dir.n, Dir.e, Dir.s, Dir.w].foldl (fun (w : Half) d =>
    let b := 8 * dirIdx d + 7
    if bitOf w.toNat b && !bitOf old.toNat b && others d then w &&& ~~~(1#32 <<< b) else w) want
  let s := s.modCtx c ctx (fun x => { x with nbind := new })
  [Dir.n, Dir.e, Dir.s, Dir.w].foldl (fun s d =>
    let b := 8 * dirIdx d + 7
    if bitOf old.toNat b && !bitOf new.toNat b then s.modCore c (·.dropFifo d) else s) s

/-- What CSRW, CSRS and CSRC make of an old value (R311). -/
inductive CsrOp where
  | write | set | clear
  deriving DecidableEq, Repr

/-- The new value of an RW field (R311). -/
def CsrOp.apply (o : CsrOp) (old v : Word) : Word :=
  match o with
  | .write => v
  | .set => old ||| v
  | .clear => old &&& ~~~v

/-- A CSR write (R312): RW fields are set, every other field discards. -/
def writeCsr (o : CsrOp) (n : BitVec 12) (v : Word) : Act Unit := do
  let (c, _) ← me
  let t ← thr
  let s ← get
  let x := s.ctx c t.ctx
  let new (old : Word) : Word := o.apply old v
  let ctx (f : Context → Context) : Act Unit := modify (fun s => s.modCtx c t.ctx f)
  match n.toNat with
  | 0x000 => match o with
    | .set => pure ()
    | _ => modThr (fun t => { t with flags := t.flags &&& ~~~(v.extractLsb' 0 6) })
  | 0x003 => modify (fun s => s.modCore c (fun k => { k with tasks := k.tasks.mod t.task (fun q =>
      { q with limit := (new (toW (q.limit + q.count * 256))).toNat % 256 }) }))
  | 0x006 => ctx (fun x => { x with dist0 := (new (x.dist0.setWidth 64)).extractLsb' 0 8 })
  | 0x00C => ctx (fun x => { x with uhv := new x.uhv })
  | 0x00D => ctx (fun x => { x with ufv := new x.ufv })
  | 0x00E => modThr (fun t => { t with fsave := new t.fsave &&& 0x007F_FFFF_FFFF_FFC1 })
  | 0x00F => ctx (fun x => { x with synclim := (new (x.synclim.setWidth 64)).extractLsb' 0 16 })
  | 0x011 => modify (fun s => s.writeNbind c t.ctx (new (x.nbind.setWidth 64)))
  | _ => pure ()

/-- CSRR (R311, R312): CYC is the count at the instruction's own turn. -/
def execCsrr (g : Guard) (d : Reg) (csr : BitVec 12) (s : State) : Host.Outcome State Fault Refusal :=
  runNext g (do
    checkFields [.dst d]
    csrCheck csr false
    let (c, _) ← me
    if csr = 0x012 then wr d (toW (← atNow).cyc)
    else match (← get).csr c (← thr) csr.toNat with
      | some v => wr d v
      | none => pure ()) s

/-- The body of the writing CSR instructions (R311). -/
def csrWriter (o : CsrOp) (a : Reg) (csr : BitVec 12) : Act Unit := do
  checkFields [.src a]
  csrCheck csr true
  writeCsr o csr (← rd a)

/-- CSRW (R311). -/
def execCsrw (g : Guard) (a : Reg) (csr : BitVec 12) (s : State) : Host.Outcome State Fault Refusal :=
  runNext g (csrWriter .write a csr) s

/-- CSRS (R311). -/
def execCsrs (g : Guard) (a : Reg) (csr : BitVec 12) (s : State) : Host.Outcome State Fault Refusal :=
  runNext g (csrWriter .set a csr) s

/-- CSRC (R311). -/
def execCsrc (g : Guard) (a : Reg) (csr : BitVec 12) (s : State) : Host.Outcome State Fault Refusal :=
  runNext g (csrWriter .clear a csr) s

/-! ## Masks and pins -/

/-- PLBW (R194). -/
def execPlbw (g : Guard) (a b : Reg) (s : State) : Host.Outcome State Fault Refusal :=
  runNext g (do
    checkFields [.src a, .src b]
    let x ← rd a
    let y ← rd b
    if field x 63 16 ≠ 0 then raise 2 x 0 0
    if field y 63 3 ≠ 0 then raise 2 y 0 0
    let (c, _) ← me
    let t ← thr
    modify (fun s => (s.modCtx c t.ctx (fun q => { q with masks := q.masks.put x.toNat (y.extractLsb' 0 3) })).modCore c
      (fun k => { k with plb := k.plb.filter (fun p => !(p.1 == t.ctx && p.2.1 == x.toNat)) }))) s

/-- The leaf of a page that is migrating, as it stood before (R201): with its count still to fall, a PDEC reaches the old frame,
and an engine the lines that it owns there. The page may be migrating for another device that maps it. -/
def State.oldLeaf (s : State) (v : VDev) (ga : Nat) : Option Leaf :=
  let here (m : Migration) : Bool := m.ga ≤ ga && ga < m.ga + pageSize m.size
  ((s.migrations.find? (fun m => m.vdev == v && here m)).or (s.migrations.find? (fun m => m.frame.isSome && here m))).map
    (fun m => ⟨v, m.ga, m.size, m.pa, m.domain⟩)

/-- The page of a PINC or a PDEC (R194, R201): a PINC waits for a migration's end, a PDEC lowers the count that it waits for. -/
def pinPage (p : Word) (addr : Nat) (up : Bool) : Act (List Where) := do
  let (c, _) ← me
  let t ← thr
  let s ← get
  match s.translate c t.vdev addr, s.oldLeaf t.vdev addr with
  | .migrating, some l =>
    if up then waitTurn
    let b := s.rights c t.ctx l.domain
    if !Need.ok .r b then protRights p (Need.access .r b) (some (l.phys addr))
    if !s.ownerOk c t.vdev (l.phys addr) then protOwner p 0 (l.phys addr)
    return [.home l]
  | _, _ => checkLines c t.ctx t.vdev .r [(addr / 64, p)] true

/-- PINC and PDEC (R194): the count changes when the chunk commits; a PINC waits while the frame migrates (R201). -/
def pinBy (a : Reg) (up : Bool) : Act Unit := do
  checkFields [.src a]
  let p ← rd a
  let addr ← deref p
  let t ← thr
  let ws ← pinPage p addr up
  match ws with
  | [.home l] =>
    if up && (← get).frameMoving l then waitTurn
    let pa := l.phys addr
    let g := (← get).granule (pa / 4096)
    if !(g.valid && g.owner == t.vdev) then protOwner p 0 pa
    modThr (fun t => { t with chunk := { t.chunk with pins := t.chunk.pins ++ [(l.pa, up)] } })
  | _ => pure ()

/-- PINC (R194). -/
def execPinc (g : Guard) (a : Reg) (s : State) : Host.Outcome State Fault Refusal := runNext g (pinBy a true) s

/-- PDEC (R194). -/
def execPdec (g : Guard) (a : Reg) (s : State) : Host.Outcome State Fault Refusal := runNext g (pinBy a false) s

end Sys2Proof.Machine
end

