-- ==== Sys2Proof/Machine/Memory.lean ====
section
/-! DEFINITION. Loads, stores, prefetches and stash ranges (R124, R334-R337, R355, R362-R364), and the operations that a
home performs: atomics, sync operations, WAITC and JOIN (R126-R129, R148, R180, R237, R293-R296, R333). -/

namespace Sys2Proof.Machine

/-! ## Dispatch cores and records -/

/-- A node's rectangle in cores: x, y, width, height (R257). -/
def coreRect (n : Nat) : Nat × Nat × Nat × Nat :=
  let (x, y, w, h, _) := nodeRect 15 n
  (8 * x, 8 * y, 8 * w, 8 * h)

/-- The next unfenced core eastward along its row of a partition (R260). -/
def State.eastward (s : State) (ox w gx gy : Nat) : Nat → Nat
  | 0 => coreAt gx gy
  | n + 1 => if (s.core (coreAt gx gy)).fenced then s.eastward ox w (ox + (gx - ox + 1) % w) gy n else coreAt gx gy

/-- The dispatch core of a home, for a context in a partition (R260). -/
def State.dispatchCore (s : State) (part : Nat) (home : Nat) : Nat :=
  if inNode part home && !(s.core home).fenced then home
  else
    let (ox, oy, w, h) := coreRect part
    let gx := ox + (gxOf home + 1024 * w - ox) % w
    let gy := oy + (gyOf home + 1024 * h - oy) % h
    s.eastward ox w gx gy w

/-- The core that a record goes to, for a requester on a core. -/
def State.recordCore (s : State) (c home : Nat) : Nat :=
  match s.partOf c with
  | some p => s.dispatchCore p home
  | none => home

/-- A continuation record as a task-queue record (R59, R61): x0 the data address, x1-x3 its arguments. -/
def recordOf (ws : List Word) (launch : Nat) (v : VDev) : TaskRec :=
  let w0 := ws.getD 0 0
  let w3 := ws.getD 3 0
  { entry := BitVec.ofNat 55 (field w0 54 0), prio := bitOf w0.toNat 55, movable := bitOf w0.toNat 56,
    size := 8 * (field w0 60 57 + 1), xs := [ws.getD 1 0, ws.getD 2 0, toW (field w3 31 0), toW (field w3 63 32)],
    launch := launch, vdev := v, task := none }

/-- The failure of a record's checks before its translation (R62): cause and detail. -/
def recordBad (ws : List Word) : Option (Nat × Word) :=
  let w0 := ws.getD 0 0
  let w1 := ws.getD 1 0
  if field w0 63 61 ≠ 0 then some (2, w0)
  else if ptrFmt w1 ≥ 16 then some (5, w1)
  else if bitOf w0.toNat 0 then some (6, toW (field w0 54 0))
  else none

/-- The home of the line that a data address names (R62): a PAGE_FAULT reports the address. -/
def homeOfData (p : Word) : Act Nat := do
  let (c, _) ← me
  let t ← thr
  let a := if ptrFmt p = 7 then ptrAddr p / 2 else ptrAddr p
  return homeOf ((← leafFor c t.vdev a p 0).phys a)

/-! ## At the home -/

/-- The port that a request comes in by (R23, R127): N, E, S, W or the own core. -/
def portInto (home src : Nat) : Nat :=
  if home = src then 4
  else if gyOf src < gyOf home then 0
  else if gyOf src > gyOf home then 2
  else if gxOf src > gxOf home then 1 else 3

/-- The round-robin pointer of a home in this cycle (R127): after a cycle in which operations were taken it stands at the port
after the one taken first in that cycle. -/
def Core.pointer (k : Core) (now : Nat) : Nat :=
  match k.robinAt with
  | some (n, p :: _) => if n = now then k.robin else (p + 1) % 5
  | _ => k.robin

/-- The ports by which a home has taken operations in this cycle, in order (R127). -/
def Core.portsTaken (k : Core) (now : Nat) : List Nat :=
  match k.robinAt with
  | some (n, ps) => if n = now then ps else []
  | none => []

/-- A home takes an operation that has come in by a port (R127). -/
def Core.takePort (k : Core) (now port : Nat) : Core :=
  { k with
    robin := k.pointer now
    robinAt := some (now, k.portsTaken now ++ [port]) }

/-- An operation on a word, but no load (R120, R127). -/
def MemOp.isOp : MemOp → Bool
  | .atomic .. | .sync .. | .join .. => true
  | .load .. | .pair .. => false

/-- An operation that has reached a home waits there for its turn among the ports (R127). -/
def State.queuedAt (s : State) (home : Nat) : Bool :=
  s.cores.any (fun p => p.2.slots.any (fun q => match q.2.status with
    | .home op => op.isOp && (s.physOf p.1 q.2.vdev (ptrAddr op.ptr)).any (fun pa => homeOf pa == home)
    | _ => false))

/-- An operation that has come in by a port is taken now (R127): the home takes one for each port and cycle, and one that issues
in this cycle waits until every core has had its turn in it and for those that wait there already, so that the ports' order
decides between them (notes/assumptions/52.md). -/
def State.portOpen (s : State) (home src : Nat) (waits : Bool) : Bool :=
  !((s.core home).portsTaken s.now).contains (portInto home src) && (waits || (s.turns.isEmpty && !s.queuedAt home))

/-- The request that is being served has waited at its home, or is no thread's (R265). -/
def requestWaits : Act Bool := do
  match (← get).turn with
  | none => return true
  | some _ => return match (← thr).status with
    | .home _ => true
    | _ => false

/-- Takes a word's line at its home for an operation (R127, R131, R148, R200): frame owner, engine, recall of every
copy, the slice, poison. `arrives`: it has come in by a port, and is no retry of a parked one. -/
def atHome (q : Rq) (pa : Nat) (arrives : Bool := true) : Act Unit := do
  let s ← get
  let pl := pa / 64
  if !s.ownerOk q.core q.vdev pa then protOwner q.addr q.acc pa
  if arrives && !s.portOpen (homeOf pa) q.core (← requestWaits) then waitTurn
  if (s.dirOf pl).engine.isSome then waitTurn
  let gl := q.addr.toNat % 2 ^ 55 / 64
  orWait (fun s => s.recallCopies gl pl true none)
  orWait (fun s => s.useSlice pl q.dist q.core q.vdev)
  modify (fun s => s.correct pl)
  if arrives then
    modify (fun s => s.modCore (homeOf pa) (fun k => k.takePort s.now (portInto (homeOf pa) q.core)))
  if (← get).bad pl then poisonTrap q.addr q.acc (some pa)

/-- An operation performed at a home squashes the running chunks whose read or write set holds its line (R148). -/
def performed (ptr : Word) : Act Unit := do
  let (c, i) ← me
  modify (fun s => s.squashMeeting c i [ptrAddr ptr / 64])

/-- The 64-bit word at a physical address. -/
def State.wordAt (s : State) (pa : Nat) : Word := toW (leNat (memRead s.mem pa 8))

/-- Writes a word at its home. -/
def State.putWord (s : State) (pa : Nat) (v : Word) : State := { s with mem := memWrite s.mem pa (leBytes 8 v.toNat) }

/-- The full/empty bit of a word (R126). -/
def State.full (s : State) (pa : Nat) : Bool := (s.metaOf (pa / 64)).fe.getLsbD (pa / 8 % 8)

/-- Sets a word's full/empty bit (R126). -/
def State.setFull (s : State) (pa : Nat) (b : Bool) : State :=
  let m := s.metaOf (pa / 64)
  let bit : BitVec 8 := 1#8 <<< (pa / 8 % 8)
  s.setMeta (pa / 64) { m with fe := if b then m.fe ||| bit else m.fe &&& ~~~bit }

/-- The word that an atomic stores and the one it returns (R237, R293, R296). -/
def AtomOp.apply (op : AtomOp) (old v w : Word) : Word × Word :=
  match op with
  | .add => (old + v, old)
  | .and => (old &&& v, old)
  | .or => (old ||| v, old)
  | .xor => (old ^^^ v, old)
  | .min => (if v.toInt < old.toInt then v else old, old)
  | .max => (if old.toInt < v.toInt then v else old, old)
  | .swap => (v, old)
  | .cas => (if old = v then w else old, old)
  | .addc => if old.toNat + v.toNat ≤ w.toNat then (old + v, old)
             else (old, BitVec.ofNat 64 (old.toNat % 2 ^ 63 + 2 ^ 63))

/-- The rights of a sync operation (R127, R180, R193). -/
def SyncOp.need : SyncOp → Need
  | .lds => .rw
  | .sts | .fec | .fef => .w
  | .ldf | .waitc => .r

/-- sync_at_home on a word (R127, R180): none where it waits. -/
def State.syncWord (s : State) (op : SyncOp) (pa : Nat) (v : Word) : Option (Reply × State) :=
  let w := s.wordAt pa
  match op with
  | .lds => if s.full pa then some (.value w, s.setFull pa false) else none
  | .sts => if s.full pa then none else some (.nothing, (s.putWord pa v).setFull pa true)
  | .ldf => if s.full pa then some (.value w, s) else some (.nothing, s)
  | .fec => some (.nothing, s.setFull pa false)
  | .fef => some (.nothing, s.setFull pa true)
  | .waitc => if w.toNat ≥ v.toNat then some (.nothing, s) else none

/-- The leaf and the physical address of a home operation's word, all checks made (R127, R193, R223, R294). -/
def homeWord (need : Need) (ptr : Word) : Act Nat := do
  let (c, _) ← me
  let t ← thr
  let a := ptrAddr ptr
  if ((← get).windowLine c (a / 64)).isSome then protRights ptr (if need = .r then 0 else 1) ((← get).physOf c t.vdev a)
  let ws ← checkLines c t.ctx t.vdev need [(a / 64, ptr)] true
  match ws with
  | [.home l] => return l.phys a
  | _ => waitTurn

/-- A request withdraws its record in a refusal list (R128). -/
def Core.unrefuse (k : Core) (c i : Nat) : Core := { k with refusals := k.refusals.filter (· ≠ (c, i)) }

/-- A request withdraws its records at every home, but for one that it is to keep (R128): it has been performed or ended, or its page
has moved to another home. -/
def State.unrefuse (s : State) (c i : Nat) (keep : Option Nat := none) : State :=
  { s with cores := s.cores.map (fun p => (p.1, if keep = some p.1 then p.2 else p.2.unrefuse c i)) }

/-- A sync operation that returns wait (R128): a limit of 0 returns at once; else it parks, or is refused where every
entry is taken or held for an older refused request. -/
def parkOr (op : MemOp) (pa limit : Nat) : Act (Option Reply) := do
  let (c, i) ← me
  let s ← get
  let h := homeOf pa
  let k := s.core h
  modify (fun s => s.unrefuse c i (some h))
  if limit = 0 then return some .limit
  let open_ := 16 - k.park.length
  let place := match k.refusals.findIdx? (· == (c, i)) with | some p => p | none => k.refusals.length
  if open_ > place then
    match k.park.free 16 with
    | some e =>
      modify (fun s => s.modCore h (fun k =>
        { k.unrefuse c i with park := k.park.put e ⟨c, i, pa, 0, limit, s.now + 64⟩ }))
      modThr (fun t => { t with status := .parked op })
    | none => pure ()
  else
    modify (fun s => s.modCore h (fun k =>
      if k.refusals.contains (c, i) || k.refusals.length ≥ 64 then k else { k with refusals := k.refusals ++ [(c, i)] }))
    modThr (fun t => { t with status := .refused op (s.now + 64) })
  return none

/-- One try of a sync operation at its word's home (R127): none where it waits. -/
def syncAt (o : SyncOp) (ptr v : Word) (u : Use) (pa : Nat) (arrives : Bool := true) : Act (Option Reply) := do
  let (c, i) ← me
  atHome ((← whoAmI u).rq ptr o.need.plain) pa arrives
  match (← get).syncWord o pa v with
  | some (r, s) =>
    set ((if o.need = .r then s else s.wrote (pa / 64)).unrefuse c i)
    performed ptr
    return some r
  | none => return none

/-- Performs an operation that a thread waits for, at its home or in the stash. None where it parks or is refused. -/
def serve (op : MemOp) : Act (Option Reply) := do
  let t ← thr
  match op with
  | .load _ ptr fmt raw u =>
    let r := memRefAt ptr fmt
    match r.ranges raw with
    | none => misalign ptr
    | some rs => return some (.value (r.value raw (← loadRanges ptr rs u)))
  | .pair _ ptr u =>
    let ws := leWords (← loadBytes ptr (ptrAddr ptr) 16 u) 2
    return some (.pair (ws.getD 0 0) (ws.getD 1 0))
  | .atomic op _ ptr v w u =>
    let pa ← homeWord .rw ptr
    atHome ((← whoAmI u).rq ptr 0) pa
    performed ptr
    let (new, out) := op.apply ((← get).wordAt pa) v w
    modify (fun s => (s.putWord pa new).wrote (pa / 64))
    return some (.value out)
  | .sync o d ptr v limit u =>
    let pa ← homeWord o.need ptr
    match ← syncAt o ptr v u pa with
    | some r => return some r
    | none => parkOr (.sync o d ptr v limit u) pa limit
  | .join _ ptr level u =>
    let pa ← homeWord .rw ptr
    atHome ((← whoAmI u).rq ptr 0) pa
    performed ptr
    let s ← get
    let n := s.wordAt pa
    if n = 1 then
      let ws := leWords (memRead s.mem (pa + 32) 32) 4
      match recordBad ws with
      | some (cause, _) => raise cause (addrDetail ptr) 0 0
      | none => pure ()
      let (c, _) ← me
      let home ← homeOfData (ws.getD 1 0)
      let r := recordOf ws t.launch t.vdev
      let r := { r with movable := r.movable || level }
      modify (fun s => ((s.putWord pa 0).wrote (pa / 64)).send (.task (s.recordCore c home) r) (homeOf pa))
      return some (.pred true)
    else if n ≠ 0 then
      modify (fun s => (s.putWord pa (n - 1)).wrote (pa / 64))
      return some (.pred false)
    else return some (.pred false)

/-- Applies a home's reply to the waiting thread (R53, R129, R337). An operation that its home has performed is the last
instruction of its chunk, whether or not it had to wait (R145, R148); a load's word for a port waits for the chunk's commit and
for room in the neighbour's FIFO. -/
def applyReply (op : MemOp) (r : Reply) : Act Done := do
  match op with
  | .load .. | .pair .. => pure ()
  | _ => modThr (fun t => { t with chunk := { t.chunk with closing := true } })
  match op, r with
  | .sync o _ ptr _ _ _, .limit =>
    raise 10 ptr 0 (match o with | .sts => 1 | .waitc => 2 | _ => 0)
  | .load (.port q) _ _ _ _, .value v =>
    modThr (fun t => { t with status := .port q v, chunk := { t.chunk with closing := true } })
    return .stay
  | .load d _ _ _ _, .value v => wr d v
  | .pair d _ _, .pair a b => wrX d a; wrX (d + 1) b
  | .atomic _ d _ _ _ _, .value v => wr d v
  | .sync _ d _ _ _ _, .value v => wr d v
  | .join pd _ _ _, .pred b => wrP pd b
  | _, _ => pure ()
  return .next

/-- Issues an operation: performed at once where its home can serve it, else the thread waits for the reply (R53). -/
def issue (op : MemOp) : Act Done := do
  match attempt (serve op) (← get) with
  | .ok (some r, s) =>
    set s
    applyReply op r
  | .ok (none, s) =>
    set s
    return .stay
  | .error (.wait _) =>
    let now := (← get).now
    modThr (fun t => { t with status := .home op, asked := now })
    return .stay
  | .error e => throw e

/-! ## Loads and stores -/

/-- LD (R334, R335, R337). -/
def execLd (g : Guard) (d b : Reg) (m : MMod) (nu : BitVec 8) (off : BitVec 16) (s : State) :
    Host.Outcome State Fault Refusal :=
  runInstr g (do
    checkFields [.late d, .base b]
    let p ← rd b
    let r := memRef p off m.fo.toNat
    if ptrFmt p ≥ 16 || ptrFormatBad r.fmt r.l then raise 5 r.ptr 0 0
    if (r.ranges m.raw).isNone then misalign r.ptr
    issue (.load d r.ptr r.fmt m.raw (← useNow nu.toNat))) s

/-- ST (R362-R364). -/
def execSt (g : Guard) (d b : Reg) (m : MMod) (nu : BitVec 8) (off : BitVec 16) (s : State) :
    Host.Outcome State Fault Refusal :=
  runNext g (do
    checkFields [.src d, .base b]
    let p ← rd b
    let r := memRef p off m.fo.toNat
    if ptrFmt p ≥ 16 || ptrFormatBad r.fmt r.l then raise 5 r.ptr 0 0
    if (r.fmt = 6 || r.fmt = 7) && !m.raw then raise 2 (toW r.fmt) 0 0
    match r.ranges true with
    | none => misalign r.ptr
    | some rs =>
      let v ← rd d
      let (bytes, f) := r.stored m.raw v
      orFlags f
      holdStores r.ptr [((rs.headD (0, 0)).1, bytes)] nu.toNat) s

/-- LDP (R336). -/
def execLdp (g : Guard) (d b : Reg) (nu : BitVec 8) (off : BitVec 16) (s : State) : Host.Outcome State Fault Refusal :=
  runInstr g (do
    checkFields [.group d 2, .base b]
    let p ← plainRef (← rd b) off 16
    issue (.pair (regWin d) p (← useNow nu.toNat))) s

/-- STP (R363). -/
def execStp (g : Guard) (d b : Reg) (nu : BitVec 8) (off : BitVec 16) (s : State) : Host.Outcome State Fault Refusal :=
  runNext g (do
    checkFields [.group d 2, .base b]
    let p ← plainRef (← rd b) off 16
    let ws ← rdXs (regWin d) 2
    holdStores p [(ptrAddr p, whole (wordBytes ws))] nu.toNat) s

/-- A mapped line's record is set from an access's code, which is no use (R124, R140); where the fill has taken until after the
deadline, the line is over and the promise broken. -/
def State.rearm (s : State) (c i task : Nat) (u : Use) : State :=
  match (s.core c).stash.find? i with
  | some e =>
    let r := ({ e.reuse with opn := false }).arm (u.clock % 2 ^ 15) (codeDist u.code) task
    let (r, broke) := r.meets u.clock (s.task c task).bclk.toNat
    let s := s.setEntry c i { e with reuse := { r with clk := false, who := task } }
    if broke then s.credit c e.ctx false else s
  | none => s

/-- An engine owns a line, at its home or in another core's stash (R150, R355). -/
def State.engineHolds (s : State) (c gl pl : Nat) : Bool := (s.dirOf pl).engine.isSome || s.ownedCopy gl pl (some c)

/-- The line of a prefetch is fetched (R355): a first touch of an unfilled entry, which re-arms it, or a use at the home. One
that an engine owns is not. -/
def prefetchLine (w : Who) (ptr : Word) (a : Nat) : Act Unit := do
  let gl := a / 64
  let fetch (ws : List Where) : Act Unit := do
    match ws with
    | [.unfilled i l] =>
      if !(← get).engineHolds w.core gl (l.phys (64 * gl) / 64) then
        fillEntry (w.rq ptr 0) i l false
        modify (fun s => s.rearm w.core i w.task w.use)
    | [.home l] =>
      if !(← get).engineHolds w.core gl (l.phys (64 * gl) / 64) then discard (homeRead (w.rq ptr 0) gl (l.phys a))
    | _ => pure ()
  match (← get).stashFind w.core gl with
  | some (_, e) =>
    if e.owner.isNone then fetch (← checkLines w.core w.ctx w.vdev .r [(gl, ptr)] (e.st != .unfilled))
  | none => fetch (← checkLines w.core w.ctx w.vdev .r [(gl, ptr)])

/-- The line that a PREF names, with the address that it carries (R355). -/
def prefetchAt (p : Word) (off : BitVec 16) : Act (Word × Nat) := do
  let r := memRef p off 0
  if ptrFormatBad r.fmt r.l then raise 5 p 0 0
  match r.ranges true with
  | none => misalign p
  | some rs => return (r.ptr, (rs.headD (0, 0)).1)

/-- PREF's effect, which may fail, or wait at the home (R355). -/
def prefetch (p : Word) (off : BitVec 16) (nu : Nat) : Act Unit := do
  let (ptr, a) ← prefetchAt p off
  prefetchLine (← whoAmI (← useNow nu)) ptr a

/-- A prefetch that cannot be served yet waits at its home (R143, R355). -/
def keepPrefetch (p : Word) (off : BitVec 16) (nu : Nat) : Act Unit := do
  let w ← whoAmI (← useNow nu)
  match attempt (prefetchAt p off) (← get) with
  | .ok ((ptr, _), _) =>
    modify (fun s => s.modCore w.core (fun k => { k with prefs := k.prefs ++ [⟨w.ctx, w.task, w.vdev, ptr, w.use⟩] }))
  | .error _ => pure ()

/-- PREF never waits and never traps on its address (R355). -/
def execPref (g : Guard) (b : Reg) (nu : BitVec 8) (off : BitVec 16) (s : State) : Host.Outcome State Fault Refusal :=
  runNext g (do
    notOnRiddle (.pref g b nu off)
    checkFields [.base b]
    let p ← rd b
    match attempt (prefetch p off nu.toNat) (← get) with
    | .ok (_, s) => set s
    | .error (.wait _) => keepPrefetch p off nu.toNat
    | .error _ => pure ()) s

/-! ## Stash ranges -/

/-- SMAP (R124): the read right of every line's domain first; a page without a valid entry is mapped without a check. -/
def execSmap (g : Guard) (d b : Reg) (sc : MapScope) (nu : BitVec 8) (s : State) : Host.Outcome State Fault Refusal :=
  runNext g (do
    checkFields [.src d, .base b]
    let p ← rd b
    let n ← rd d
    let (gl, k) ← rangeArgs p n
    endChunk
    let (c, _) ← me
    let t ← thr
    let s ← get
    let look (l : Nat) : Xlat := s.translate c t.vdev (64 * l)
    for l in rangeOf gl k do
      match look l with
      | .ok e =>
        if !(s.rights c t.ctx e.domain).getLsbD 0 then protRights (toW (64 * l)) 0 (some (e.phys (64 * l)))
      | .refused pa => protOwner (toW (64 * l)) 0 pa
      | _ => pure ()
    for l in rangeOf gl k do
      match look l with
      | .poison pa => poisonTrap (toW (64 * l)) 0 (some pa)
      | .migrating => waitTurn
      | .ok e => modify (fun s => s.useLeaf c e)
      | _ => pure ()
    let u ← useNow nu.toNat
    for l in rangeOf gl k do
      let dom := match look l with
        | .ok e => e.domain
        | _ => 0
      let s ← get
      match s.stashFind c l with
      | some (i, _) => set (s.rearm c i t.task u)
      | none => match s.mapLine c l t.ctx (sc == .core) dom u.clock (codeDist u.code) t.task false with
        | some (s, _) => set s
        | none => waitTurn) s

/-- SWB: `.sys` differs from `.module` only in what observers outside the module see (R124). -/
def execSwb (g : Guard) (a b : Reg) (sc : WbScope) (s : State) : Host.Outcome State Fault Refusal :=
  runNext g (do
    let _ := sc
    checkFields [.src a, .src b]
    let p ← rd a
    let n ← rd b
    let (gl, k) ← rangeArgs p n
    endChunk
    eachEntry (rangeOf gl k) (fun c i => orWait (fun s => s.writeBack c i))) s

/-- SDROP (R124). -/
def execSdrop (g : Guard) (a b : Reg) (s : State) : Host.Outcome State Fault Refusal :=
  runNext g (do
    checkFields [.src a, .src b]
    let p ← rd a
    let n ← rd b
    let (gl, k) ← rangeArgs p n
    endChunk
    eachEntry (rangeOf gl k) (fun c i => orWait (fun s => s.freeEntry c i))) s

/-! ## Atomics and sync operations -/

/-- The shape of the one-operand atomics (R293, R294). -/
def atomic1 (g : Guard) (op : AtomOp) (d b src : Reg) (off : BitVec 16) (s : State) : Host.Outcome State Fault Refusal :=
  runInstr g (do
    checkFields [.dst d, .base b, .src src]
    let p ← plainRef (← rd b) off 8
    endChunk
    issue (.atomic op d p (← rd src) 0 (← useNow 255))) s

/-- The shape of the two-operand atomics (R237, R296). -/
def atomic2 (g : Guard) (op : AtomOp) (d b src : Reg) (off : BitVec 16) (s : State) : Host.Outcome State Fault Refusal :=
  runInstr g (do
    checkFields [.dst d, .base b, .group src 2]
    let p ← plainRef (← rd b) off 8
    endChunk
    let ws ← rdXs (regWin src) 2
    issue (.atomic op d p (ws.getD 0 0) (ws.getD 1 0) (← useNow 255))) s

/-- AADD (R293). -/
def execAadd (g : Guard) (d b x : Reg) (off : BitVec 16) (s : State) : Host.Outcome State Fault Refusal :=
  atomic1 g .add d b x off s

/-- AADDC (R237). -/
def execAaddc (g : Guard) (d b x : Reg) (off : BitVec 16) (s : State) : Host.Outcome State Fault Refusal :=
  atomic2 g .addc d b x off s

/-- AAND (R293). -/
def execAand (g : Guard) (d b x : Reg) (off : BitVec 16) (s : State) : Host.Outcome State Fault Refusal :=
  atomic1 g .and d b x off s

/-- AOR (R293). -/
def execAor (g : Guard) (d b x : Reg) (off : BitVec 16) (s : State) : Host.Outcome State Fault Refusal :=
  atomic1 g .or d b x off s

/-- AXOR (R293). -/
def execAxor (g : Guard) (d b x : Reg) (off : BitVec 16) (s : State) : Host.Outcome State Fault Refusal :=
  atomic1 g .xor d b x off s

/-- AMIN (R293). -/
def execAmin (g : Guard) (d b x : Reg) (off : BitVec 16) (s : State) : Host.Outcome State Fault Refusal :=
  atomic1 g .min d b x off s

/-- AMAX (R293). -/
def execAmax (g : Guard) (d b x : Reg) (off : BitVec 16) (s : State) : Host.Outcome State Fault Refusal :=
  atomic1 g .max d b x off s

/-- ASWAP (R293). -/
def execAswap (g : Guard) (d b x : Reg) (off : BitVec 16) (s : State) : Host.Outcome State Fault Refusal :=
  atomic1 g .swap d b x off s

/-- ACAS (R296). -/
def execAcas (g : Guard) (d b x : Reg) (off : BitVec 16) (s : State) : Host.Outcome State Fault Refusal :=
  atomic2 g .cas d b x off s

/-- SYNCLIM as it stood at the turn in which the running instruction issued (R168). -/
def limitNow : Act Nat := do return match (← get).turn with
  | some t => t.at_.limit
  | none => 0

/-- The shape of the sync operations (R127, R168). -/
def syncOp (g : Guard) (op : SyncOp) (fs : List Fld) (d : Reg) (v : Act Word) (b : Reg) (nu : BitVec 8) (off : BitVec 16)
    (s : State) : Host.Outcome State Fault Refusal :=
  runInstr g (do
    checkFields (fs ++ [.base b])
    let p ← plainRef (← rd b) off 8
    endChunk
    issue (.sync op d p (← v) (← limitNow) (← useNow nu.toNat))) s

/-- LDS (R127). -/
def execLds (g : Guard) (d b : Reg) (nu : BitVec 8) (off : BitVec 16) (s : State) : Host.Outcome State Fault Refusal :=
  syncOp g .lds [.dst d] d (pure 0) b nu off s

/-- STS (R127). -/
def execSts (g : Guard) (d b : Reg) (nu : BitVec 8) (off : BitVec 16) (s : State) : Host.Outcome State Fault Refusal :=
  syncOp g .sts [.src d] .zr (rd d) b nu off s

/-- LDF (R127). -/
def execLdf (g : Guard) (d b : Reg) (nu : BitVec 8) (off : BitVec 16) (s : State) : Host.Outcome State Fault Refusal :=
  syncOp g .ldf [.dst d] d (pure 0) b nu off s

/-- FEC (R127). -/
def execFec (g : Guard) (b : Reg) (nu : BitVec 8) (off : BitVec 16) (s : State) : Host.Outcome State Fault Refusal :=
  syncOp g .fec [] .zr (pure 0) b nu off s

/-- FEF (R127). -/
def execFef (g : Guard) (b : Reg) (nu : BitVec 8) (off : BitVec 16) (s : State) : Host.Outcome State Fault Refusal :=
  syncOp g .fef [] .zr (pure 0) b nu off s

/-- WAITC (R180). -/
def execWaitc (g : Guard) (a b : Reg) (s : State) : Host.Outcome State Fault Refusal :=
  runInstr g (do
    checkFields [.src a, .src b]
    let p ← plainRef (← rd a) 0 8
    let v ← rd b
    endChunk
    issue (.sync .waitc .zr p v (← limitNow) (← useNow 255))) s

/-- JOIN (R65, R333). -/
def execJoin (g : Guard) (pd : BitVec 4) (a : Reg) (s : State) : Host.Outcome State Fault Refusal :=
  runInstr g (do
    checkFields [.src a]
    let p ← plainRef (← rd a) 0 64
    endChunk
    issue (.join pd p (← thr).level (← useNow 255))) s

end Sys2Proof.Machine
end

