-- ==== Sys2Proof/Machine/Threads.lean ====
section
/-! DEFINITION. Tasks, travel, messages, the mailbox queue and channels (R59-R81, R299, R307, R330, R341, R354, R359-R361,
R365, R371). -/

namespace Sys2Proof.Machine

/-! ## Tasks and travel -/

/-- Place in arrival order, device, launch and window size of an arrival (R69, R262). -/
def Arrival.stamp : Arrival → Nat
  | .travel n _ | .evicted n _ => n
def Arrival.vdev : Arrival → VDev
  | .travel _ t => t.vdev
  | .evicted _ v => v.th.vdev
def Arrival.launch : Arrival → Nat
  | .travel _ t => t.launch
  | .evicted _ v => v.th.launch
def Arrival.size : Arrival → Nat
  | .travel _ _ => 16
  | .evicted _ v => v.regs.length

/-- The lines of an eviction's save area (R261; notes/assumptions/21.md): the window, PC, predicate word, status word, wake
bit, and a handler's shadow state. -/
def Saved.lines (v : Saved) : Nat := ceilDiv (8 * v.regs.length + 32 + (if v.shadow.isSome then 96 else 0)) 64

/-- Lines of spill space that an arrival holds: a saved thread's area until its redispatch, and two of a travelling context
in a spill area (R69, R261, R272; notes/assumptions/21.md). -/
def Arrival.lines (spilled : Bool) : Arrival → Nat
  | .travel _ _ => if spilled then 2 else 0
  | .evicted _ v => v.lines

/-- The sum of a list's values. -/
def sumOf {α : Type} (l : List α) (f : α → Nat) : Nat := (l.map f).foldl (· + ·) 0

/-- The node in which an evicted thread is placed again: its launch's, which a shrink changes (R259, R262). -/
def State.savedNode (s : State) (v : Saved) : Option Nat :=
  match s.launches.find? v.th.launch with
  | some l => some l.node
  | none => s.partOf v.core

/-- A core leaves its partition: a shrink has begun that keeps the other child (R259). -/
def State.leaving (s : State) (c : Nat) : Bool :=
  match (s.partOf c).bind s.nodes.find? with
  | some k => k.keep.any (fun n => !inNode n c)
  | none => false

/-- Lines of spill space that are held for a device in the partition of a core: task records, one line each, travelling
contexts and evicted threads (R63, R69, R261, R272; notes/assumptions/21.md). -/
def State.spillUsed (s : State) (c : Nat) (v : VDev) : Nat :=
  let arr (spilled : Bool) (l : List Arrival) : Nat := sumOf l (fun a => if a.vdev == v then a.lines spilled else 0)
  sumOf (s.partCores c) (fun p =>
    (p.2.spill.filter (fun r => r.vdev == v)).length + arr true (p.2.arrOut.map Prod.snd) +
    sumOf p.2.ctxs (fun x => arr false x.2.arrivals + arr true x.2.arrSpill)) +
  sumOf s.evicted (fun e => if e.th.vdev == v && s.savedNode e == s.partOf c then e.lines else 0)

/-- A core's owner has `n` lines of spill space left (R272). -/
def State.spillOpen (s : State) (c : Nat) (v : VDev) (n : Nat := 1) : Bool :=
  poolOpen Config.spillPool (s.ownersAt c) OwnerEntry.resSpill (s.spillUsed c) v n

/-- A record joins a core's task queue, or its spill region behind 64 entries (R63); none where the spill pool is
exhausted. -/
def State.enqueue (s : State) (c : Nat) (r : TaskRec) : Option State :=
  let k := s.core c
  if k.queue.length < 64 && k.spill.isEmpty then some (s.setCore c { k with queue := k.queue ++ [r] })
  else if s.spillOpen c r.vdev then some ((s.setCore c { k with spill := k.spill ++ [r] }).spillDram c r.vdev 1)
  else none

/-- SPAWN (R66, R361). -/
def execSpawn (g : Guard) (pd : BitVec 4) (a b : Reg) (s : State) : Host.Outcome State Fault Refusal :=
  runNext g (do
    checkFields [.src a, .group b 2]
    notOnRiddle (.spawn g pd a b)
    let e ← jumpTarget (← rd a)
    let xs ← rdXs (regWin b) 2
    endChunk
    let (c, _) ← me
    let t ← thr
    let k := (← get).task c t.task
    if k.count < k.limit then
      orWait (fun s => s.enqueue c ⟨e, true, false, t.size, xs, t.launch, t.vdev, some t.task⟩)
      modify (fun s => s.modCore c (fun q => { q with tasks := q.tasks.put t.task { k with count := k.count + 1 } }))
      wrP pd true
    else wrP pd false) s

/-- POST (R62, R81, R354): the record goes to the dispatch core of its data address (R260). -/
def execPost (g : Guard) (a : Reg) (s : State) : Host.Outcome State Fault Refusal :=
  runNext g (do
    checkFields [.group a 4]
    notOnRiddle (.post g a)
    let ws ← rdXs (regWin a) 4
    match recordBad ws with
    | some (cause, d) => raise cause d 0 0
    | none => pure ()
    let home ← homeOfData (ws.getD 1 0)
    endChunk
    let (c, _) ← me
    let t ← thr
    let r := recordOf ws t.launch t.vdev
    sendWait (.task ((← get).recordCore c home) { r with movable := r.movable || t.level })) s

/-- The travelling context of a thread that goes on at `pc`, with the address that it hopped to (R68). A window of 8 registers
has no x8 and x9, and the packet carries 0 for them (notes/assumptions/73.md). -/
def State.travel (s : State) (c : Nat) (t : Thread) (pc : Pc) (addr : Nat) : Travel :=
  { xs := (s.window c t ++ List.replicate 10 0).take 10, poison := (s.windowPoison c t).filter (· < 10)
    preds := t.preds, pc := pc, flags := t.flags, prio := (s.task c t.task).prio, level := t.level, vdev := t.vdev
    bclk := (s.task c t.task).bclk, launch := t.launch, addr := addr, id := t.id, hops := t.hops + 1, pending := t.pending }

/-- The core's place in arrival order for its next arrival (R70). -/
def State.nextStamp (s : State) (c : Nat) : Nat × State :=
  ((s.core c).arrStamp, s.modCore c (fun k => { k with arrStamp := k.arrStamp + 1 }))

/-- AQD for a context of a device created on a core: the least of its started launches there (R267, R313). -/
def State.aqdFor (s : State) (c : Nat) (v : VDev) : Nat :=
  let l := s.launches.filter (fun p => p.2.vdev == v && p.2.started && some p.2.node == s.partOf c)
  (l.map (fun p => p.2.aqd)).foldl min 16

/-- A copy of a device whose context has come to a core (R281). -/
def Copy.hosted (y : Copy) (c : Nat) (v : VDev) : Copy :=
  if y.iss.vdev == v && !y.hosts.contains c then { y with hosts := y.hosts ++ [c] } else y

/-- The context of a device on a core, created where it has none and a place is free (R263, R331). -/
def State.ctxMake (s : State) (c : Nat) (v : VDev) : Option (Nat × State) :=
  match s.ctxOf c v with
  | some x => some (x, s)
  | none =>
    match (s.core c).ctxs.free 8 with
    | some x =>
      let s := s.modCore c (fun k => { k with ctxs := k.ctxs.put x (Context.fresh v (s.aqdFor c v)) })
      some (x, { s with cores := s.cores.map (fun p => (p.1, { p.2 with
        barrow := p.2.barrow.map (fun b => (b.1, b.2.hosted c v)) })) })
    | none => none

/-- Arrival-queue entries of a device on a core (R70). -/
def State.arrUsed (s : State) (c : Nat) (v : VDev) : Nat :=
  ((s.core c).ctxs.map (fun p => if p.2.vdev == v then p.2.arrivals.length else 0)).foldl (· + ·) 0

/-- A context may take one more entry of the arrival-queue pool (R69, R70, R272). -/
def State.arrOpen (s : State) (c x : Nat) : Bool :=
  let k := s.ctx c x
  k.arrivals.length < k.aqd && poolOpen 16 (s.ownersAt c) OwnerEntry.resArrival (s.arrUsed c) k.vdev

/-- An arrival enters its context's arrival queue (R69, R70). While the queue is full, or an earlier arrival of the context is
in the spill area or on its way there (R190), the riddle has to write it out; none where the spill pool is exhausted. -/
def State.arrive (s : State) (c x : Nat) (a : Nat → Arrival) : Option State :=
  let (n, s') := s.nextStamp c
  let k := s.ctx c x
  if k.arrSpill.isEmpty && !(s.core c).arrOut.any (fun p => p.1 == x) && s.arrOpen c x then
    some (s'.modCtx c x (fun k => { k with arrivals := k.arrivals ++ [a n] }))
  else if s.spillOpen c k.vdev ((a n).lines true - (a n).lines false) then
    some (s'.modCore c (fun q => { q with arrOut := q.arrOut ++ [(x, a n)] }))
  else none

/-- HOP (R67, R260, R330, R331): the slot is freed and the context leaves, or goes straight to the own arrival queue. -/
def execHop (g : Guard) (a : Reg) (s : State) : Host.Outcome State Fault Refusal :=
  runInstr g (do
    let t ← thr
    if t.handler then raise 1 (headValue (.hop g a)) 0 0
    notOnRiddle (.hop g a)
    checkFields [.src a]
    if t.size > 16 then raise 11 (toW t.size) 0 0
    let p ← rd a
    let addr ← deref p
    let (c, i) ← me
    let s ← get
    let l ← leafFor c t.vdev addr p 0
    let h := homeOf (l.phys addr)
    if !s.samePart c h || !s.routeOk c h then protRights p 0 (some (l.phys addr))
    let tgt := if (s.core h).fenced then s.recordCore c h else h
    endChunk
    let pc ← nextPc
    let s ← get
    let tr := s.travel c t pc addr
    if tgt = c then
      orWait (fun s => (s.freeSlot c i true).arrive c t.ctx (fun n => .travel n tr))
    else modify (fun s => (s.freeSlot c i true).send (.context tgt tr) c t.id)
    return .stay) s

/-- SUSP (R72, R365): a set wake bit is cleared; else the thread is parked at the instruction. -/
def execSusp (g : Guard) (s : State) : Host.Outcome State Fault Refusal :=
  runInstr g (do
    notOnRiddle (.susp g)
    if (← thr).wake then
      modThr (fun t => { t with wake := false })
      return .next
    modThr (fun t => { t with status := .suspended })
    return .stay) s

/-! ## Messages and the mailbox queue -/

/-- SEND (R72, R359, R360). -/
def execSend (g : Guard) (a b : Reg) (nm1 : BitVec 3) (s : State) : Host.Outcome State Fault Refusal :=
  runNext g (do
    checkFields [.src a, .group b (nm1.toNat + 1)]
    notOnRiddle (.send g a b nm1)
    let id ← rd a
    let tgt := field id 63 44
    if field id 15 0 ≠ 0 || field id 43 38 = 62 || ((← get).core tgt).fenced then raise 2 id 0 0
    let (c, _) ← me
    if !(← get).samePart c tgt then raise 7 id 1 0
    let ws ← rdXs (regWin b) (nm1.toNat + 1)
    endChunk
    sendWait (.message tgt c (← thr).vdev id ws)) s

/-- WAITM (R74, R371). -/
def execWaitm (g : Guard) (s : State) : Host.Outcome State Fault Refusal :=
  runNext g (do
    notOnRiddle (.waitm g)
    endChunk
    let (c, _) ← me
    if ((← get).mailFor c (← thr).vdev).isEmpty then waitIrq) s

/-- MBXPOP (R74, R341). -/
def execMbxpop (g : Guard) (a : Reg) (s : State) : Host.Outcome State Fault Refusal :=
  runNext g (do
    checkFields [.group a 1]
    notOnRiddle (.mbxpop g a)
    endChunk
    let (c, i) ← me
    let t ← thr
    let s ← get
    if s.mailFree c i t.vdev = 0 then throw (.wait .mail)
    match s.mailFor c t.vdev with
    | [] => throw (.wait .mail)
    | e :: _ =>
      if regWin a + 1 + e.payload.length > t.size then raise 3 (toW t.size) (toW t.size) 0
      modify (fun s => s.modCore c (fun k => { k with mail := popMail t.vdev k.mail }))
      modify (fun s => s.setRegs c (t.base + regWin a) (e.header :: e.payload))) s

/-! ## Channels -/

/-- The channel end that an instruction names must be bound to the issuing slot in the role it needs (R78, R307). -/
def chanEnd (n : BitVec 8) (recv : Bool) : Act ChanEnd := do
  let (c, i) ← me
  match ((← get).core c).ends.find? n.toNat with
  | some e => if e.slot = i && e.recv = recv then return e else raise 2 (n.setWidth 64) 0 0
  | none => raise 2 (n.setWidth 64) 0 0

/-- Replaces a channel end. -/
def State.setEnd (s : State) (c n : Nat) (e : ChanEnd) : State := s.modCore c (fun k => { k with ends := k.ends.put n e })

/-- ALT (R79, R299): the channel ends that the mask selects are checked first. -/
def execAlt (g : Guard) (d : Reg) (mask : BitVec 5) (fair : Bool) (s : State) : Host.Outcome State Fault Refusal :=
  runNext g (do
    checkFields [.group d 2]
    notOnRiddle (.alt g d mask fair)
    let w ← rdX (regWin d + 1)
    let (c, _) ← me
    let t ← thr
    let nib (k : Nat) : Nat := w.toNat / 16 ^ k % 16
    for k in [0, 1, 2, 3] do
      if mask.getLsbD k then discard (chanEnd (BitVec.ofNat 8 (nib k)) true)
    endChunk
    let s ← get
    let ready (k : Nat) : Bool := mask.getLsbD k &&
      (if k = 4 then !(s.mailFor c t.vdev).isEmpty
       else match (s.core c).ends.find? (nib k) with | some e => !e.buf.isEmpty | none => false)
    let start := if fair then t.altLast + 1 else 0
    match ((List.range 5).map (fun k => (start + k) % 5)).find? ready with
    | some k =>
      wrX (regWin d) (toW k)
      modThr (fun t => { t with altLast := k })
    | none => waitIrq) s

/-- CHOPEN (R78, R307). -/
def execChopen (g : Guard) (n : BitVec 8) (a b : Reg) (s : State) : Host.Outcome State Fault Refusal :=
  runNext g (do
    checkFields [.num n.toNat 16, .src a, .src b]
    notOnRiddle (.chopen g n a b)
    let x ← rd a
    let y ← rd b
    let (c, i) ← me
    let s ← get
    let peer := field x 19 0
    if field x 63 24 ≠ 0 then raise 2 x 0 0
    if y.toNat > 1 then raise 2 y 0 0
    if ((s.core c).ends.find? n.toNat).isSome then raise 2 (n.setWidth 64) 0 0
    if (s.core peer).fenced || !s.samePart c peer then raise 2 x 0 0
    endChunk
    modify (fun s => s.setEnd c n.toNat ⟨i, y = 1, peer, field x 23 20, 0, []⟩)) s

/-- CHGRANT (R78, R307): a count of 0 sends nothing. -/
def execChgrant (g : Guard) (n : BitVec 8) (a : Reg) (s : State) : Host.Outcome State Fault Refusal :=
  runNext g (do
    checkFields [.num n.toNat 16, .src a]
    let e ← chanEnd n true
    let x ← rd a
    endChunk
    let (c, _) ← me
    let t ← thr
    let k := min x.toNat (2 ^ 32 - 1)
    if k ≠ 0 then modify (fun s => s.send (.grant e.peer e.peerEnd c n.toNat k) c t.id)) s

/-- CHSEND (R78, R307). -/
def execChsend (g : Guard) (n : BitVec 8) (a : Reg) (s : State) : Host.Outcome State Fault Refusal :=
  runNext g (do
    checkFields [.num n.toNat 16, .src a]
    let e ← chanEnd n false
    endChunk
    if e.allow = 0 then waitIrq
    let x ← rd a
    let (c, _) ← me
    modify (fun s => s.setEnd c n.toNat { e with allow := e.allow - 1 })
    sendWait (.channel e.peer e.peerEnd c n.toNat x)) s

/-- CHRECV (R78, R307). -/
def execChrecv (g : Guard) (d : Reg) (n : BitVec 8) (s : State) : Host.Outcome State Fault Refusal :=
  runNext g (do
    checkFields [.dst d, .num n.toNat 16]
    let e ← chanEnd n true
    endChunk
    match e.buf with
    | [] => waitIrq
    | w :: rest =>
      let (c, _) ← me
      modify (fun s => s.setEnd c n.toNat { e with buf := rest })
      wr d w) s

/-- CHCLOSE takes either role (R78, R307). -/
def execChclose (g : Guard) (n : BitVec 8) (s : State) : Host.Outcome State Fault Refusal :=
  runNext g (do
    checkFields [.num n.toNat 16]
    let (c, i) ← me
    match ((← get).core c).ends.find? n.toNat with
    | some e => if e.slot ≠ i then raise 2 (n.setWidth 64) 0 0
    | none => raise 2 (n.setWidth 64) 0 0
    endChunk
    modify (fun s => s.modCore c (fun k => { k with ends := k.ends.del n.toNat }))) s

/-! ## Arrival -/

/-- The class of a packet (R22). -/
def Packet.cls : Packet → Nat
  | .context .. | .task .. => 0
  | .credence .. => 1
  | .message .. | .mail .. | .port .. | .channel .. | .grant .. | .gauss .. | .mcmd .. => 2
  | .tile .. => 3

/-- Records, messages and deliveries keep their order of sending even where one is refused (R63, R247, R360). -/
def Packet.kept : Packet → Nat
  | .task .. => 1
  | .gauss .. => 2
  | .message .. => 3
  | _ => 0

/-- An earlier flight holds back a later one: they travel the same path in one class (R23). -/
def Flight.before (a b : Flight) : Bool :=
  a.core == b.core && a.pkt.dst == b.pkt.dst &&
  ((a.resend.isNone && a.pkt.cls == b.pkt.cls) || (a.pkt.kept != 0 && a.pkt.kept == b.pkt.kept))

/-- The flight at a place of the mesh, where it arrives now (R23, R73). -/
def State.flight? (s : State) (k : Nat) : Option Flight :=
  match s.wire[k]? with
  | none => none
  | some f => if f.resend.isSome || (s.wire.take k).any (fun a => a.before f) then none else some f

/-- A packet has been accepted: its sender goes on (R73). -/
def State.accepted (s : State) (k : Nat) (f : Flight) : State :=
  let s := { s with wire := s.wire.eraseIdx k }
  match s.threadBy f.core f.thread with
  | some (i, t) => if f.waits && t.status == .engine then s.setThread f.core i { t with status := .ready } else s
  | none => s

/-- A packet has been refused and is resent 64 cycles later (R73). -/
def State.refuseFlight (s : State) (k : Nat) (f : Flight) : State :=
  { s with wire := s.wire.set k { f with resend := some (s.now + 64) } }

/-- An arrival's outcome: accepted, or refused where it finds no room. -/
def State.outcome (s : State) (k : Nat) (f : Flight) (r : Option State) : State :=
  match r with
  | some s' => s'.accepted k f
  | none => s.refuseFlight k f

end Sys2Proof.Machine
end

