-- ==== Sys2Proof/Machine/Engine.lean ====
section
/-! DEFINITION. What the engines share: energy (R225), the issuing thread wherever it is (R43, R82), ownership of destination
lines (R150, R174, R215), reads and writes of lines (R151, R152, R283). -/

namespace Sys2Proof.Machine

/-! ## Energy and issuers -/

/-- The charge of an energy class (R225). -/
def ecCharge (ec : BitVec 2) : Nat := 1024 * 8 ^ ec.toNat

/-- EBUD's range (R225). -/
def clampEbud (i : Int) : Int := max (-((2 ^ 63 : Nat) : Int)) (min (((2 ^ 63 : Nat) : Int) - 1) i)

/-- Takes units from the issuing context's EBUD (R225). -/
def State.debit (s : State) (q : Issuer) (n : Int) : State :=
  s.modCtx q.core q.ctx (fun x => if x.vdev == q.vdev then { x with ebud := clampEbud (x.ebud - n) } else x)

/-- The true-up at completion, which the owner's energy counter follows (R225, R275). -/
def State.trueUp (s : State) (q : Issuer) (cost : Nat) : State :=
  (s.debit q ((cost : Int) - q.charge)).modOwner q.core q.vdev (fun o => { o with energy := o.energy + toW cost })

/-- The distance in slice ticks of a code that a command's request carries (R141, R374). -/
def Issuer.distOf (q : Issuer) (nu : Nat) : Option Nat := sliceDist q.period q.shift (codeDist nu)

/-- The running thread as an issuer, with what stood at its turn; its command's class is debited (R225). -/
def issuer (nu : BitVec 8) (ec : BitVec 2) : Act Issuer := do
  let (c, _) ← me
  let t ← thr
  let s ← get
  let a := match s.turn with
    | some u => u.at_
    | none => s.atIssue c t
  let q : Issuer := ⟨c, t.id, t.hops, t.ctx, t.task, t.vdev, a.code nu.toNat, a.period, a.shift, ecCharge ec, t.launch⟩
  modify (fun s => s.debit q q.charge)
  return q

/-- A command number. -/
def newCmd : Act Nat := do
  let n := (← get).nextCmd
  modify (fun s => { s with nextCmd := n + 1 })
  return n

/-- The issuing thread, if it still stands in a slot of its core, with its place. -/
def State.issuing (s : State) (q : Issuer) : Option (Nat × Thread) := s.threadBy q.core q.thread

/-- The issuing thread continues (R150). -/
def State.goOn (s : State) (q : Issuer) : State :=
  match s.issuing q with
  | some (i, t) => if t.status == .engine then s.setThread q.core i { t with status := .ready } else s
  | none => s

/-- A thread is the one that issued a command, and has not hopped since (R331, R343). -/
def Issuer.mine (q : Issuer) (t : Thread) : Bool := q.thread == t.id && q.hops == t.hops

/-- A completed command's flags are ORed into the FLAGS of the thread that issued it, if it has neither ended nor departed, and
outlive a squash (R43, R343). -/
def State.engineFlags (s : State) (q : Issuer) (f : Flags) : State :=
  s.reachThread q.thread
    (fun t => if q.mine t then
      { t with flags := t.flags ||| f, chunk := { t.chunk with flags0 := t.chunk.flags0 ||| f } } else t)
    (fun t => t)

/-- The issuing thread, if it has not ended, is to enter UHV (R82): in its slot, or once it stands in one again
(notes/assumptions/53.md). -/
def State.interrupt (s : State) (q : Issuer) (i : Irq) : State :=
  match s.placeOf q.thread with
  | some (c, k) => s.wantHandler c k i
  | none => s.reachThread q.thread (fun t => { t with pending := t.pending ++ [i] }) (fun t => { t with pending := t.pending ++ [i] })

/-! ## Ownership -/

/-- An engine's translation of a line for a command that has been accepted: while its page migrates, the page as it stood, since
the migration waits for the lines that the command owns and for the frames that it has pinned (R150, R201). -/
def State.engineLookup (s : State) (core : Nat) (v : VDev) (ga : Nat) : Xlat × State :=
  match s.lookup core v ga, s.oldLeaf v ga with
  | (.migrating, _), some l => (.ok l, s)
  | r, _ => r

/-- The physical address of a line that an accepted command reaches. -/
def State.enginePhys (s : State) (core : Nat) (v : VDev) (ga : Nat) : Option Nat :=
  match (s.engineLookup core v ga).1 with
  | .ok l => some (l.phys ga)
  | _ => none

/-- A command takes ownership of a stash entry that holds the line's bytes; stores that chunks hold for a private one wait
from now on for the engine, as every other store does (R150). -/
def State.ownEntry (s : State) (id core i : Nat) : State :=
  match (s.core core).stash.find? i with
  | some e =>
    let s := s.setEntry core i { e with owner := some id }
    if e.priv then s.publish core e.line else s
  | none => s

/-- A request at a home misses its slice, and a DRAM line is read for it (R143, R225). -/
def State.missOf (s : State) (pa : Nat) : Nat := if (s.sliceFind (pa / 64)).isNone then 1 else 0

/-- Takes ownership of a destination line for a command that a core executes: in that core's stash where it maps the
line, else at the home, after every copy is recalled (R150, R174, R215). What the frame owner check or the line's own error
refuses is logged (R131, R200): an entry that cannot be filled is poisoned, a line at its home is not owned. None where it has
to wait. -/
def State.takeLine (s : State) (q : Issuer) (id core gl : Nat) : Option State :=
  let addr := toW (64 * gl)
  match s.stashFind core gl with
  | some (i, e) =>
    if e.owner = some id then some s
    else if e.owner.isSome then none
    else if e.st ≠ .unfilled && (e.priv || e.excl) then some (s.ownEntry id core i)
    else
      let rq : Rq := ⟨core, e.ctx, q.vdev, q.distOf q.nu, addr, 1, false⟩
      let fill : Act Unit :=
        if e.st = .unfilled then do fillEntry rq i (← leafFor core q.vdev (64 * gl) addr 1) true
        else makeExcl rq i gl
      match attempt fill s with
      | .ok (_, s) => some (s.ownEntry id core i)
      | .error (.trap _ logs) =>
        let s := s.logs core q.vdev logs
        some ((s.setEntry core i { e with poison := true }).ownEntry id core i)
      | .error _ => none
  | none =>
    match s.lookup q.core q.vdev (64 * gl) with
    | (.ok l, s) =>
      let pa := l.phys (64 * gl)
      let pl := pa / 64
      let d := s.dirOf pl
      if d.engine = some id then some s
      else if d.engine.isSome then none
      else if !s.ownerOk q.core q.vdev pa then some (s.log q.core q.vdev ⟨false, some pa, 64 * gl⟩)
      else (s.recallCopies gl pl true none).map (fun s => s.setDir pl { s.dirOf pl with engine := some id })
    | (.migrating, _) => none
    | (.refused pa, s) => some (s.log q.core q.vdev ⟨false, some pa, 64 * gl⟩)
    | (.poison pa, s) => some (s.log q.core q.vdev ⟨true, some pa, 64 * gl⟩)
    | (.fault _, s) => some s

/-- The DRAM lines that taking ownership of a line costs: an unfilled entry's line is read where it misses its slice (R122,
R225). -/
def State.takeMiss (s : State) (q : Issuer) (core gl : Nat) : Nat :=
  match s.stashFind core gl, s.physOf q.core q.vdev (64 * gl) with
  | some (_, e), some pa => if e.st = .unfilled && e.owner.isNone then s.missOf pa else 0
  | _, _ => 0

/-- Takes ownership of lines in order, with the DRAM lines that it costs. -/
def State.takeLines (s : State) (q : Issuer) (id core : Nat) : List Nat → Option (State × Nat)
  | [] => some (s, 0)
  | gl :: rest => do
    let n := s.takeMiss q core gl
    let s ← s.takeLine q id core gl
    let (s, k) ← State.takeLines s q id core rest
    return (s, n + k)

/-- Directory entries without a command's ownership. -/
def disown (id : Nat) (dir : Tbl DirEntry) : Tbl DirEntry :=
  (dir.map (fun d => if d.2.engine == some id then (d.1, { d.2 with engine := none }) else d)).filter
    (fun d => d.2 != ⟨[], [], [], false, none⟩)

/-- A stash entry without a command's ownership; a slab entry that nothing was written to goes, so that reads return the
line's previous contents (R150, R172). -/
def disownEntry (id : Nat) (p : Nat × Entry) : Option (Nat × Entry) :=
  if p.2.owner == some id then
    (if p.2.reuse.clk && p.2.st == .unfilled then none else some (p.1, { p.2 with owner := none }))
  else some p

/-- Releases every line that a command owns (R150). -/
def State.releaseAll (s : State) (id : Nat) : State :=
  { s with cores := s.cores.map (fun p => (p.1, { p.2 with
    stash := p.2.stash.filterMap (disownEntry id)
    dir := disown id p.2.dir })) }

/-- Releases one line that a command has written (R150). -/
def State.releaseLine (s : State) (q : Issuer) (id core gl : Nat) : State :=
  match s.stashFind core gl with
  | some (i, e) => if e.owner = some id then s.setEntry core i { e with owner := none } else s
  | none => match s.enginePhys q.core q.vdev (64 * gl) with
    | some pa =>
      let d := s.dirOf (pa / 64)
      if d.engine = some id then s.setDir (pa / 64) { d with engine := none } else s
    | none => s

/-! ## Lines -/

/-- A source line as an engine reads it: its image, whether it is uncorrectable, and the DRAM lines that the read
cost (R151, R225, R283). -/
structure LineRead where
  img : List Byte
  bad : Bool
  dram : Nat
  deriving DecidableEq, Repr

/-- A line that an engine can no longer read counts as uncorrectable (notes/assumptions/20.md). -/
def LineRead.lost : LineRead := ⟨List.replicate 64 0, true, 0⟩

/-- An engine reads a filled entry of its core's stash, or one that an engine owns, as it stands (R140, R152, R282, R283). -/
def State.engineStash (s : State) (q : Issuer) (core gl i dram : Nat) : LineRead × State :=
  match (s.core core).stash.find? i with
  | some e =>
    let s' := (s.engineTouch core i).correctEntry core i
    (⟨e.data, e.poison, dram⟩, if e.poison then s'.log core q.vdev ⟨true, s.physOf core q.vdev (64 * gl), 64 * gl⟩ else s')
  | none => (.lost, s)

/-- An engine reads a line: from its core's stash where that maps the line, else at the home as it stands (R151, R152,
R212). A line of which an engine owns another core's copy is read as it stands and fills no entry. None where it has to
wait. -/
def State.engineRead (s : State) (q : Issuer) (core gl : Nat) : Option (LineRead × State) :=
  let rq : Rq := ⟨core, q.ctx, q.vdev, q.distOf q.nu, toW (64 * gl), 0, true⟩
  let viaLeaf (body : Leaf → Act LineRead) : Option (LineRead × State) :=
    match s.engineLookup q.core q.vdev (64 * gl) with
    | (.migrating, _) => none
    | (.ok l, s) => match attempt (body l) s with
      | .ok r => some r
      | .error (.trap _ logs) => some (.lost, s.logs q.core q.vdev logs)
      | .error _ => none
    | (.refused pa, s) => some (.lost, s.log q.core q.vdev ⟨false, some pa, 64 * gl⟩)
    | (.poison pa, s) => some (.lost, s.log q.core q.vdev ⟨true, some pa, 64 * gl⟩)
    | (.fault _, s) => some (.lost, s)
  let atHome (l : Leaf) : Act LineRead := do
    let miss := (← get).missOf (l.phys (64 * gl))
    return ⟨← homeRead rq gl (l.phys (64 * gl)), false, miss⟩
  match s.stashFind core gl with
  | some (i, e) =>
    if e.st ≠ .unfilled || e.owner.isSome then some (s.engineStash q core gl i 0)
    else viaLeaf (fun l => do
      let s ← get
      if s.ownedCopy gl (l.phys (64 * gl) / 64) (some core) then atHome l
      else
        let miss := s.missOf (l.phys (64 * gl))
        fillEntry rq i l false
        let (r, s) := (← get).engineStash q core gl i miss
        set s
        return r)
  | none => viaLeaf atHome

/-- An engine reads lines in order: their images by line, whether one was uncorrectable, the DRAM lines. -/
def State.engineReads (s : State) (q : Issuer) (core : Nat) : List Nat → Option (List (Nat × List Byte) × List Nat × Nat × State)
  | [] => some ([], [], 0, s)
  | gl :: rest =>
    match s.engineRead q core gl with
    | none => none
    | some (r, s) =>
      match s.engineReads q core rest with
      | none => none
      | some (imgs, bad, dram, s) => some ((gl, r.img) :: imgs, (if r.bad then gl :: bad else bad), dram + r.dram, s)

/-- The lines that an engine command has read. -/
abbrev Seen := List (Nat × List Byte × Bool)

/-- What a read of byte ranges gives. -/
structure RangeRead where
  bytes : List (List Byte)
  bad : Bool
  seen : Seen
  dram : Nat
  state : State

/-- Each element once, in the order of first occurrence. -/
def dedup (l : List Nat) : List Nat := l.foldl (fun acc a => if acc.contains a then acc else acc ++ [a]) []

/-- Reads byte ranges for a command, each source line once (R151). None where a line has to wait. -/
def State.readOnce (s : State) (q : Issuer) (core : Nat) (seen : Seen) (ranges : List (Nat × Nat)) : Option RangeRead :=
  let need := dedup (ranges.flatMap (fun r => linesOf r.1 r.2))
  match s.engineReads q core (need.filter (fun l => !seen.any (fun p => p.1 == l))) with
  | none => none
  | some (imgs, bad, dram, s) =>
    let seen := seen ++ imgs.map (fun p => (p.1, p.2, bad.contains p.1))
    let all := seen.map (fun p => (p.1, p.2.1))
    some ⟨ranges.map (fun r => gather all r.1 r.2), seen.any (fun p => need.contains p.1 && p.2.2), seen, dram, s⟩

/-- The reuse record of an entry that an engine writes: a use by the command's context, in its issuing task's clock where
that task lives on the core, else in slice ticks (R140, R374; notes/assumptions/20.md). -/
def State.engineUse (s : State) (q : Issuer) (core i nu : Nat) : State :=
  match (s.core core).stash.find? i with
  | none => s
  | some e =>
    let live := !e.reuse.clk && core = q.core && ((s.core core).tasks.find? q.task).isSome
    let now := if live then (s.task core q.task).bclk.toNat % 2 ^ 15 else s.sliceTick core
    let d := if live then codeDist nu else q.distOf nu
    let own := (s.ctx core e.ctx).vdev == q.vdev
    let (r, kept) := e.reuse.touch now d own q.task
    let s := s.setEntry core i { e with reuse := if own then { r with clk := !live } else r }
    if kept then s.credit core e.ctx true else s

/-- An engine writes masked bytes of a line that it owns (R150, R200, R283): in the stash where it owns the entry, else at
the home. A poisoned write poisons the line and is logged; a write that the frame owner check or the line's metadata
refuses is not made and is logged. The number is that of the DRAM lines that it cost (R225). None where it has to wait. -/
def State.engineWrite (s : State) (q : Issuer) (id core ga : Nat) (bytes : List (Byte × Nat)) (nu : Nat) (poison : Bool) :
    Option (State × Nat) :=
  let gl := ga / 64
  let bad (pa : Option Nat) (s : State) : State := s.log q.core q.vdev ⟨true, pa, ga⟩
  let home (s : State) : Option (State × Nat) :=
    match s.engineLookup q.core q.vdev ga with
    | (.migrating, _) => none
    | (.ok l, s) =>
      let pa := l.phys ga
      let pl := pa / 64
      if !s.ownerOk q.core q.vdev pa then some (s.log q.core q.vdev ⟨false, some pa, ga⟩, 0)
      else
        let miss := s.missOf pa
        ((s.recallCopies gl pl true none).bind (fun s => s.useSlice pl (q.distOf nu) q.core q.vdev)).map (fun s =>
          if s.writeBad pa bytes && (!poison || s.metaBad.contains pl) then (bad (some pa) s, miss)
          else if poison then (bad (some pa) ((s.putLine pa bytes).wrote pl), miss)
          else ((s.putLine pa bytes).wrote pl, miss))
    | (.refused pa, s) => some (s.log q.core q.vdev ⟨false, some pa, ga⟩, 0)
    | (.poison pa, s) => some (bad (some pa) s, 0)
    | (.fault _, s) => some (s, 0)
  match s.stashFind core gl with
  | some (i, e) =>
    if e.owner = some id then
      let full := bytes.length = 64 && bytes.all (fun b => b.2 == 3)
      let s := s.setEntry core i { e.merge (ga % 64) bytes with poison := poison || (e.poison && !full) }
      let s := if poison then bad (s.physOf core q.vdev (64 * gl)) s else s
      some (s.engineUse q core i nu, 0)
    else home s
  | none => home s

/-- Writes the line pieces of a byte run. -/
def State.engineWrites (s : State) (q : Issuer) (id core nu : Nat) (poison : Bool) : List (Nat × List Byte) → Option (State × Nat)
  | [] => some (s, 0)
  | (a, bs) :: rest => do
    let (s, n) ← s.engineWrite q id core a (whole bs) nu poison
    let (s, k) ← State.engineWrites s q id core nu poison rest
    return (s, n + k)

end Sys2Proof.Machine
end

