-- ==== Sys2Proof/Machine/Copies.lean ====
section
/-! DEFINITION. Copies, landings and their completion (R169-R188, R281, R283, R374), and the steps that the barrow and the
riddle take for them. -/

namespace Sys2Proof.Machine

/-! ## The enumeration -/

/-- A landing packet before its bytes are read (R171, R172, R175): its first e, its row, source and destination address,
length, and the receiving core of a slab. -/
structure Piece where
  e : Nat
  row : Nat
  src : Nat
  dst : Nat
  len : Nat
  slab : Option Nat
  deriving DecidableEq, Repr

/-- The bytes of a copy. -/
def Copy.total (y : Copy) : Nat := y.rows * y.rowbytes

/-- The receiving core of a row of a slab copy, and the destination of its first byte (R171, R172). -/
def Copy.place (y : Copy) (r : Nat) : Option Nat × Nat :=
  if y.blk = 0 then (none, ptrAddr y.dst + r * y.dpitch)
  else
    let w := y.wm1 + 1
    let q := r / y.blk
    let t := q % (w * (y.hm1 + 1))
    let u := q / (w * (y.hm1 + 1))
    (some (coreAt (y.ox + t % w) (y.oy + t / w)), ptrAddr y.dst + (u * y.blk + r % y.blk) * y.dpitch)

/-- The packet that begins at index e (R175). -/
def Copy.piece (y : Copy) (e : Nat) : Piece :=
  let r := e / y.rowbytes
  let c := e % y.rowbytes
  let (slab, base) := y.place r
  let a := (base + c) % 2 ^ 55
  ⟨e, r, (ptrAddr y.src + r * y.spitch + c) % 2 ^ 55, a, min (64 - a % 64) (y.rowbytes - c), slab⟩

/-- The packets from index e on. -/
def Copy.piecesFrom (y : Copy) : Nat → Nat → List Piece
  | 0, _ => []
  | n + 1, e => if e ≥ y.total then [] else y.piece e :: y.piecesFrom n (e + (y.piece e).len)

/-- Every packet of a copy. -/
def Copy.pieces (y : Copy) : List Piece := y.piecesFrom (y.total - y.start) y.start

/-- A destination line in the extent's form: the core of a slab line, or 0, and the line. -/
def Piece.key (p : Piece) : Nat × Nat := (p.slab.getD 0, p.dst / 64)

/-- The source lines of a packet, of which `len` bytes are read. -/
def Piece.lines (p : Piece) (len : Nat) : List Nat := linesOf p.src len

/-- A copy's extent is what its bytes reach, but for a slab with a dspan (R172). -/
def Copy.spanned (y : Copy) : Bool := y.blk ≠ 0 && y.dspan ≠ 0

/-- The extent of a slab with a dspan: the span's lines on every receiving core, one that a byte of the enumeration reaches
(R172, R174). -/
def Copy.span (y : Copy) : List (Nat × Nat) :=
  if !y.spanned then []
  else (dedup (y.pieces.filterMap Piece.slab)).flatMap (fun c => (linesOf (ptrAddr y.dst) y.dspan).map (fun l => (c, l)))

/-! ## Issue -/

/-- The four pointers' checks of CPYQ (R173): PTR_FORMAT for a dereference's formats and for fmt 7. -/
def copyPtr (p : Word) : Act Unit := do
  if ptrFormatBad (ptrFmt p) (ptrL p) || ptrFmt p = 7 then raise 5 p 0 0

/-- A generation of the partition's region-handle table (R184). -/
def State.handleGen (s : State) (c idx : Nat) : Nat :=
  match s.partOf c with
  | some n => match (s.nodes.find? n).bind (fun k => k.handles.find? idx) with
    | some h => h.gen
    | none => 1
  | none => 1

/-- A copy takes the lowest free barrow mailbox register (R173), and its thread waits for the barrow's acceptance. The state
is unchanged where all eight are full. -/
def State.placeCopy (s : State) (c i : Nat) (y : Copy) : State :=
  match (s.core c).barrow.free 8 with
  | some reg => (s.modCore c (fun k => { k with barrow := k.barrow.put reg y })).modThread c i (fun t => { t with status := .engine })
  | none => s

/-- CPYQ (R173): its checks, the descriptor's load, which is made once, and the barrow mailbox register, which is waited for
where all eight are full. The thread goes on once the barrow has accepted the request. -/
def execCpyq (g : Guard) (blk : Reg) (ec : BitVec 2) (pin : Bool) (nu : BitVec 8) (s : State) :
    Host.Outcome State Fault Refusal :=
  runNext g (do
    checkFields [.group blk 4]
    notOnRiddle (.cpyq g blk ec pin nu)
    let ws ← rdXs (regWin blk) 4
    let desc := ws.getD 2 0
    copyPtr (ws.getD 0 0)
    copyPtr (ws.getD 1 0)
    copyPtr desc
    if ptrAddr desc % 64 ≠ 0 then misalign desc
    endChunk
    let d := leWords (← loadEnd desc (ptrAddr desc) 64) 8
    let w (k : Nat) : Word := d.getD k 0
    let ctr := w 3
    if ctr ≠ 0 then
      if ptrFmt ctr ≥ 16 || ptrFmt ctr = 6 || ptrFmt ctr = 7 then raise 5 ctr 0 0
    let rows := field (w 0) 31 0
    let rb := field (w 0) 63 32
    let slab := field (w 4) 55 40
    if rb = 0 || rb > 65536 then raise 2 (w 0) 0 0
    if field (w 4) 63 56 ≠ 0 then raise 2 (w 4) 0 0
    if field (w 5) 63 11 ≠ 0 || field (w 5) 9 8 = 3 then raise 2 (w 5) 0 0
    if (w 6).toNat > rows * rb then raise 2 (w 6) 0 0
    if w 7 ≠ 0 && slab = 0 then raise 2 (w 7) 0 0
    let (c, _) ← me
    let s ← get
    let t ← thr
    let ox := field (w 4) 9 0
    let oy := field (w 4) 19 10
    let wm1 := field (w 4) 29 20
    let hm1 := field (w 4) 39 30
    if slab ≠ 0 then
      if ox + wm1 > 1023 || oy + hm1 > 1023 then raise 2 (w 4) 0 0
      let rect := (List.range ((wm1 + 1) * (hm1 + 1))).map (fun k => coreAt (ox + k % (wm1 + 1)) (oy + k / (wm1 + 1)))
      if rect.any (fun k => (s.core k).fenced || !s.samePart c k) then raise 2 (w 4) 0 0
    if ptrAddr ctr % 8 ≠ 0 then misalign ctr
    if ctr ≠ 0 then discard (checkLines c t.ctx t.vdev .rw [(ptrAddr ctr / 64, ctr)] true)
    let q ← issuer nu ec
    let id ← newCmd
    let y : Copy := {
      id := id, iss := q, src := ws.getD 0 0, dst := ws.getD 1 0, hidx := field (ws.getD 3 0) 15 0
      hgen := field (ws.getD 3 0) 31 16, tag := BitVec.ofNat 32 (field (ws.getD 3 0) 63 32), rows := rows
      rowbytes := rb, spitch := (w 1).toNat, dpitch := (w 2).toNat, ctr := ctr.toNat, ox := ox, oy := oy, wm1 := wm1
      hm1 := hm1, blk := slab, land := field (w 5) 7 0, cmode := field (w 5) 9 8, intr := bitOf (w 5).toNat 10
      start := (w 6).toNat, dspan := (w 7).toNat, pin := pin, st := .waiting, e := (w 6).toNat, stopAt := rows * rb
      faultAt := none, status := none, revoked := false, cancelled := false, sent := 0, flying := 0, landed := 0
      firstLost := none, rowsDone := [], extent := [], linesDone := [], seen := [], pinned := [], hosts := [], dram := 0, owed := 0 }
    let (_, i) ← me
    modThr (fun t => { t with status := .copy y })
    modify (fun s => s.placeCopy c i y)) s

/-- The copies of a core with a tag, oldest first. -/
def State.copiesOf (s : State) (c : Nat) (tag : Half) : List (Nat × Copy) :=
  ((s.core c).barrow.filter (fun p => p.2.tag == tag)).mergeSort (fun a b => a.2.id ≤ b.2.id)

/-- CPYST (R187). -/
def execCpyst (g : Guard) (d a : Reg) (s : State) : Host.Outcome State Fault Refusal :=
  runNext g (do
    checkFields [.dst d, .src a]
    let x ← rd a
    let (c, _) ← me
    match (← get).copiesOf c (x.extractLsb' 0 32) with
    | [] => wr d 0
    | (_, y) :: _ =>
      let st := match y.st with | .waiting => 1 | .reading => 2 | .sent => 3
      wr d (toW (st + min y.sent (2 ^ 48 - 1) * 65536))) s

/-- CPYCAN (R186). -/
def execCpycan (g : Guard) (a : Reg) (s : State) : Host.Outcome State Fault Refusal :=
  runNext g (do
    checkFields [.src a]
    let x ← rd a
    endChunk
    let (c, _) ← me
    modify (fun s => s.modCore c (fun k => { k with barrow := k.barrow.map (fun p =>
      if p.2.tag == x.extractLsb' 0 32 && p.2.st != .sent then (p.1, { p.2 with cancelled := true }) else p) }))) s

/-! ## Acceptance -/

/-- The state with a copy replaced. -/
def State.setCopy (s : State) (c reg : Nat) (y : Copy) : State :=
  s.modCore c (fun k => { k with barrow := k.barrow.put reg y })

/-- The failure of a copy's page (R174, R185), at its acceptance or once it is accepted: cause and physical address; none where it
has to wait. -/
def State.copyFault (s : State) (q : Issuer) (a : Nat) (write : Bool) (accepted : Bool := false) :
    Option (Option (Nat × Option Nat) × State) :=
  match (if accepted then s.engineLookup q.core q.vdev a else s.lookup q.core q.vdev a) with
  | (.ok l, s) =>
    let b := s.rights q.core q.ctx l.domain
    let ok := (if write then b.getLsbD 1 else b.getLsbD 0) && s.ownerOk q.core q.vdev (l.phys a)
    some (if ok then none else some (7, some (l.phys a)), s)
  | (.migrating, _) => none
  | (.refused pa, s) => some (some (7, some pa), s)
  | (.fault _, s) => some (some (8, none), s)
  | (.poison pa, s) => some (some (8, none), s.log q.core q.vdev ⟨true, some pa, a⟩)

/-- A copy that ends at acceptance, nothing moved. -/
def State.endCopy (s : State) (c reg : Nat) (y : Copy) (status : Nat) : State :=
  (s.setCopy c reg { y with st := .sent, status := some status, stopAt := y.e }).goOn y.iss

/-- The pages of `.pin` (R174): the frames to pin, or none of them where a page fails, a PROTECTION being logged (R209). None
where one has to wait. -/
def State.pinFrames (s : State) (q : Issuer) (fs : List Nat) : List (Nat × Bool) → Option (Option (List Nat) × State)
  | [] => some (some fs, s)
  | (a, w) :: rest =>
    match s.copyFault q a w with
    | none => none
    | some (some (cause, pa), s) => some (none, if cause = 7 then s.log q.core q.vdev ⟨false, pa, a⟩ else s)
    | some (none, s) =>
      match s.translate q.core q.vdev a with
      | .ok l => if s.frameMoving l then none else State.pinFrames s q (if fs.contains l.pa then fs else fs ++ [l.pa]) rest
      | _ => some (none, s)

/-- Changes the engine pin counts of frames (R174, R201). -/
def State.pinEngine (s : State) (frames : List Nat) (up : Bool) : State :=
  { s with pins := frames.foldl (fun t f =>
      let p := t.get f ⟨0, 0⟩
      t.put f { p with engine := if up then p.engine + 1 else p.engine - 1 }) s.pins }

/-- Takes one extent line of a copy (R150, R172, R174): a slab line in the receiving core's stash, mapped there as a
private entry of the device's context where it is not mapped; else at the home. -/
def State.takeExtent (s : State) (y : Copy) (key : Nat × Nat) : Option State :=
  if y.blk = 0 then s.takeLine y.iss y.id (2 ^ 20) key.2
  else match s.stashFind key.1 key.2 with
    | some _ => s.takeLine y.iss y.id key.1 key.2
    | none =>
      match s.ctxOf key.1 y.iss.vdev with
      | none => some s
      | some x =>
        let dom := match s.translate y.iss.core y.iss.vdev (64 * key.2) with | .ok l => l.domain | _ => 0
        (s.mapLine key.1 key.2 x true dom (s.sliceTick key.1) (y.iss.distOf y.iss.nu) 64 true).map (fun p =>
          p.1.ownEntry y.id key.1 p.2)

/-- Takes the extent lines that the enumeration reaches, in the order of their first bytes, up to the fault point
(R174); with a span, a line outside it is checked and not owned (R172). None where one has to wait. -/
def State.takeReached (s : State) (y : Copy) (span : List (Nat × Nat)) : List Piece → Option (State × Copy)
  | [] => some (s, y)
  | p :: rest =>
    if y.extent.contains p.key then s.takeReached y span rest
    else match (if y.pin then some (none, s) else s.copyFault y.iss p.dst true) with
      | none => none
      | some (some (cause, pa), s) => some (s, { y with stopAt := p.e, faultAt := some (cause, p.dst, pa) })
      | some (none, s) =>
        if y.spanned && !span.contains p.key then State.takeReached s y span rest
        else match s.takeExtent y p.key with
          | none => none
          | some s' =>
            State.takeReached s' { y with extent := y.extent ++ [p.key], dram := y.dram + s.takeMiss y.iss p.key.1 p.key.2 } span rest

/-- Takes the further lines of a slab's span; one that fails its checks is left out (R174), a PROTECTION being logged (R200,
R209). -/
def State.takeSpan (s : State) (y : Copy) : List (Nat × Nat) → Option (State × Copy)
  | [] => some (s, y)
  | k :: rest =>
    if y.extent.contains k then s.takeSpan y rest
    else match s.copyFault y.iss (64 * k.2) true with
      | none => none
      | some (some (cause, pa), s) =>
        State.takeSpan (if cause = 7 then s.log y.iss.core y.iss.vdev ⟨false, pa, 64 * k.2⟩ else s) y rest
      | some (none, s) => match s.takeExtent y k with
        | none => none
        | some s' => State.takeSpan s' { y with extent := y.extent ++ [k], dram := y.dram + s.takeMiss y.iss k.1 k.2 } rest

/-- The cores that receive packets of a copy (R171, R172). -/
def State.receivers (s : State) (y : Copy) : List Nat :=
  dedup (y.pieces.filterMap (fun p => match p.slab with
    | some rc => some rc
    | none => (s.physOf y.iss.core y.iss.vdev p.dst).map homeOf))

/-- The barrow accepts a request (R174): handle, pins, contexts, ownership. With `.pin`, the page of a span line that no byte
reaches counts as a destination page, and the copy is refused where it fails (notes/assumptions/74.md). None where it has to
wait. -/
def State.acceptCopy (s : State) (c reg : Nat) (y : Copy) : Option State :=
  if y.hidx ≠ 0 && s.handleGen c y.hidx ≠ y.hgen then some (s.endCopy c reg y 1)
  else
    let ps := y.pieces
    let pages := ps.flatMap (fun p => [(p.src, false), ((p.src + p.len - 1) % 2 ^ 55, false), (p.dst, true)])
    let span := y.span
    let pages := pages ++ span.map (fun k => (64 * k.2, true))
    match (if y.pin then s.pinFrames y.iss [] pages else some (some [], s)) with
    | none => none
    | some (none, s) => some (s.endCopy c reg y 4)
    | some (some frames, s) =>
      if frames.any (fun f => (s.pins.get f ⟨0, 0⟩).engine ≥ 65535) then some (s.endCopy c reg y 4)
      else
        let s := s.pinEngine frames true
        let cores := s.receivers y
        let y := { y with pinned := frames, hosts := cores.filter (fun k => (s.ctxOf k y.iss.vdev).isSome) }
        if y.blk ≠ 0 && cores.any (fun k => !y.hosts.contains k) then some (s.endCopy c reg y 7)
        else match s.takeReached y span ps with
          | none => none
          | some (s, y) =>
            match (if y.faultAt.isSome then some (s, y) else s.takeSpan y span) with
            | none => none
            | some (s, y) => some ((s.setCopy c reg { y with st := .reading }).goOn y.iss)

/-- BARROW_ACCEPT: the lowest-numbered waiting request (R174). None where there is none, or it has to wait. -/
def State.barrowAccept (s : State) (c : Nat) : Option State :=
  match List.find? (fun p => p.2.st == .waiting) (s.core c).barrow with
  | some (reg, y) => s.acceptCopy c reg y
  | none => none

/-- BARROW_ACCEPT (R174). -/
def execBarrowAccept (core : CoreId) (s : State) : Host.Outcome State Fault Refusal :=
  .next ((s.barrowAccept core.toNat).getD s)

/-! ## Reading and sending -/

/-- Landing packets of a device that a core holds (R272). -/
def State.landingUsed (s : State) (c : Nat) (v : VDev) : Nat :=
  ((s.core c).landing.filter (fun p => match s.copyOf p with
    | some y => y.iss.vdev == v
    | none => false)).length

/-- A receiving core takes one more landing packet of a device (R158, R272). -/
def State.landingOpen (s : State) (c : Nat) (v : VDev) : Bool :=
  !(s.core c).drained && poolOpen 32 (s.ownersAt c) OwnerEntry.resLanding (s.landingUsed c) v

/-- The bytes of a packet from the lines read. -/
def Copy.bytesAt (y : Copy) (a : Nat) : Nat → List Byte
  | 0 => []
  | n + 1 =>
    (match y.seen.find? (fun p => p.1 == a / 64) with
     | some p => p.2.1.getD (a % 64) 0
     | none => 0) :: y.bytesAt ((a + 1) % 2 ^ 55) n

/-- Sends the packet at the copy's present index, if its lines are read and its receiver takes it (R175). One whose route
crosses a failed boundary gets an error response, and a PROTECTION is logged (R285); it has not landed. -/
def State.sendPiece (s : State) (c reg : Nat) (y : Copy) : Option (State × Copy) :=
  if y.e ≥ y.stopAt then none
  else
    let p := y.piece y.e
    let len := min p.len (y.stopAt - y.e)
    let lines := p.lines len
    if lines.any (fun l => !y.seen.any (fun q => q.1 == l)) then none
    else
      let bad := y.seen.any (fun q => lines.contains q.1 && q.2.2)
      let k : LandPkt := ⟨c, reg, y.id, p.e, p.dst, p.row, y.bytesAt p.src len, bad⟩
      let y' := { y with e := y.e + len, sent := y.sent + len, flying := y.flying + 1 }
      let lost : Copy := { y' with
        flying := y.flying, firstLost := optMin y.firstLost p.e, stopAt := min y.stopAt y'.e
        status := if y.status.isNone then some 6 else y.status }
      let tgt (s : State) (rc : Nat) (pa : Option Nat) : Option (State × Copy) :=
        if !s.routeOk c rc then some (s.log c y.iss.vdev ⟨false, pa, p.dst⟩, lost)
        else if s.landingOpen rc y.iss.vdev then some (s.modCore rc (fun q => { q with landing := q.landing ++ [k] }), y')
        else none
      match p.slab with
      | some rc => tgt s rc none
      | none => match s.engineLookup y.iss.core y.iss.vdev p.dst with
        | (.ok l, s) => tgt s (homeOf (l.phys p.dst)) (some (l.phys p.dst))
        | (.migrating, _) => none
        | (_, s) => some (s, lost)

/-- Sends packets while that is possible. -/
def State.sendPieces (s : State) (c reg : Nat) (y : Copy) : Nat → State × Copy
  | 0 => (s, y)
  | n + 1 => match s.sendPiece c reg y with
    | some (s, y) => s.sendPieces c reg y n
    | none => (s, y)

/-- A copy whose last packet has been sent is sent (R187). -/
def Copy.settled (y : Copy) : Copy :=
  if y.e ≥ y.stopAt then { y with st := .sent, status := if y.status.isNone && y.faultAt.isSome then some 5 else y.status } else y

/-- The next turn of an active register on the copy datapath (R151, R174, R175, R183, R185, R186): it stops, or reads one
source line and sends what is complete. The bytes of a packet that precede a source fault inside it land as a shorter packet
(R185 lets every earlier packet land and does not say what becomes of them; notes/assumptions/65.md). None where it has to
wait. -/
def State.copyRead (s : State) (c reg : Nat) (y : Copy) : Option State :=
  if y.e ≥ y.stopAt then some (s.setCopy c reg y.settled)
  else if y.cancelled then
    some (s.setCopy c reg { y with st := .sent, stopAt := y.e, status := if y.status.isNone then some 3 else y.status })
  else if y.hidx ≠ 0 && s.handleGen c y.hidx ≠ y.hgen then
    some (s.setCopy c reg { y with st := .sent, stopAt := y.e, status := if y.status.isNone then some 2 else y.status })
  else
    let p := y.piece y.e
    let len := min p.len (y.stopAt - y.e)
    match (p.lines len).find? (fun l => !y.seen.any (fun q => q.1 == l)) with
    | some gl =>
      let a := if gl = p.src / 64 then p.src else 64 * gl
      match (if y.pin then some (none, s) else s.copyFault y.iss a false true) with
      | none => none
      | some (some (cause, pa), s) =>
        let e := y.e + (a + 2 ^ 55 - p.src) % 2 ^ 55
        let (s, y) := s.sendPieces c reg { y with
          stopAt := e, faultAt := some (cause, a, pa), status := if y.status.isNone then some 5 else y.status } 1
        some (s.setCopy c reg y.settled)
      | some (none, s) => match s.engineRead y.iss c gl with
        | none => none
        | some (r, s) =>
          let (s, y) := s.sendPieces c reg { y with seen := y.seen ++ [(gl, r.img, r.bad)], dram := y.dram + r.dram } 64
          some (s.setCopy c reg y.settled)
    | none => match s.sendPiece c reg y with
      | some (s, y) =>
        let (s, y) := s.sendPieces c reg y 64
        some (s.setCopy c reg y.settled)
      | none => none

/-- The first active register from the rotation's place on that can go on. -/
def State.copyTurn (s : State) (c : Nat) : Option State :=
  let k := s.core c
  ((List.range 8).map (fun n => (k.barrowNext + n) % 8)).findSome? (fun reg =>
    match k.barrow.find? reg with
    | some y =>
      if y.st == .reading then (s.copyRead c reg y).map (fun s => s.modCore c (fun k => { k with barrowNext := (reg + 1) % 8 }))
      else none
    | none => none)

/-- COPY_LINE_READ (R175). -/
def execCopyLineRead (core : CoreId) (s : State) : Host.Outcome State Fault Refusal := .next ((s.copyTurn core.toNat).getD s)

/-! ## Landing -/

/-- An arrival counter's addition, made by a receiving core at the counter's home, and the DRAM lines that it cost (R127, R148,
R179, R225). None where it has to wait. -/
def State.counterAdd (s : State) (q : Issuer) (from_ : Nat) (ctr : Word) (n : Nat) : Option (State × Nat) :=
  let a := ptrAddr ctr
  let no (pa : Option Nat) (s : State) : Option (State × Nat) := some (s.log q.core q.vdev ⟨false, pa, a⟩, 0)
  match s.engineLookup q.core q.vdev a with
  | (.migrating, _) => none
  | (.ok l, s) =>
    let pa := l.phys a
    let pl := pa / 64
    let b := s.rights q.core q.ctx l.domain
    if !(b.getLsbD 0 && b.getLsbD 1) || !s.ownerOk q.core q.vdev pa then no (some pa) s
    else if !s.portOpen (homeOf pa) from_ true || (s.dirOf pl).engine.isSome then none
    else
      let miss := s.missOf pa
      ((s.recallCopies (a / 64) pl true none).bind (fun s => s.useSlice pl (q.distOf q.nu) q.core q.vdev)).map (fun s =>
        let s := s.correct pl
        let s := s.modCore (homeOf pa) (fun k => k.takePort s.now (portInto (homeOf pa) from_))
        if s.bad pl then (s.log q.core q.vdev ⟨true, some pa, a⟩, miss)
        else (((s.putWord pa (s.wordAt pa + toW n)).wrote pl).squashLine (a / 64), miss))
  | (.refused pa, s) => no (some pa) s
  | (_, s) => no none s

/-- DRAM lines that a packet's landing cost its copy (R225). -/
def State.costCopy (s : State) (p : LandPkt) (n : Nat) : State := s.modCopy p (fun y => { y with dram := y.dram + n })

/-- The bytes of a copy's enumeration that one destination line receives. -/
def Copy.bytesOf (y : Copy) (key : Nat × Nat) : Nat :=
  (y.pieces.map (fun p => if p.key == key then p.len else 0)).foldl (· + ·) 0

/-- Adds to a count kept by extent line. -/
def addCount (l : List ((Nat × Nat) × Nat)) (k : Nat × Nat) (n : Nat) : List ((Nat × Nat) × Nat) :=
  match l.find? (fun p => p.1 == k) with
  | some p => l.map (fun q => if q.1 == k then (k, p.2 + n) else q)
  | none => l ++ [(k, n)]

/-- The copy's counter lies in a line that the copy itself still owns (R150, R179). -/
def State.ownsCounter (s : State) (y : Copy) : Bool :=
  match s.enginePhys y.iss.core y.iss.vdev (y.ctr % 2 ^ 55) with
  | some pa => (s.dirOf (pa / 64)).engine == some y.id
  | none => false

/-- Steps of a copy's counter are added at its home (R179); steps for a counter in a line that the copy owns wait until it has
written that line (R150). None where the counter's line has to wait. -/
def State.countLanding (s : State) (c : Nat) (p : LandPkt) (y : Copy) (step : Nat) : Option State :=
  let n := step + y.owed
  if y.ctr = 0 || n = 0 then some s
  else if s.ownsCounter y then some (s.modCopy p (fun y => { y with owed := n }))
  else (s.counterAdd y.iss c (toW y.ctr) n).map (fun r =>
    r.1.modCopy p (fun y => { y with owed := 0, dram := y.dram + r.2 }))

/-- A packet completes landing on a core (R178, R179): the counts, the release of a directly written line whose last byte has
landed (R150), and the counter. None where the counter's line has to wait. -/
def State.landed (s : State) (c : Nat) (p : LandPkt) : Option State :=
  match s.copyOf p with
  | none => some s
  | some y =>
    let n := p.bytes.length
    let key := (y.piece p.e).key
    let row := y.rowsDone.get p.row 0 + n
    let whole := (p.row + 1) * y.rowbytes - max y.start (p.row * y.rowbytes)
    let step := if y.cmode = 0 then 1 else if y.cmode = 2 then n else if row = whole then 1 else 0
    let lines := addCount y.linesDone key n
    let s := s.modCopy p (fun y => { y with
      flying := y.flying - 1, landed := y.landed + n, rowsDone := y.rowsDone.put p.row row, linesDone := lines })
    let finished := lines.any (fun q => q.1 == key && q.2 == y.bytesOf key)
    let at_ := match (y.piece p.e).slab with | some rc => rc | none => 2 ^ 20
    (if y.land = 0 && finished then s.releaseLine y.iss y.id at_ key.2 else s).countLanding c p y step

/-- A core has acknowledged a revocation (R183). -/
def State.acked (s : State) (c : Nat) (y : Copy) : Bool :=
  match (s.partOf y.iss.core).bind (fun n => s.nodes.find? n) with
  | some k => !k.revokes.any (fun r => r.idx == y.hidx && r.waiting.contains c)
  | none => true

/-- The registers of a landing handler on entry (R176). -/
def landRegs (y : Copy) (p : LandPkt) : List Word :=
  let off := p.addr % 64
  let img := List.replicate off 0 ++ p.bytes ++ List.replicate (64 - off - p.bytes.length) 0
  leWords img 8 ++
  [mkPtr (ptrFmt y.dst) (ptrL y.dst) (p.addr / 64 * 64), toW (p.bytes.length + off * 256 + p.row * 2 ^ 32),
   y.tag.setWidth 64, toW p.e] ++ List.replicate 20 0

/-- The riddle starts the handler of a packet (R56, R176): an entry of 0, and a transfer that traps, end the copy. -/
def State.startHandler (s : State) (c : Nat) (y : Copy) (p : LandPkt) : State :=
  let entry := match (s.core y.iss.core).ctxs.find? y.iss.ctx with
    | some x => if x.vdev == y.iss.vdev then x.landing.get y.land 0 else 0
    | none => 0
  if entry = 0 || (ptrFmt entry ≠ 0 && ptrFmt entry ≠ 15) || ptrAddr entry % 2 = 1 then s.lost p 6
  else
    let s := s.setRegs c Config.riddleBase (landRegs y p)
    let t : Thread := { Thread.blank with
      ctx := 63, task := 64, vdev := y.iss.vdev, base := Config.riddleBase, size := Config.riddleSize
      pc := BitVec.ofNat 55 (ptrAddr entry) }
    let t := { t with chunk := Chunk.fresh t [] }
    (s.setThread c 63 t).modCore c (fun k => { k with landRun := some ⟨p, y.iss.ctx, y.iss.vdev, 0⟩ })

/-- LANDING_PACKET: the oldest packet of a core lands or starts its handler (R56, R175, R176, R183, R281). A slab line outside
the extent is owned for the write alone (R172). None where it has to wait. -/
def State.landPacket (s : State) (c : Nat) : Option State :=
  match (s.core c).landing with
  | [] => none
  | p :: rest =>
    let s0 := s.modCore c (fun k => { k with landing := rest })
    match s.copyOf p with
    | none => some s0
    | some y =>
      let slab := (y.piece p.e).slab
      if y.hosts.contains c && (s.ctxOf c y.iss.vdev).isNone then some (s0.lost p 6)
      else if y.hidx ≠ 0 && s.handleGen y.iss.core y.hidx ≠ y.hgen && s.acked c y then some (s0.lost p 2)
      else if y.land = 0 then
        let refused := slab.isNone && match s.translate y.iss.core y.iss.vdev p.addr with
          | .ok l => !s.ownerOk y.iss.core y.iss.vdev (l.phys p.addr)
          | .migrating => false
          | _ => true
        let at_ := match slab with | some rc => rc | none => 2 ^ 20
        let key := (y.piece p.e).key
        let owned := !y.spanned || y.extent.contains key
        do
          let fill := if owned then 0 else s0.takeMiss y.iss key.1 key.2
          let s ← if owned then some s0 else s0.takeExtent y key
          let (s, n) ← s.engineWrite y.iss y.id at_ p.addr (whole p.bytes) y.iss.nu p.poison
          let s := (if owned then s else s.releaseLine y.iss y.id at_ key.2).costCopy p (n + fill)
          if refused then some (s.lost p 6) else s.landed c p
      else if (s.core c).landRun.isSome then none
      else some (s0.startHandler c y p)

/-- LANDING_PACKET (R176). -/
def execLandingPacket (core : CoreId) (s : State) : Host.Outcome State Fault Refusal := .next ((s.landPacket core.toNat).getD s)

/-- The packet and the copy of the running landing handler. -/
def landing (i : Instr) : Act (LandPkt × Copy) := do
  let (c, _) ← me
  if !(← onRiddle) then raise 1 (headValue i) 0 0
  let s ← get
  match (s.core c).landRun with
  | none => raise 1 (headValue i) 0 0
  | some r => match s.copyOf r.pkt with
    | some y => return (r.pkt, y)
    | none => raise 1 (headValue i) 0 0

/-- LANDST (R177): a write outside the copy's extent on the core ends the copy. -/
def execLandst (g : Guard) (d b : Reg) (m : MMod) (nu : BitVec 8) (off : BitVec 16) (s : State) :
    Host.Outcome State Fault Refusal :=
  runNext g (do
    let (p, y) ← landing (.landst g d b m nu off)
    checkFields [.src d, .base b]
    let base ← rd b
    let r := memRef base off m.fo.toNat
    if ptrFmt base ≥ 16 || r.fmt ≥ 16 || ptrFmt base = 6 || ptrFmt base = 7 || r.fmt = 6 || r.fmt = 7 then
      raise 5 r.ptr 0 0
    if r.at_ % elemSize r.fmt ≠ 0 then misalign r.ptr
    let v ← rd d
    let slab := (y.piece p.e).slab
    let key := (slab.getD 0, r.at_ / 64)
    if !y.extent.contains key then raise 7 (addrDetail r.ptr) 1 0
    let (c, _) ← me
    let s ← get
    if slab.isNone then
      match s.enginePhys y.iss.core y.iss.vdev r.at_ with
      | some pa => if homeOf pa ≠ c then raise 7 (addrDetail r.ptr) 1 0
      | none => raise 7 (addrDetail r.ptr) 1 0
    let at_ := match slab with | some rc => rc | none => 2 ^ 20
    let code := if nu = 255 then y.iss.nu else nu.toNat
    orWait (fun s => (s.engineWrite y.iss y.id at_ r.at_ (whole (leBytes (elemSize r.fmt) v.toNat)) code p.poison).map
      (fun w => w.1.costCopy p w.2))) s

/-- LANDEND (R178). -/
def execLandend (g : Guard) (s : State) : Host.Outcome State Fault Refusal :=
  runInstr g (do
    let (p, _) ← landing (.landend g)
    let (c, _) ← me
    orWait (fun s => s.landed c p)
    modify (fun s => s.riddleFree c)
    return .stay) s

/-! ## Completion -/

/-- The mailbox record of a copy (R181). -/
def Copy.record (y : Copy) (status next : Nat) : Mail :=
  if status = 5 then
    let (cause, addr, _) := y.faultAt.getD (0, 0, none)
    ⟨y.iss.vdev, 5, y.iss.core, y.tag, [toW (5 + cause * 16), toW addr, toW y.landed, toW next]⟩
  else ⟨y.iss.vdev, 2, y.iss.core, y.tag, [toW status, toW y.landed, toW next]⟩

/-- The counter steps that a copy's own lines have held up, once they are released (R150, R179), with the DRAM lines that they
cost. None where the counter's line has to wait. -/
def State.countOwed (s : State) (y : Copy) : Option (State × Nat) :=
  if y.owed = 0 then some (s, 0) else s.counterAdd y.iss y.iss.core (toW y.ctr) y.owed

/-- COPY_COMPLETION: every packet has completed or been refused (R181, R182, R185, R225): lines released, pins dropped,
the record sent, the interrupt asked for, the register freed. -/
def State.copyDone (s : State) (c reg : Nat) : Option State :=
  match (s.core c).barrow.find? reg with
  | none => none
  | some y =>
    if y.st != .sent || y.flying ≠ 0 then none
    else match (s.releaseAll y.id).countOwed y with
    | none => none
    | some (s, miss) =>
      let status := if y.revoked then 2 else y.status.getD 0
      let next := match y.firstLost with
        | some e => min e y.e
        | none => y.e
      let s := s.pinEngine y.pinned false
      let s := s.modCore c (fun k => { k with barrow := k.barrow.del reg })
      let s := s.send (.mail c (y.record status next)) c
      let s := s.trueUp y.iss (if status = 1 || status = 4 || status = 7 then 0 else 8 * y.seen.length + 21 * (y.dram + miss))
      let (cause, addr, pa) := y.faultAt.getD (0, 0, none)
      let s := if cause = 7 then s.log c y.iss.vdev ⟨false, pa, addr⟩ else s
      if status = 5 then
        some (s.interrupt y.iss ⟨cause, true, toW addr, toW next, y.tag.setWidth 64, false⟩)
      else if y.intr then
        some (s.interrupt y.iss
          ⟨if status = 1 || status = 2 then 16 else 32, false, y.tag.setWidth 64, toW status, toW y.landed, false⟩)
      else some s

/-- COPY_COMPLETION (R181). -/
def execCopyCompletion (core : CoreId) (reg : Nat) (s : State) : Host.Outcome State Fault Refusal :=
  .next ((s.copyDone core.toNat reg).getD s)

end Sys2Proof.Machine
end

