-- ==== Sys2Proof/Machine/Matrix.lean ====
section
/-! DEFINITION. The matrix unit (R44-R46, R211-R225, R283, R288, R342, R343, R346): its instructions, its two queues, and
the steps that it takes. -/

namespace Sys2Proof.Machine

/-! ## Operands -/

/-- The format code that a tail's fmt field or a pointer names (R112). -/
def mfmtCode (f : MFmt) (p : Word) : Nat := if f = .ptr then ptrFmt p else f.num

/-- k per tile step and cycles per step (R211). -/
def tileK (f : Nat) : Nat := if f = 2 || f = 3 then 16 else 32

/-- Cycles of one tile step (R211). -/
def tileCycles (f : Nat) : Nat := if f = 2 || f = 3 then 1024 else if f = 7 then 256 else 512

/-- A or B as a pointer of its effective format (R212, R335). -/
def operandPtr (p : Word) (fmt : Nat) : Word :=
  let r := memRef p 0 fmt
  mkPtr fmt r.l r.at_

/-- The address of element `k` of an operand (R51, R212). -/
def elemAddr (p : Word) (k : Nat) : Nat :=
  match padd p k with
  | .ok q => ptrAddr q
  | _ => ptrAddr p

/-- The byte ranges of `n` consecutive elements from index `k`, a block and its exponents for BFP. -/
def elemRanges (p : Word) (k n : Nat) : List (Nat × Nat) :=
  let a := elemAddr p k
  let f := ptrFmt p
  if f = 6 || f = 7 then
    match bfpPlace (f == 6) (ptrL p) a with
    | some b => [(b.byte, if f = 6 then 32 else 16), (b.e0, 2)]
    | none => []
  else [(a, n * elemSize f)]

/-- The byte ranges of a row of `k` elements from index `i`, in groups of 32. -/
def rowRanges (p : Word) (i k : Nat) : List (Nat × Nat) :=
  (List.range (ceilDiv k 32)).flatMap (fun g => elemRanges p (i + 32 * g) (min 32 (k - 32 * g)))

/-- Elements from the bytes of their ranges, as a code and its exponent byte. -/
def elemCodes (f : Nat) (bs : List (List Byte)) : List (Nat × Nat) :=
  let e := bs.getD 0 []
  if f = 6 || f = 7 then
    (blockCodes (f == 6) e).map (fun c => (c, ((bs.getD 1 []).getD (if bfpSel (f == 6) c then 1 else 0) 0).toNat))
  else if f = 2 || f = 3 then (List.range (e.length / 2)).map (fun k => (leNat ((e.drop (2 * k)).take 2), 0))
  else e.map (fun b => (b.toNat, 0))

/-- An element's value (R35, R37, R44). -/
def elemVal (f : Nat) (c : Nat × Nat) : FVal :=
  if f = 6 || f = 7 then bfpVal (f == 6) c.1 c.2
  else if f = 8 then intVal (sintOf 8 c.1)
  else unpack (codeFmt f) c.1

/-! ## The order of accumulation -/

/-- A product with its tile scales (R45). -/
def scaled (sc : Int) : FVal → FVal
  | .num s m e => .num s m (e + sc)
  | v => v

/-- One group into one accumulator (R44). -/
def accumulate (int : Bool) (sc : Int) (acc : Nat) (as bs : List FVal) : Nat × Flags :=
  if int then
    let v := sintOf 32 acc + ((as.zip bs).map (fun p => p.1.dyadic.m * p.2.dyadic.m)).foldl (· + ·) 0
    let lo : Int := -((2 ^ 31 : Nat) : Int)
    let hi : Int := ((2 ^ 31 : Nat) : Int) - 1
    if v < lo then ((lo % (2 ^ 32 : Nat)).toNat, flagIS) else if v > hi then (hi.toNat, flagIS) else ((v % (2 ^ 32 : Nat)).toNat, 0)
  else
    let ps := (as.zip bs).map (fun p => mulVal p.1 p.2)
    let nv := (ps.map Prod.snd).foldl (· ||| ·) 0
    let (sum, f) := exactSum false (ps.map (fun p => scaled sc p.1))
    let (r, g) := sumRound .fp32 .ne false [unpack .fp32 acc, sum]
    (r, nv ||| f ||| g)

/-! ## Issue -/

/-- The fields of a command descriptor, or of the single step (R213). -/
structure MDesc where
  m : Nat
  n : Nat
  k : Nat
  lda : Nat
  ldb : Nat
  ldc : Nat
  trig : Word
  thr : Nat
  rag : Word
  init : Bool
  notify : Bool
  intr : Bool
  tag : Half
  cap : Word
  /-- Reserved bits are set. -/
  bad : Bool
  deriving DecidableEq, Repr

/-- The single step (R213). -/
def MDesc.single (kt : Nat) : MDesc := ⟨16, 16, kt, kt, kt, 16, 0, 0, 0, false, false, false, 0, 0, false⟩

/-- A descriptor line (R213). -/
def MDesc.read (w : List Word) : MDesc :=
  let g (i : Nat) : Word := w.getD i 0
  ⟨field (g 0) 15 0, field (g 0) 31 16, field (g 0) 47 32, field (g 1) 15 0, field (g 1) 31 16, field (g 1) 47 32,
   g 2, (g 3).toNat, g 4, bitOf (g 5).toNat 0, bitOf (g 5).toNat 1, bitOf (g 5).toNat 2,
   BitVec.ofNat 32 (field (g 5) 63 32), g 6,
   field (g 0) 63 48 ≠ 0 || field (g 1) 63 48 ≠ 0 || field (g 5) 31 3 ≠ 0 || g 7 ≠ 0⟩

/-- The lines of C that a command writes (R212). -/
def cLines (c : Word) (rows n ldc : Nat) : List Nat :=
  dedup ((List.range rows).flatMap (fun i => linesOf ((ptrAddr c + 4 * i * ldc) % 2 ^ 55) (4 * n)))

/-- A BFP operand must begin a block (R212). -/
def operandForm (p : Word) : Act Unit := do
  let f := ptrFmt p
  if f = 6 || f = 7 then
    match bfpPlace (f == 6) (ptrL p) (ptrAddr p) with
    | some b => if b.j % 32 ≠ 0 then raise 2 p 0 0
    | none => pure ()

/-- The checks of the formats of a matrix instruction's pointers (R45, R49, R203, R212, R288): A, B, C, and the descriptor's,
or 0; A's and B's effective formats. -/
def matrixFormats (t : MTail) (a b c desc : Word) : Act (Nat × Nat) := do
  let fa := mfmtCode t.fmt a
  let fb := mfmtCode t.fmt b
  for (p, f) in [(a, fa), (b, fb), (c, ptrFmt c), (desc, ptrFmt desc)] do
    if ptrFmt p ≥ 16 || ptrFormatBad f (ptrL p) then raise 5 p 0 0
  let known (f : Nat) : Bool := 2 ≤ f && f ≤ 8
  let pair := fa = fb || (fa = 4 && fb = 5) || (fa = 5 && fb = 4)
  if !known fa || !known fb || !pair then raise 2 (toW fa) 0 0
  if ptrFmt c ≠ (if fa = 8 then 10 else 1) then raise 2 (toW (ptrFmt c)) 0 0
  if fa = 8 && (t.sa ≠ 0 || t.sb ≠ 0) then raise 2 (if t.sa ≠ 0 then t.sa.setWidth 64 else t.sb.setWidth 64) 0 0
  if (← get).ridge.service = 1 && fa ≠ 2 && fa ≠ 3 then raise 2 (toW fa) 0 0
  operandForm (operandPtr a fa)
  operandForm (operandPtr b fb)
  return (fa, fb)

/-- The alignment of an operand's first element (R50). -/
def operandAlign (p : Word) : Act Unit := do
  let f := ptrFmt p
  let off := if f = 6 || f = 7 then (bfpPlace (f == 6) (ptrL p) (ptrAddr p)).isNone else ptrAddr p % elemSize f ≠ 0
  if off then misalign p

/-- The alignment of A, B and C (R50, R203, R212), A and B as operands of their effective formats. -/
def matrixAlign (a b c : Word) (fa fb : Nat) : Act Unit := do
  operandAlign (operandPtr a fa)
  operandAlign (operandPtr b fb)
  if ptrAddr c % 4 ≠ 0 then misalign c

/-- A command's shape and the bound of its steps (R212-R214, R219). -/
def matrixShape (fa fb : Nat) (d : MDesc) (ring : Option (Nat × Nat × Nat)) : Act Unit := do
  let kt := tileK fa
  let cols := match ring with | some (_, len, _) => len | none => d.n / 16
  let bfp (f ld : Nat) : Bool := (f = 6 || f = 7) && ld % 32 ≠ 0
  if d.bad || d.m % 16 ≠ 0 || d.m < 16 || d.n % 16 ≠ 0 || d.n < 16 || d.k % kt ≠ 0 || d.k < 16 ||
      d.lda < d.k || d.ldb < d.k || d.ldc < d.n || bfp fa d.lda || bfp fb d.ldb ||
      d.m / 16 * cols * (d.k / kt) * tileCycles fa > 65536 then
    raise 2 (toW (d.m + d.n * 2 ^ 16 + d.k * 2 ^ 32)) 0 0

/-- The checks that follow a command's shape: its counters and the lines that it reads and writes, all of them in the order of
R203 (R210, R218); then the command. -/
def matrixCommand (t : MTail) (a b c : Word) (fa fb : Nat) (d : MDesc) (ring : Option (Nat × Nat × Nat)) (remote : Bool) :
    Act MCmd := do
  for p in [d.trig, d.rag] do
    if ptrFormatBad (ptrFmt p) (ptrL p) then raise 5 p 0 0
  let byteOf (p : Word) : Nat := if ptrFmt p = 7 then ptrAddr p / 2 else ptrAddr p
  for p in [d.trig, d.rag] do
    if byteOf p % 8 ≠ 0 then misalign p
  let pa := operandPtr a fa
  let pb := operandPtr b fb
  let (core, _) ← me
  let h ← thr
  let bcols := if ring.isSome then 16 else d.n
  let srcs := (List.range d.m).flatMap (fun i => rowRanges pa (i * d.lda) d.k) ++
    (List.range bcols).flatMap (fun j => rowRanges pb (j * d.ldb) d.k)
  let counters := [d.trig, d.rag].filter (· ≠ 0)
  discard (checkAll core h.ctx h.vdev (
    (dedup (srcs.flatMap (fun r => linesOf r.1 r.2))).map (fun l => ⟨.r, l, toW (64 * l), false⟩) ++
    (cLines c d.m d.n d.ldc).map (fun l => ⟨.w, l, toW (64 * l), false⟩) ++
    counters.map (fun p => ⟨.r, byteOf p / 64, p, true⟩)))
  endChunk
  let q ← issuer t.nu t.ec
  let id ← newCmd
  return {
    id := id, iss := q, a := pa, b := pb, c := c, m := d.m, n := d.n, k := d.k, lda := d.lda, ldb := d.ldb, ldc := d.ldc
    fmtA := fa, fmtB := fb, sa := t.sa.toInt, sb := t.sb.toInt, trig := byteOf d.trig, thr := d.thr
    rag := if d.rag = 0 then none else some (byteOf d.rag), init := d.init, notify := d.notify, intr := d.intr, tag := d.tag
    remote := remote, ring := ring, granted := false, fired := d.trig = 0, live := none, ended := false, rstep := 0, rb := 0
    ct := 0, kk := 0, steps := 0, rows := 0, flags := 0, cycles := 0, run := false, passed := false, nextRead := 0, out := false
    tile := [], ringBad := false, acc := [], seen := [], tileBad := false, dram := 0 }

/-! ## Queues -/

/-- A core's queue. -/
def Core.queueOf (k : Core) (hi : Bool) : MQueue := if hi then k.hi else k.lo

/-- The state with a core's queue replaced. -/
def State.setQueue (s : State) (c : Nat) (hi : Bool) (q : MQueue) : State :=
  s.modCore c (fun k => if hi then { k with hi := q } else { k with lo := q })

/-- SHADOW_TO_ACTIVE: the shadow set moves into the active set as soon as that is empty; the command's counters are read
from then on (R215, R216). -/
def MQueue.advance (q : MQueue) (now : Nat) : MQueue :=
  match q.active, q.shadow with
  | none, some m => { q with active := some { m with nextRead := now }, shadow := none }
  | _, _ => q

/-- A command enters a free shadow set (R215). -/
def State.toShadow (s : State) (c : Nat) (hi : Bool) (m : MCmd) : State :=
  s.setQueue c hi ({ (s.core c).queueOf hi with shadow := some m }.advance s.now)

/-- The command of a number in a core's queues: its queue, whether it is the active one, and the command. -/
def Core.findCmd (k : Core) (id : Nat) : Option (Bool × Bool × MCmd) :=
  ([(true, true, k.hi.active), (true, false, k.hi.shadow), (false, true, k.lo.active), (false, false, k.lo.shadow)]).findSome?
    (fun p => match p.2.2 with
      | some m => if m.id = id then some (p.1, p.2.1, m) else none
      | none => none)

/-- The state with an active or shadow command replaced. -/
def State.setCmd (s : State) (c : Nat) (hi active : Bool) (m : MCmd) : State :=
  let q := (s.core c).queueOf hi
  s.setQueue c hi (if active then { q with active := some m } else { q with shadow := some m })

/-- A thread of the core waits for a queue's shadow set with a command that issued before one of a number (R215). -/
def Core.waitsBefore (k : Core) (hi : Bool) (id : Nat) : Bool :=
  k.slots.any (fun p => match p.2.status with
    | .matrix h m => h == hi && m.id < id
    | _ => false)

/-- A command enters its queue's shadow set, in the order of issue, and its thread waits for the grants (R215). The state is
unchanged where the set is full or another command is before it. -/
def State.placeCmd (s : State) (c i : Nat) (hi : Bool) (m : MCmd) : State :=
  if ((s.core c).queueOf hi).shadow.isSome || (s.core c).waitsBefore hi m.id then s
  else (s.toShadow c hi m).modThread c i (fun t => { t with status := .engine })

/-- The running thread hands a command to its core's unit, and waits for a shadow set and for the grants (R215). -/
def submit (hi : Bool) (m : MCmd) : Act Unit := do
  let (c, i) ← me
  modThr (fun t => { t with status := .matrix hi m })
  modify (fun s => s.placeCmd c i hi m)

/-- A descriptor's address: its alignment (R218). -/
def descAlign (p : Word) : Act Unit := do
  if (← deref p) % 64 ≠ 0 then misalign p

/-- The lines of A, B and C that the registers alone name: those of their first elements (R203, R218). -/
def firstLines (a b c : Word) (fa fb : Nat) : List Access :=
  let src (p : Word) : List Access := (elemRanges p 0 1).flatMap (fun r => (linesOf r.1 r.2).map (fun l => ⟨.r, l, toW (64 * l), false⟩))
  src (operandPtr a fa) ++ src (operandPtr b fb) ++ [⟨.w, ptrAddr c / 64, toW (64 * (ptrAddr c / 64)), false⟩]

/-- The descriptor of MQ and MCMD, read once as the thread's own load (R213, R218). What the registers show of A, B and C
is checked with the descriptor's line, before what its bytes show (R203). -/
def matrixDesc (a b c p : Word) (fa fb : Nat) : Act MDesc := do
  if p = 0 then return MDesc.single (tileK fa)
  let (core, _) ← me
  let h ← thr
  let x ← deref p
  discard (checkAll core h.ctx h.vdev (firstLines a b c fa fb ++ [⟨.r, x / 64, p, false⟩]))
  endChunk
  let d := MDesc.read (leWords (← loadEnd p x 64) 8)
  matrixShape fa fb d none
  return d

/-- MMA (R218). -/
def execMma (g : Guard) (blk : Reg) (t : MTail) (s : State) : Host.Outcome State Fault Refusal :=
  runNext g (do
    checkFields [.group blk 3]
    notOnRiddle (.mma g blk t)
    let w ← rdXs (regWin blk) 3
    let (fa, fb) ← matrixFormats t (w.getD 0 0) (w.getD 1 0) (w.getD 2 0) 0
    matrixAlign (w.getD 0 0) (w.getD 1 0) (w.getD 2 0) fa fb
    submit t.hi (← matrixCommand t (w.getD 0 0) (w.getD 1 0) (w.getD 2 0) fa fb (.single (tileK fa)) none false)) s

/-- MMR (R219): the ring word's checks; one command over len column tiles. -/
def execMmr (g : Guard) (blk : Reg) (t : MTail) (s : State) : Host.Outcome State Fault Refusal :=
  runNext g (do
    checkFields [.group blk 4]
    notOnRiddle (.mmr g blk t)
    let w ← rdXs (regWin blk) 4
    let r := w.getD 3 0
    let (fa, fb) ← matrixFormats t (w.getD 0 0) (w.getD 1 0) (w.getD 2 0) 0
    let next := field r 19 0
    let len := field r 31 20
    let pos := field r 43 32
    let k := field r 52 44
    if field r 63 55 ≠ 0 || pos ≥ len || k > 256 || ((← get).core next).fenced then raise 2 r 0 0
    let d : MDesc :=
      { MDesc.single 16 with n := 16 * len, k := k, lda := k, ldb := k, ldc := 16 * len, init := bitOf r.toNat 53
                             notify := bitOf r.toNat 54 }
    matrixShape fa fb d (some (next, len, pos))
    matrixAlign (w.getD 0 0) (w.getD 1 0) (w.getD 2 0) fa fb
    submit t.hi (← matrixCommand t (w.getD 0 0) (w.getD 1 0) (w.getD 2 0) fa fb d (some (next, len, pos)) false)) s

/-- MQ (R218). -/
def execMq (g : Guard) (blk : Reg) (t : MTail) (s : State) : Host.Outcome State Fault Refusal :=
  runNext g (do
    checkFields [.group blk 4]
    notOnRiddle (.mq g blk t)
    let w ← rdXs (regWin blk) 4
    let (fa, fb) ← matrixFormats t (w.getD 0 0) (w.getD 1 0) (w.getD 2 0) (w.getD 3 0)
    matrixAlign (w.getD 0 0) (w.getD 1 0) (w.getD 2 0) fa fb
    descAlign (w.getD 3 0)
    let d ← matrixDesc (w.getD 0 0) (w.getD 1 0) (w.getD 2 0) (w.getD 3 0) fa fb
    submit t.hi (← matrixCommand t (w.getD 0 0) (w.getD 1 0) (w.getD 2 0) fa fb d none false)) s

/-- A capability opens a core's queue (R220). One with a reserved bit set opens none: that is the model's choice, since the
spec says that these bits must be zero and not what follows where they are not (notes/assumptions/75.md). -/
def Core.capOk (k : Core) (cap : Word) (hi : Bool) : Bool :=
  let gen := field cap 63 32
  field cap 15 0 = k.capPart.toNat && gen = k.capGen.toNat && gen ≠ 0 && field cap 31 18 = 0 &&
  bitOf cap.toNat (if hi then 16 else 17)

/-- A refused MCMD (R220, R221): its record, the interrupt it asks for, a true cost of 0. -/
def State.refuseCmd (s : State) (target : Nat) (m : MCmd) : State :=
  let s := s.send (.mail m.iss.core ⟨m.iss.vdev, 3, target, m.tag, [1, 0]⟩) target
  let s := (s.trueUp m.iss 0).goOn m.iss
  if m.intr then s.interrupt m.iss ⟨15, false, m.tag.setWidth 64, 1, 0, false⟩ else s

/-- MCMD (R220, R343): to the own core's unit it is accepted as MQ is, after the capability check. -/
def execMcmd (g : Guard) (blk : Reg) (t : MTail) (core : CoreId) (s : State) : Host.Outcome State Fault Refusal :=
  runNext g (do
    checkFields [.group blk 4]
    notOnRiddle (.mcmd g blk t core)
    let target := core.toNat
    if ((← get).core target).fenced then raise 2 (core.setWidth 64) 0 0
    let w ← rdXs (regWin blk) 4
    let (fa, fb) ← matrixFormats t (w.getD 0 0) (w.getD 1 0) (w.getD 2 0) (w.getD 3 0)
    matrixAlign (w.getD 0 0) (w.getD 1 0) (w.getD 2 0) fa fb
    descAlign (w.getD 3 0)
    let d ← matrixDesc (w.getD 0 0) (w.getD 1 0) (w.getD 2 0) (w.getD 3 0) fa fb
    let (c, _) ← me
    let ok := ((← get).core c).capOk d.cap t.hi
    let m ← matrixCommand t (w.getD 0 0) (w.getD 1 0) (w.getD 2 0) fa fb d none true
    if target = c then
      if ok then submit t.hi m else modify (fun s => s.refuseCmd c m)
    else
      modThr (fun t => { t with status := .engine })
      modify (fun s =>
        let s' := s.send (.mcmd target t.hi d.cap m) c m.iss.thread
        if s.routeOk c target then s' else (s'.trueUp m.iss 0).goOn m.iss)) s

/-- MWAIT (R222, R331, R346): it waits for what the thread has issued on this core since it came here; an interrupt wakes
it. -/
def execMwait (g : Guard) (hi : Bool) (s : State) : Host.Outcome State Fault Refusal :=
  runNext g (do
    let (c, _) ← me
    let t ← thr
    let q := ((← get).core c).queueOf hi
    let mine (m : Option MCmd) : Bool := m.any (fun m => !m.remote && m.iss.core = c && m.iss.mine t)
    if mine q.active || mine q.shadow then waitIrq) s

/-! ## Grants and counters -/

/-- ENGINE_OWNERSHIP_GRANT: the homes record engine ownership of a matrix command's C lines, and the issuing thread
continues (R150, R215). None where it has to wait. -/
def State.grantCmd (s : State) (id : Nat) : Option State :=
  match s.cores.findSome? (fun p => (p.2.findCmd id).map (fun f => (p.1, f))) with
  | some (c, hi, active, m) =>
    if m.granted then none
    else match s.takeLines m.iss m.id c (cLines m.c m.m m.n m.ldc) with
      | none => none
      | some (s, n) => some ((s.setCmd c hi active { m with granted := true, dram := m.dram + n }).goOn m.iss)
  | none => none

/-- ENGINE_OWNERSHIP_GRANT (R150). -/
def execEngineOwnershipGrant (cmd : Nat) (s : State) : Host.Outcome State Fault Refusal := .next ((s.grantCmd cmd).getD s)

/-- The word at a counter's home, and the DRAM lines that its read cost (R216, R217, R225); one that cannot be read counts as
0 (notes/assumptions/20.md). None where the read has to wait. -/
def State.counter (s : State) (q : Issuer) (core a : Nat) : Option (Nat × Nat × State) :=
  match s.lookup q.core q.vdev a with
  | (.migrating, _) => none
  | (.ok l, s) =>
    let miss := s.missOf (l.phys a)
    match attempt (homeRead ⟨core, q.ctx, q.vdev, q.distOf q.nu, toW a, 0, true⟩ (a / 64) (l.phys a)) s with
    | .ok (img, s) => some (leNat (slice img (a % 64) 8), miss, s)
    | .error (.trap _ logs) => some (0, miss, s.logs q.core q.vdev logs)
    | .error _ => none
  | (.refused pa, s) => some (0, 0, s.log q.core q.vdev ⟨false, some pa, a⟩)
  | (.poison pa, s) => some (0, 0, s.log q.core q.vdev ⟨true, some pa, a⟩)
  | (.fault _, s) => some (0, 0, s)

/-- TRIGGER_READ: an active command's counter is read every 64 cycles until it is at or above thr (R216). -/
def State.triggerRead (s : State) (c : Nat) (hi : Bool) : Option State :=
  match ((s.core c).queueOf hi).active with
  | some m =>
    if m.fired || s.now < m.nextRead then none
    else match s.counter m.iss c m.trig with
      | none => none
      | some (v, miss, s) => some (s.setCmd c hi true { m with
          fired := v ≥ m.thr, nextRead := if v ≥ m.thr then s.now else s.now + 64, dram := m.dram + miss })
  | none => none

/-- TRIGGER_READ (R216). -/
def execTriggerRead (core : CoreId) (hi : Bool) (s : State) : Host.Outcome State Fault Refusal :=
  .next ((s.triggerRead core.toNat hi).getD s)

/-- The lines of A that hold the elements and exponents of a row block. -/
def MCmd.blockLines (m : MCmd) (b : Nat) : List Nat :=
  (List.range 16).flatMap (fun i => (rowRanges m.a ((16 * b + i) * m.lda) m.k).flatMap (fun r => linesOf r.1 r.2))

/-- RAGGED_READ: a ragged command's row counter is read every 64 cycles until its block may run or is beyond the end
(R217). A line of A that an earlier block shares (the exponents of BFP rows) is read again for a block that may run: rows
that are counted by then join the product, as in the worked run of spec/15_experts.md, whose row 16 brings exponents into a line
that block 0 has read 3,300 cycles before (notes/assumptions/20.md). -/
def State.raggedRead (s : State) (c : Nat) (hi : Bool) : Option State :=
  match ((s.core c).queueOf hi).active with
  | some m =>
    if !m.fired || m.live.isSome || m.ended || s.now < m.nextRead then none
    else match m.rag.bind (s.counter m.iss c) with
      | none => none
      | some (v, miss, s) =>
        let n := v % 2 ^ 63
        let m := { m with dram := m.dram + miss }
        if n ≥ 16 * (m.rb + 1) || v ≥ 2 ^ 63 then
          let live := min n m.m
          let again := m.blockLines m.rb
          some (s.setCmd c hi true { m with
            live := some live, ended := live ≤ 16 * m.rb, nextRead := s.now, seen := m.seen.filter (fun p => !again.contains p.1) })
        else some (s.setCmd c hi true { m with nextRead := s.now + 64 })
  | none => none

/-- RAGGED_READ (R217). -/
def execRaggedRead (core : CoreId) (hi : Bool) (s : State) : Host.Outcome State Fault Refusal :=
  .next ((s.raggedRead core.toNat hi).getD s)

/-! ## Tile steps -/

/-- Reads byte ranges for a command, each line once (R151): their bytes, whether one was uncorrectable. -/
def State.cmdRead (s : State) (c : Nat) (m : MCmd) (ranges : List (Nat × Nat)) : Option (List (List Byte) × Bool × MCmd × State) :=
  (s.readOnce m.iss c m.seen ranges).map (fun r => (r.bytes, r.bad, { m with seen := r.seen, dram := m.dram + r.dram }, r.state))

/-- Reads rows of elements from index `k` on: their codes by row. -/
def State.cmdRows (s : State) (c : Nat) (m : MCmd) (p : Word) (n : Nat) : List Nat → Option (List (List (Nat × Nat)) × Bool × MCmd × State)
  | [] => some ([], false, m, s)
  | i :: rest =>
    match s.cmdRead c m (elemRanges p i n) with
    | none => none
    | some (bs, bad, m, s) =>
      match s.cmdRows c m p n rest with
      | none => none
      | some (rows, bad', m, s) => some (elemCodes (ptrFmt p) bs :: rows, bad || bad', m, s)

/-- The rows of a block that run: all 16, or those that are live (R217). -/
def MCmd.blockRows (m : MCmd) : List Nat :=
  (List.range 16).map (16 * m.rb + ·) |>.filter (fun i => i < (match m.live with | some l => l | none => m.m))

/-- The column tile of the next step: of a ring, (pos − s) mod len (R219). -/
def MCmd.colTile (m : MCmd) : Nat :=
  match m.ring with
  | some (_, len, pos) => (pos + len - m.rstep % len) % len
  | none => m.ct

/-- The address of accumulator (i, j) (R212). -/
def MCmd.accAt (m : MCmd) (i j : Nat) : Nat := (ptrAddr m.c + 4 * (i * m.ldc + j)) % 2 ^ 55

/-- A ring's B tile as three bytes an element: its code and its exponent. -/
def packTile (cols : List (List (Nat × Nat))) : List Byte :=
  cols.flatMap (fun col => col.flatMap (fun e => leBytes 2 e.1 ++ [BitVec.ofNat 8 e.2]))

/-- Element k of column j of a packed tile of depth `depth`. -/
def tileElem (t : List Byte) (depth j k : Nat) : Nat × Nat :=
  let o := 3 * (j * depth + k)
  (leNat ((t.drop o).take 2), (t.getD (o + 2) 0).toNat)

/-- The B columns of the group that a step completes (R212, R219). -/
def State.cmdCols (s : State) (c : Nat) (m : MCmd) (k0 n : Nat) : Option (List (List (Nat × Nat)) × Bool × MCmd × State) :=
  match m.ring with
  | some _ => some ((List.range 16).map (fun j => (List.range n).map (fun k => tileElem m.tile m.k j (k0 + k))), false, m, s)
  | none => s.cmdRows c m m.b n ((List.range 16).map (fun j => (16 * m.ct + j) * m.ldb + k0))

/-- The accumulators of a tile before its first step (R213). -/
def State.cmdAcc (s : State) (c : Nat) (m : MCmd) : Option (List Nat × Bool × MCmd × State) :=
  if m.init then some (List.replicate (16 * m.blockRows.length) 0, false, m, s)
  else match s.cmdRead c m (m.blockRows.map (fun i => (m.accAt i (16 * m.colTile), 64))) with
    | none => none
    | some (bs, bad, m, s) =>
      some (bs.flatMap (fun r => (List.range 16).map (fun j => leNat ((r.drop (4 * j)).take 4))), bad, m, s)

/-- A ring's B tile at the start of a ring step: its own at step 0, the latch's otherwise (R219). -/
def State.cmdTile (s : State) (c : Nat) (hi : Bool) (m : MCmd) : Option (Bool × MCmd × State) :=
  match m.ring with
  | none => some (false, m, s)
  | some _ =>
    if m.rstep = 0 then
      match (List.range (ceilDiv m.k 32)).foldl
        (fun (acc : Option (List (List (List (Nat × Nat))) × Bool × MCmd × State)) g => acc.bind (fun (gs, bad, m, s) =>
          match s.cmdRows c m m.b (min 32 (m.k - 32 * g)) ((List.range 16).map (fun j => j * m.ldb + 32 * g)) with
          | none => none
          | some (rows, bad', m, s) => some (gs ++ [rows], bad || bad', m, s)))
        (some ([], false, m, s)) with
      | none => none
      | some (gs, bad, m, s) =>
        let cols := (List.range 16).map (fun j => gs.flatMap (fun g => g.getD j []))
        some (bad, { m with tile := packTile cols, ringBad := bad }, s)
    else match ((s.core c).queueOf hi).latch.filter (fun t => t.vdev == m.iss.vdev) with
      | some t => some (t.bad, { m with tile := t.bytes, ringBad := t.bad },
          s.setQueue c hi { (s.core c).queueOf hi with latch := none })
      | none => none

/-- Writes a finished tile's rows (R212, R283). -/
def State.cmdWrite (s : State) (c : Nat) (m : MCmd) : Option (State × Nat) :=
  let pieces := ((List.range m.blockRows.length).zip m.blockRows).flatMap (fun p =>
    cutLines 2 (m.accAt p.2 (16 * m.colTile)) (((m.acc.drop (16 * p.1)).take 16).flatMap (fun w => leBytes 4 w)))
  s.engineWrites m.iss m.id c m.iss.nu m.tileBad pieces

/-- The end of a tile step of an active command (R44, R211-R219): its operands are read, the group that it completes is
accumulated, a finished tile is written, and the command moves to its next step. None where it has to wait. No group is skipped,
though R46 lets the unit skip one (notes/assumptions/76.md). -/
def State.cmdStep (s : State) (c : Nat) (hi : Bool) (m : MCmd) : Option State :=
  let kt := tileK m.fmtA
  let rows := m.blockRows
  match (if m.kk = 0 then s.cmdTile c hi m else some (false, m, s)) with
  | none => none
  | some (bad0, m, s) =>
  match (if m.kk = 0 then s.cmdAcc c m else some (m.acc, m.tileBad, m, s)) with
  | none => none
  | some (acc, bad1, m, s) =>
    let m := { m with acc := acc, tileBad := bad0 || bad1 }
    let last := m.kk + 1 = m.k / kt
    let group : Option (MCmd × State) :=
      if kt = 32 || m.kk % 2 = 1 || last then
        let k0 := m.kk * kt / 32 * 32
        let n := min 32 (m.k - k0)
        match s.cmdRows c m m.a n (rows.map (fun i => i * m.lda + k0)) with
        | none => none
        | some (as, badA, m, s) =>
        match s.cmdCols c m k0 n with
        | none => none
        | some (bs, badB, m, s) =>
          let va := as.map (fun r => r.map (elemVal m.fmtA))
          let vb := bs.map (fun r => r.map (elemVal m.fmtB))
          let out := (List.range (16 * rows.length)).map (fun x =>
            accumulate (m.fmtA == 8) (m.sa + m.sb) (m.acc.getD x 0) (va.getD (x / 16) []) (vb.getD (x % 16) []))
          some ({ m with
            acc := out.map Prod.fst, flags := out.foldl (fun f r => f ||| r.2) m.flags
            tileBad := m.tileBad || badA || badB }, s)
      else some (m, s)
    match group with
    | none => none
    | some (m, s) =>
      let m := { m with steps := m.steps + 1, cycles := m.cycles + tileCycles m.fmtA, run := false, nextRead := s.now }
      if !last then some (s.setCmd c hi true { m with kk := m.kk + 1 })
      else match s.cmdWrite c m with
        | none => none
        | some (s, miss) =>
          let m := { m with kk := 0, tileBad := false, acc := [], dram := m.dram + miss }
          match m.ring with
          | some (next, len, _) =>
            if m.rstep + 1 < len then
              some ((s.setCmd c hi true { m with rstep := m.rstep + 1, out := true }).send
                (.tile next hi ⟨m.iss.vdev, m.tile, m.ringBad⟩) c)
            else some (s.setCmd c hi true { m with rows := 16, ended := true })
          | none =>
            if m.ct + 1 < m.n / 16 then some (s.setCmd c hi true { m with ct := m.ct + 1 })
            else
              let done := 16 * (m.rb + 1)
              let live := match m.live with | some l => l | none => m.m
              let ended := done ≥ m.m || live < done
              let rest := (List.range (m.m - done)).flatMap (fun i => linesOf (m.accAt (done + i) 0) (4 * m.n))
              let free := (dedup (rows.flatMap (fun i => linesOf (m.accAt i 0) (4 * m.n)))).filter (fun l => !rest.contains l)
              let s := if ended then s else free.foldl (fun s l => s.releaseLine m.iss m.id c l) s
              some (s.setCmd c hi true { m with
                ct := 0, rb := m.rb + 1, live := none, rows := m.rows + rows.length, ended := ended })

/-- A running tile step ends (R211). None where none runs, before its last cycle, or where it has to wait. -/
def State.stepEnd (s : State) (c : Nat) : Option State :=
  let k := s.core c
  let running (q : MQueue) : Option MCmd := q.active.filter MCmd.run
  if s.now < k.arrayFree then none
  else match running k.hi, running k.lo with
  | some m, _ => s.cmdStep c true m
  | none, some m => s.cmdStep c false m
  | none, none => none

/-- A command's thread has been saved by an eviction and stands in no slot yet (R261). -/
def State.isSaved (s : State) (q : Issuer) : Bool :=
  let here (a : Arrival) : Bool := match a with
    | .evicted _ v => q.mine v.th
    | .travel _ _ => false
  s.evicted.any (fun v => q.mine v.th) ||
  s.cores.any (fun p => (p.2.arrOut.map Prod.snd).any here || p.2.ctxs.any (fun x => (x.2.arrivals ++ x.2.arrSpill).any here))

/-- At a boundary, an evicted thread's active command that is not ready is saved with its steps done (R261). -/
def State.saveLate (s : State) (c : Nat) : Option State :=
  [true, false].findSome? (fun hi =>
    let q := (s.core c).queueOf hi
    match q.active with
    | some m =>
      if m.run || m.ended || m.remote || m.ready q || !s.isSaved m.iss then none
      else some ((s.setQueue c hi ({ q with active := none }.advance s.now)).reachAway m.iss.thread
        (fun v => { v with cmds := v.cmds ++ [(hi, { m with out := false })] }) id)
    | none => none)

/-- At a boundary the unit begins a step of the high queue's ready command, else of the low one's (R215). None before the
boundary, while a step runs, or where neither is ready. -/
def State.stepStart (s : State) (c : Nat) : Option State :=
  let k := s.core c
  let ready (q : MQueue) : Option MCmd := q.active.filter (fun m => m.ready q)
  let start (s : State) (hi : Bool) (m : MCmd) : State :=
    (s.setCmd c hi true { m with run := true, passed := false }).modCore c (fun k => { k with arrayFree := s.now + tileCycles m.fmtA })
  if s.now < k.arrayFree || k.hi.active.any MCmd.run || k.lo.active.any MCmd.run then none
  else match ready k.hi, ready k.lo with
  | some m, some l => some (start (s.setCmd c false true { l with passed := true }) true m)
  | some m, none => some (start s true m)
  | none, some l => some (start s false l)
  | none, none => none

/-- TILE_STEP: a step ends; else, at a boundary, what an evicted thread cannot go on with is saved; else the next step begins
(R211, R215, R261). -/
def State.tileStep (s : State) (c : Nat) : Option State :=
  (s.stepEnd c) <|> (if s.now < (s.core c).arrayFree then none else s.saveLate c) <|> (s.stepStart c)

/-- TILE_STEP (R215). -/
def execTileStep (core : CoreId) (s : State) : Host.Outcome State Fault Refusal := .next ((s.tileStep core.toNat).getD s)

/-! ## Completion -/

/-- MATRIX_COMPLETION: lines released, flags, record, interrupt, true-up; the shadow set becomes active (R43, R150, R215,
R221, R225). -/
def State.matrixDone (s : State) (c : Nat) (hi : Bool) : Option State :=
  let q := (s.core c).queueOf hi
  match q.active with
  | some m =>
    if !m.ended || m.out || m.run then none
    else
      let s := (s.setQueue c hi ({ q with active := none }.advance s.now)).releaseAll m.id
      let s := s.engineFlags m.iss m.flags
      let s := s.trueUp m.iss (ceilDiv (5 * m.cycles) 8 + 21 * m.dram)
      let s := if m.notify then
          s.send (.mail m.iss.core ⟨m.iss.vdev, 3, c, m.tag, [toW (m.flags.toNat * 16), toW m.rows]⟩) c
        else s
      some (if m.intr then s.interrupt m.iss ⟨32, false, m.tag.setWidth 64, 0, toW m.rows, false⟩ else s)
  | none => none

/-- MATRIX_COMPLETION (R221). -/
def execMatrixCompletion (core : CoreId) (hi : Bool) (s : State) : Host.Outcome State Fault Refusal :=
  .next ((s.matrixDone core.toNat hi).getD s)

end Sys2Proof.Machine
end

