-- ==== Sys2Proof/Machine/Trellis.lean ====
section
/-! DEFINITION. The trellis: WALK (R226-R230, R235, R283, R372) and FOREST (R231-R233). -/

namespace Sys2Proof.Machine

/-! ## Rows -/

/-- The place of a row's progress record (R228). -/
def WalkJob.progAt (j : WalkJob) (r : Nat) : Nat := (j.prog + 16 * r) % 2 ^ 55

/-- The place of an output row (R226). -/
def WalkJob.outAt (j : WalkJob) (r : Nat) : Nat := (j.out + 64 * r) % 2 ^ 55

/-- A row from its progress record (R228): a status of 5-255 acts as 4. -/
def WalkRow.read (b : List Byte) : WalkRow :=
  let g (i : Nat) : Nat := (b.getD i 0).toNat
  ⟨toW (leNat (b.take 8)), g 8, min (g 9) 4, g 10, g 11, false, [], false, false⟩

/-- A row's progress record (R228). -/
def WalkRow.record (w : WalkRow) : List Byte :=
  leBytes 8 w.node.toNat ++ leBytes 4 (w.depth + w.status * 2 ^ 8 + w.pend * 2 ^ 16 + w.flags * 2 ^ 24) ++ leBytes 4 0

/-- A row at issue (R228): without `.resume` every row but a skipped one starts at the root; with it active and faulted
rows run. -/
def WalkRow.start (w : WalkRow) (resume : Bool) (root : Word) : WalkRow :=
  if resume then (if w.status = 0 || w.status = 2 then { w with status := 0, runs := true } else w)
  else if w.status = 4 then w
  else ⟨root, 0, 0, 0xFF, 0, true, [], false, false⟩

/-- A row's x is held in its output row (R228, R229). -/
def WalkRow.carried (w : WalkRow) : Bool := bitOf w.flags 1

/-- Row length in the row tile (R226). -/
def rowPitch (k : Nat) : Nat := ceilDiv k 32 * 32

/-- Reads byte ranges for a walk, each line once (R151). None where a line has to wait. -/
def State.walkRead (s : State) (j : WalkJob) (ranges : List (Nat × Nat)) : Option (List (List Byte) × Bool × WalkJob × State) :=
  (s.readOnce j.iss j.iss.core j.seen ranges).map (fun r =>
    (r.bytes, r.bad, { j with seen := r.seen, dram := j.dram + r.dram }, r.state))

/-- Some of the lines were uncorrectable when the walk read them (R283). -/
def WalkJob.badAt (j : WalkJob) (lines : List Nat) : Bool := j.seen.any (fun p => lines.contains p.1 && p.2.2)

/-- The checks of a fetch (R193, R200, R209): every line may be read. A protection failure is logged. `none` waits. -/
def State.walkCheck (s : State) (j : WalkJob) (lines : List Nat) : Option (Bool × State) :=
  match attempt (checkLines j.iss.core j.iss.ctx j.iss.vdev .r (lines.map (fun l => (l, toW (64 * l))))) s with
  | .ok (_, s) => some (true, s)
  | .error (.trap _ logs) => some (false, s.logs j.iss.core j.iss.vdev logs)
  | .error _ => none

/-- The record that a row fetches next: child pend of its node, else the node (R229); 0 where the node's pointer can no longer
be read. -/
def State.walkKey (s : State) (j : WalkJob) (r : Nat) (w : WalkRow) : Option (Word × WalkJob × State) :=
  let at_ := (ptrAddr w.node + 16 + 8 * w.pend) % 2 ^ 55
  if w.pend = 0xFF then some (w.node, j, s)
  else match s.walkCheck j ((linesOf at_ 8).filter (fun l => !j.seen.any (fun p => p.1 == l))) with
    | none => none
    | some (false, s) => some (0, j, s)
    | some (true, s) => match s.walkRead j [(at_, 8)] with
      | none => none
      | some (bs, bad, j, s) =>
        let rows := j.rows.mapIdx (fun i w => if i = r then { w with bad := w.bad || bad } else w)
        some (toW (leNat (bs.getD 0 [])), { j with rows := rows }, s)

/-! ## Records -/

/-- A walk record: its header, biases and columns by groups of 32 (R227). -/
structure WalkRec where
  bfp : Bool
  n : Nat
  rule : Nat
  mode : Bool
  miss : Nat
  leaf : Bool
  bias : List Nat
  cols : List (List (List FVal))
  bad : Bool
  deriving DecidableEq, Repr

/-- The header's fields are legal for a pointer with this L and a row length (R227, R288). -/
def walkHeaderOk (h : Word) (l k : Nat) (early : Bool) : Bool :=
  let fmt := field h 3 0
  let n := field h 15 12 + 1
  let rule := field h 17 16
  (fmt = 3 || (fmt = 6 && !early)) && field h 63 24 = 0 && rule ≠ 3 && !(rule = 1 && n < 2) &&
  !(bitOf h.toNat 18 && n ≠ k) && field h 22 19 < n && (if bitOf h.toNat 23 then l = 1 else l = 0) &&
  field h 11 4 + 1 = k

/-- The bytes of one column (R227). -/
def colSize (bfp : Bool) (k : Nat) : Nat := ceilDiv (if bfp then 34 * ceilDiv k 32 else 2 * k) 64 * 64

/-- A column's elements in groups of 32 (R227): FP16 elements, or element bytes and then exponent pairs. -/
def colGroups (bfp : Bool) (k : Nat) (col : List Byte) : List (List FVal) :=
  let gs := ceilDiv k 32
  (List.range gs).map (fun g => (List.range (min 32 (k - 32 * g))).map (fun i =>
    if bfp then
      let e := (col.getD (32 * g + i) 0).toNat
      bfpVal true e (col.getD (32 * gs + 2 * g + (if bfpSel true e then 1 else 0)) 0).toNat
    else unpack .fp16 (leNat ((col.drop (2 * (32 * g + i))).take 2))))

/-- Fetches the record of a key (R227, R229): nothing where it is unmapped, protected or malformed. The root record gives the
row length; every other one must have it (R226). -/
def State.walkFetch (s : State) (j : WalkJob) (k? : Option Nat) (key : Word) : Option (Option (WalkRec × Nat) × WalkJob × State) :=
  let a := ptrAddr key
  if ptrFmt key ≠ 12 || ptrL key > 1 || a % 64 ≠ 0 then some (none, j, s)
  else match s.walkCheck j [a / 64] with
    | none => none
    | some (false, s) => some (none, j, s)
    | some (true, s) =>
    match s.walkRead j [(a, 8)] with
    | none => none
    | some (hb, badH, j, s) =>
      let h := toW (leNat (hb.getD 0 []))
      let k := k?.getD (field h 11 4 + 1)
      if !walkHeaderOk h (ptrL key) k j.early then some (none, j, s)
      else
        let bfp := field h 3 0 = 6
        let n := field h 15 12 + 1
        let cs := colSize bfp k
        match s.walkCheck j (linesOf a (256 + n * cs)) with
        | none => none
        | some (false, s) => some (none, j, s)
        | some (true, s) =>
        match s.walkRead j ((a + 144, 4 * n) :: (List.range n).map (fun c => ((a + 256 + c * cs) % 2 ^ 55, cs))) with
        | none => none
        | some (bs, bad, j, s) =>
          let bias := bs.getD 0 []
          some (some ({
            bfp := bfp, n := n, rule := field h 17 16, mode := bitOf h.toNat 18, miss := field h 22 19
            leaf := bitOf h.toNat 23, bias := (List.range n).map (fun i => leNat ((bias.drop (4 * i)).take 4))
            cols := (bs.drop 1).map (colGroups bfp k), bad := badH || bad }, k), j, s)

/-- The child that a node's rule chooses, and whether the missing direction was taken (R229). -/
def WalkRec.choose (c : WalkRec) (y : List Nat) : Nat × Bool :=
  let vs := y.map (unpack .fp32)
  let zero : FVal := unpack .fp32 0
  if c.rule = 0 then
    match argmax vs with
    | some i => (i, false)
    | none => (c.miss, true)
  else if c.rule = 1 then
    let v := vs.getD 0 zero
    if v.isNan then (c.miss, true) else (if v.lt zero then 0 else 1, false)
  else
    match (List.range vs.length).find? (fun i => zero.lt (vs.getD i zero)) with
    | some i => (i, false)
    | none => (c.n - 1, false)

/-! ## Steps -/

/-- A row's x in groups of 32 (R226, R228): its row of the row tile, or its output row where it is carried. -/
def State.walkX (s : State) (j : WalkJob) (k r : Nat) (w : WalkRow) : Option (List (List FVal) × Bool × WalkJob × State) :=
  let gs := List.range (ceilDiv k 32)
  if w.carried then
    some (gs.map (fun g => ((w.y.drop (32 * g)).take (min 32 (k - 32 * g))).map (unpack .fp32)), false, j, s)
  else
    let f := ptrFmt j.rowTile
    let rs := gs.map (fun g => elemRanges j.rowTile (r * rowPitch k + 32 * g) (min 32 (k - 32 * g)))
    match s.walkRead j rs.flatten with
    | none => none
    | some (bs, bad, j, s) =>
      let per := if f = 6 then 2 else 1
      some (gs.map (fun g =>
        ((elemCodes f ((bs.drop (per * g)).take per)).take (min 32 (k - 32 * g))).map (elemVal f)), bad, j, s)

/-- One row at a record (R229): y by R44, then the leaf's output or the choice of a child. -/
def State.walkRowStep (s : State) (j : WalkJob) (k r : Nat) (key : Word) (c : WalkRec) : Option (WalkJob × State) :=
  match j.rows[r]? with
  | none => some (j, s)
  | some w =>
    let w := if w.pend = 0xFF then w else { w with node := key, depth := (w.depth + 1) % 256, pend := 0xFF }
    match s.walkX j k r w with
    | none => none
    | some (x, bad, j, s) =>
      let ys := (List.range c.n).map (fun i =>
        ((List.range x.length).foldl (fun (acc : Nat × Flags) g =>
          let (a, f) := accumulate false 0 acc.1 (x.getD g []) ((c.cols.getD i []).getD g [])
          (a, acc.2 ||| f)) (c.bias.getD i 0, 0)))
      let y := ys.map Prod.fst
      let flags := ys.foldl (fun f p => f ||| p.2) j.flags
      let w := { w with bad := w.bad || bad || c.bad }
      let w :=
        if c.leaf then { w with y := if w.wrote then y ++ w.y.drop y.length else y, wrote := true, status := 1 }
        else
          let (child, missed) := c.choose y
          let w := if missed then { w with flags := w.flags ||| 1 } else w
          let w := if c.mode then
              { w with y := y ++ List.replicate (16 - y.length) 0, wrote := true, flags := w.flags ||| 2 }
            else w
          { w with pend := child, status := if w.depth = 64 then 3 else w.status }
      some ({ j with rows := j.rows.set r w, flags := flags }, s)

/-- The rows of a key, in ascending index (R229). -/
def State.walkRows (s : State) (j : WalkJob) (k : Nat) (key : Word) (c : WalkRec) : List Nat → Option (WalkJob × State)
  | [] => some (j, s)
  | r :: rest =>
    match s.walkRowStep j k r key c with
    | none => none
    | some (j, s) => s.walkRows j k key c rest

/-- Puts a row under its key, keys in ascending address (R229). -/
def addKey (key : Word) (r : Nat) : List (Word × List Nat) → List (Word × List Nat)
  | [] => [(key, [r])]
  | (q, rs) :: rest =>
    if q = key then (q, rs ++ [r]) :: rest
    else if ptrAddr key < ptrAddr q || (ptrAddr key = ptrAddr q && key.toNat < q.toNat) then (key, [r]) :: (q, rs) :: rest
    else (q, rs) :: addKey key r rest

/-- The distinct keys of the active rows (R229). -/
def State.walkKeys (s : State) (j : WalkJob) : List Nat → Option (List (Word × List Nat) × WalkJob × State)
  | [] => some ([], j, s)
  | r :: rest =>
    match j.rows[r]? with
    | none => s.walkKeys j rest
    | some w =>
      if !(w.runs && w.status = 0) then s.walkKeys j rest
      else match s.walkKey j r w with
        | none => none
        | some (key, j, s) =>
          match s.walkKeys j rest with
          | none => none
          | some (ks, j, s) => some (addKey key r ks, j, s)

/-- The keys of one step in ascending address, up to one whose work would pass 65,536 cycles; the first key of a WALK
always runs (R229). -/
def State.walkRun (s : State) (j : WalkJob) (k : Nat) : List (Word × List Nat) → Option (WalkJob × State)
  | [] => some (j, s)
  | (key, rs) :: rest =>
    match s.walkFetch j (some k) key with
    | none => none
    | some (rec?, j, s) =>
      let comp := match rec? with
        | some (c, _) => ceilDiv (rs.length * k * c.n) (if ptrFmt j.rowTile = 6 && c.bfp then 16 else 4)
        | none => 0
      if !j.first && j.work + 64 + comp > 65536 then some ({ j with isOver := true }, s)
      else
        let j := { j with first := false, work := j.work + 64 + comp, cycles := j.cycles + comp }
        match rec? with
        | none =>
          (s.walkRun { j with rows := j.rows.mapIdx (fun i w => if rs.contains i then { w with status := 2 } else w) } k rest)
        | some (c, _) =>
          match s.walkRows j k key c rs with
          | none => none
          | some (j, s) => s.walkRun j k rest

/-- A row that the walk still has to step. -/
def WalkJob.active (j : WalkJob) : Bool := j.rows.any (fun w => w.runs && w.status = 0)

/-- The state with a core's trellis replaced. -/
def State.setTrellis (s : State) (c : Nat) (t : Option TrellisJob) : State := s.modCore c (fun k => { k with trellis := t })

/-- WALK_STEP: one step of R229. None where the walk has nothing to step, or has to wait. -/
def State.walkStep (s : State) (c : Nat) : Option State :=
  match (s.core c).trellis with
  | some (.walk j) =>
    match j.k with
    | none => none
    | some k =>
      if j.isOver || !j.active || s.now < (s.core c).trellisFree then none
      else match s.walkKeys j (List.range 16) with
        | none => none
        | some (ks, j, s) =>
          match s.walkRun j k ks with
          | none => none
          | some (j', s) =>
            let s := s.modCore c (fun k => { k with trellisFree := s.now + (j'.work - j.work) })
            some (s.setTrellis c (some (.walk j')))
  | _ => none

/-- WALK_STEP (R229). -/
def execWalkStep (core : CoreId) (s : State) : Host.Outcome State Fault Refusal := .next ((s.walkStep core.toNat).getD s)

/-! ## Retirement -/

/-- Writes the progress records and output rows of the rows that ran, with the DRAM lines that this costs (R225, R228, R229,
R283). -/
def State.walkWrites (s : State) (j : WalkJob) : List Nat → Option (State × Nat)
  | [] => some (s, 0)
  | r :: rest =>
    match j.rows[r]? with
    | none => s.walkWrites j rest
    | some w => do
      let put (s : State) (bad : Bool) (l : List (Nat × List Byte)) : Option (State × Nat) :=
        s.engineWrites j.iss j.id j.iss.core j.iss.nu bad l
      let (s, n) ← put s false (if w.runs then [(j.progAt r, w.record)] else [])
      let (s, k) ← put s w.bad (if w.wrote then [(j.outAt r, w.y.flatMap (fun v => leBytes 4 v))] else [])
      let (s, l) ← State.walkWrites s j rest
      return (s, n + k + l)

/-- The rows that hold a status, as a mask (R235). -/
def WalkJob.mask (j : WalkJob) (status : Nat) : Nat :=
  (List.range 16).foldl (fun m r => match j.rows[r]? with
    | some w => if w.status = status then m + 2 ^ r else m
    | none => m) 0

/-- The pair xd, x(d+1) goes into the issuing thread's window, and its next chunk begins with it (R230). -/
def State.writePair (s : State) (q : Issuer) (d : Nat) (a b : Word) : State :=
  match s.issuing q with
  | some (i, t) => ((s.setReg q.core (t.base + d) a).setReg q.core (t.base + d + 1) b).newChunk q.core i
  | none => s

/-- WALK_RETIRE: every status and output row is visible, the lines are released, the pair is written, and WALK_FAULT
follows where rows faulted (R43, R150, R204, R225, R230, R235). None where the walk goes on or has to wait. -/
def State.walkRetire (s : State) (c : Nat) : Option State :=
  match (s.core c).trellis with
  | some (.walk j) =>
    if (j.k.isSome && !j.isOver && j.active) || s.now < (s.core c).trellisFree then none
    else
      let low := (List.range 16).find? (fun r => match j.rows[r]? with | some w => w.status == 2 | none => false)
      match (match low with
        | some r => (match j.rows[r]? with
          | some w => s.walkKey j r w
          | none => some (0, j, s))
        | none => some (0, j, s)) with
      | none => none
      | some (first, j, s) =>
        match s.walkWrites j (List.range 16) with
        | none => none
        | some (s, miss) =>
          let s := (s.setTrellis c none).releaseAll j.id
          let faulted := j.mask 2
          let xd := toW (j.mask 1 + faulted * 2 ^ 16 + j.mask 3 * 2 ^ 32 + j.mask 0 * 2 ^ 48)
          let s := (s.engineFlags j.iss j.flags).writePair j.iss j.d xd first
          let s := (s.trueUp j.iss (ceilDiv (5 * j.cycles) 8 + 21 * (j.dram + miss))).goOn j.iss
          match s.issuing j.iss with
          | some (i, _) =>
            some (if faulted = 0 then s else s.takeTrap j.iss.core i ⟨12, first, toW faulted, mkPtr 0 0 j.prog⟩ [])
          | none => some s
  | _ => none

/-- WALK_RETIRE (R230). -/
def execWalkRetire (core : CoreId) (s : State) : Host.Outcome State Fault Refusal := .next ((s.walkRetire core.toNat).getD s)

/-! ## WALK -/

/-- The operand checks of R372 up to MISALIGN. -/
def walkOperands (rt root out prog : Word) : Act Unit := do
  for p in [rt, root, out, prog] do
    if ptrFmt p ≥ 16 then raise 5 p 0 0
  if ptrFmt rt = 6 && ptrL rt < 10 then raise 5 rt 0 0
  if (ptrFmt rt ≠ 3 && ptrFmt rt ≠ 6) || (ptrFmt rt = 6 && (← get).ridge.service = 1) then raise 2 rt 0 0
  if ptrFmt root ≠ 12 || ptrL root ≠ 0 then raise 2 root 0 0
  if ptrFmt out ≠ 1 then raise 2 out 0 0
  if ptrFmt prog ≠ 0 then raise 2 prog 0 0
  if ptrAddr root % 64 ≠ 0 then misalign root
  if ptrAddr out % 64 ≠ 0 then misalign out
  if ptrAddr prog % 256 ≠ 0 then misalign prog
  if ptrFmt rt = 3 then
    if ptrAddr rt % 2 ≠ 0 then misalign rt
  else match bfpPlace true (ptrL rt) (ptrAddr rt) with
    | none => misalign rt
    | some b => if b.j % 32 ≠ 0 then misalign rt

/-- Lines with their addresses, for a check. -/
def atLines (l : List Nat) : List (Nat × Word) := l.map (fun l => (l, toW (64 * l)))

/-- The lines of `n` bytes and of others, each once. -/
def lineSet (ranges : List (Nat × Nat)) : List Nat := dedup (ranges.flatMap (fun r => linesOf r.1 r.2))

/-- A state change of the engines that has to wait forfeits the turn. -/
def orTurn {α : Type} (x : Option α) : Act α :=
  match x with
  | some a => pure a
  | none => waitTurn

/-- WALK (R226, R228, R372). -/
def execWalk (g : Guard) (d blk : Reg) (ec : BitVec 2) (resume : Bool) (nu : BitVec 8) (s : State) :
    Host.Outcome State Fault Refusal :=
  runNext g (do
    checkFields [.group blk 4, .group d 2]
    notOnRiddle (.walk g d blk ec resume nu)
    let w ← rdXs (regWin blk) 4
    let rt := w.getD 0 0
    let root := w.getD 1 0
    let out := w.getD 2 0
    let prog := w.getD 3 0
    walkOperands rt root out prog
    let (c, _) ← me
    let h ← thr
    let writes := lineSet [(ptrAddr out, 1024), (ptrAddr prog, 256)]
    discard (checkLines c h.ctx h.vdev .w (atLines writes))
    endChunk
    if ((← get).core c).trellis.isSome then waitTurn
    let q ← issuer nu ec
    let id ← newCmd
    let j : WalkJob :=
      { id := id, iss := q, d := regWin d, rowTile := rt, root := root, out := ptrAddr out, prog := ptrAddr prog, k := none
        early := (← get).ridge.service == 1
        work := 0, cycles := 0, dram := 0, flags := 0, rows := [], first := true, isOver := false, seen := [] }
    let (rec?, j, s) ← orTurn ((← get).walkFetch j none root)
    set s
    let k := rec?.map Prod.snd
    match k with
    | some k => discard (checkLines c h.ctx h.vdev .r (atLines (lineSet (rowRanges rt 0 (16 * rowPitch k)))))
    | none => pure ()
    let (s, taken) ← orTurn ((← get).takeLines q id c writes)
    set s
    let j := { j with dram := j.dram + taken }
    let (pb, _, j, s) ← orTurn ((← get).walkRead j [(ptrAddr prog, 256)])
    let rows := (List.range 16).map (fun r =>
      let w := (WalkRow.read (((pb.getD 0 []).drop (16 * r)).take 16)).start resume root
      { w with bad := j.badAt (linesOf (j.progAt r) 16) })
    let rows := rows.map (fun w => if k.isNone && w.runs then { w with status := 2 } else w)
    let n := k.getD 0
    let (ys, _, j, s) ← orTurn (s.walkRead j ((List.range 16).map (fun r => match rows[r]? with
      | some w => (j.outAt r, if w.runs && w.carried then 4 * n else 0)
      | none => (j.outAt r, 0))))
    let rows := rows.mapIdx (fun r w =>
      if w.runs && w.carried then
        { w with
          y := (List.range n).map (fun i => leNat (((ys.getD r []).drop (4 * i)).take 4))
          bad := w.bad || j.badAt (linesOf (j.outAt r) (4 * n)) }
      else w)
    set (s.setTrellis c (some (.walk { j with k := k, rows := rows })))
    modThr (fun t => { t with status := .engine })) s

/-! ## FOREST -/

/-- A sample's outcome so far: its sum, the levels that it advanced, whether it is malformed, and the reads' badness. -/
structure ForestRun where
  acc : Nat
  levels : Nat
  malformed : Bool
  bad : Bool
  flags : Flags
  job : Seen
  dram : Nat
  deriving DecidableEq, Repr

/-- Reads byte ranges for a forest (R151). -/
def State.forestRead (s : State) (q : Issuer) (f : ForestRun) (ranges : List (Nat × Nat)) :
    Option (List (List Byte) × ForestRun × State) :=
  (s.readOnce q q.core f.job ranges).map (fun r =>
    (r.bytes, { f with job := r.seen, dram := f.dram + r.dram, bad := f.bad || r.bad }, r.state))

/-- Walks one tree from a node index (R232, R233): the leaf's value, or none where the sample meets a malformed
structure; `fuel` bounds the levels at 16 below the root. -/
def State.forestTree (s : State) (q : Issuer) (nodes c feats : Nat) (xs : List Nat) :
    Nat → Nat → ForestRun → Option (Option Nat × ForestRun × State)
  | fuel, i, f =>
    if i ≥ c then some (none, f, s)
    else match s.forestRead q f [((nodes + 16 * i) % 2 ^ 55, 16)] with
      | none => none
      | some (bs, f, s) =>
        let b := bs.getD 0 []
        let w0 := toW (leNat (b.take 8))
        let w1 := toW (leNat (b.drop 8))
        let feat := field w0 7 0
        if field w0 31 10 ≠ 0 then some (none, f, s)
        else if bitOf w0.toNat 8 then some (some (field w0 63 32), f, s)
        else if feat ≥ feats then some (none, f, s)
        else match fuel with
          | 0 => some (none, f, s)
          | fuel + 1 =>
            let x := unpack .fp32 (xs.getD feat 0)
            let t := unpack .fp32 (field w0 63 32)
            let right := if x.isNan || t.isNan then bitOf w0.toNat 9 else !x.lt t
            s.forestTree q nodes c feats xs fuel (if right then field w1 63 32 else field w1 31 0)
              { f with levels := f.levels + 1 }

/-- The trees of one sample in ascending index, its sum rounded at each (R233). -/
def State.forestTrees (s : State) (q : Issuer) (nodes c feats : Nat) (xs : List Nat) : List Nat → ForestRun →
    Option (ForestRun × State)
  | [], f => some (f, s)
  | root :: rest, f =>
    match s.forestTree q nodes c feats xs 16 root f with
    | none => none
    | some (none, f, s) => some ({ f with malformed := true }, s)
    | some (some v, f, s) =>
      let (a, g) := fadd .fp32 .ne false f.acc v
      s.forestTrees q nodes c feats xs rest { f with acc := a, flags := f.flags ||| g }

/-- The header of a forest record (R232): trees, features, nodes, base. -/
def forestHeader (b : List Byte) : Nat × Nat × Nat × Nat :=
  let w0 := toW (leNat (b.take 8))
  let w1 := toW (leNat ((b.drop 8).take 8))
  (field w0 7 0 + 1, field w0 15 8 + 1, field w1 31 0, field w1 63 32)

/-- The header is legal (R232). -/
def forestHeaderOk (b : List Byte) : Bool :=
  let w0 := toW (leNat (b.take 8))
  let c := (forestHeader b).2.2.1
  field w0 63 16 = 0 && 1 ≤ c && c ≤ 2 ^ 20

/-- The first node's offset in a record of `t` trees (R232). -/
def forestNodes (t : Nat) : Nat := ceilDiv (64 + 4 * t) 64 * 64

/-- The samples in ascending index: output words, and the mask of malformed samples (R233). A line read for one sample
is not read again for another; a sample's poison is its own. -/
def State.forestSamples (s : State) (j : ForestJob) (hd : Nat × Nat × Nat × Nat) (roots : List Nat) (bad0 : Bool) :
    List Nat → ForestRun → Option (List (Nat × Bool × Bool) × ForestRun × State)
  | [], f => some ([], f, s)
  | r :: rest, f =>
    let (t, feats, c, base) := hd
    let f := { f with acc := base, malformed := false, bad := bad0 }
    match s.forestRead j.iss f [((j.samples + 64 * r * ceilDiv feats 16) % 2 ^ 55, 4 * feats)] with
    | none => none
    | some (bs, f, s) =>
      let xs := (List.range feats).map (fun i => leNat (((bs.getD 0 []).drop (4 * i)).take 4))
      match s.forestTrees j.iss ((j.record + forestNodes t) % 2 ^ 55) c feats xs roots f with
      | none => none
      | some (f, s) =>
        let here := (if f.malformed then FloatFmt.fp32.qnan else f.acc, f.malformed, f.bad)
        let f := if f.malformed then { f with flags := f.flags ||| flagNV } else f
        match s.forestSamples j hd roots bad0 rest f with
        | none => none
        | some (out, f, s) => some (here :: out, f, s)

/-- Writes the output words, with the DRAM lines that this costs (R225, R231, R283). -/
def State.forestWrites (s : State) (j : ForestJob) : Nat → List (Nat × Bool × Bool) → Option (State × Nat)
  | _, [] => some (s, 0)
  | r, (v, _, bad) :: rest => do
    let (s, n) ← s.engineWrites j.iss j.id j.iss.core j.iss.nu bad [((j.out + 4 * r) % 2 ^ 55, leBytes 4 v)]
    let (s, k) ← State.forestWrites s j (r + 1) rest
    return (s, n + k)

/-- FOREST_RETIRE: the outputs, the mask and the level count (R43, R150, R225, R233). None where it has to wait. -/
def State.forestRetire (s : State) (c : Nat) : Option State :=
  match (s.core c).trellis with
  | some (.forest j) =>
    if s.now < (s.core c).trellisFree then none
    else match s.forestRead j.iss ⟨0, 0, false, false, 0, j.seen, j.dram⟩ [(j.record, 16)] with
    | none => none
    | some (hb, f, s) =>
      let hd := forestHeader (hb.getD 0 [])
      match s.forestRead j.iss f [((j.record + 64) % 2 ^ 55, 4 * hd.1)] with
      | none => none
      | some (rb, f, s) =>
        let roots := (List.range hd.1).map (fun i => leNat (((rb.getD 0 []).drop (4 * i)).take 4))
        match s.forestSamples j hd roots f.bad (List.range j.count) f with
        | none => none
        | some (out, f, s) =>
          match s.forestWrites j 0 out with
          | none => none
          | some (s, miss) =>
            let mask := ((List.range out.length).zip out).foldl (fun m p => if p.2.2.1 then m + 2 ^ p.1 else m) 0
            let s := (s.setTrellis c none).releaseAll j.id
            let s := s.modCore c (fun k => { k with trellisFree := s.now + f.levels })
            let s := (s.engineFlags j.iss f.flags).writePair j.iss j.d (toW mask) (toW f.levels)
            some ((s.trueUp j.iss (ceilDiv (5 * f.levels) 8 + 21 * (f.dram + miss))).goOn j.iss)
  | _ => none

/-- FOREST_RETIRE (R233). -/
def execForestRetire (core : CoreId) (s : State) : Host.Outcome State Fault Refusal := .next ((s.forestRetire core.toNat).getD s)

/-- FOREST (R231, R232): the lines that its registers name are checked first (every record reaches byte 143, every sample has
one feature at least), then the header is read, then the lines that it names are checked (R203). -/
def execForest (g : Guard) (d blk : Reg) (ec : BitVec 2) (nu : BitVec 8) (s : State) : Host.Outcome State Fault Refusal :=
  runNext g (do
    checkFields [.group blk 4, .group d 2]
    notOnRiddle (.forest g d blk ec nu)
    let w ← rdXs (regWin blk) 4
    let sm := w.getD 0 0
    let rc := w.getD 1 0
    let out := w.getD 2 0
    let count := w.getD 3 0
    for p in [sm, rc, out] do
      if ptrFormatBad (ptrFmt p) (ptrL p) then raise 5 p 0 0
    if ptrFmt sm ≠ 1 then raise 2 sm 0 0
    if ptrFmt rc ≠ 13 then raise 2 rc 0 0
    if ptrFmt out ≠ 1 then raise 2 out 0 0
    let n := field count 4 0
    if field count 63 5 ≠ 0 || n < 1 || n > 16 then raise 2 count 0 0
    if ptrAddr sm % 4 ≠ 0 then misalign sm
    if ptrAddr rc % 64 ≠ 0 then misalign rc
    if ptrAddr out % 4 ≠ 0 then misalign out
    let (c, _) ← me
    let h ← thr
    let writes := lineSet [(ptrAddr out, 4 * n)]
    discard (checkAll c h.ctx h.vdev
      ((lineSet [(ptrAddr rc, 144), (ptrAddr sm, 64 * (n - 1) + 4)]).map (fun l => ⟨.r, l, toW (64 * l), false⟩) ++
        writes.map (fun l => ⟨.w, l, toW (64 * l), false⟩)))
    endChunk
    if ((← get).core c).trellis.isSome then waitTurn
    let q ← issuer nu ec
    let id ← newCmd
    let hb ← orTurn ((← get).readOnce q c [] [(ptrAddr rc, 16)])
    if hb.bad then poisonTrap rc 0 ((← get).physOf c h.vdev (ptrAddr rc))
    set hb.state
    let head := hb.bytes.getD 0 []
    if !forestHeaderOk head then raise 2 rc 0 0
    let (t, feats, nodes, _) := forestHeader head
    let reads := lineSet [(ptrAddr rc, forestNodes t + 16 * nodes), (ptrAddr sm, 64 * ceilDiv feats 16 * (n - 1) + 4 * feats)]
    discard (checkLines c h.ctx h.vdev .r (atLines reads))
    let (s, taken) ← orTurn ((← get).takeLines q id c writes)
    set (s.setTrellis c
      (some (.forest ⟨id, q, regWin d, ptrAddr sm, ptrAddr rc, ptrAddr out, n, hb.seen, hb.dram + taken⟩)))
    modThr (fun t => { t with status := .engine })) s

end Sys2Proof.Machine
end

