-- ==== Sys2Proof/Machine/Gauss.lean ====
section
/-! DEFINITION. The message-update unit: records, Gaussian updates, deliveries and firing queues (R238-R256, R283,
R325-R327). -/

namespace Sys2Proof.Machine

/-! ## Records -/

/-- A record as the unit reads it: its address, N, its 6 + 2N lines, and whether one of them is uncorrectable (R239). -/
structure GRec where
  addr : Nat
  n : Nat
  img : List Byte
  bad : Bool
  deriving DecidableEq, Repr

/-- A 64-bit word of a record. -/
def GRec.word (r : GRec) (off : Nat) : Word := toW (leNat ((r.img.drop off).take 8))

/-- A 32-bit word of a record. -/
def GRec.half (r : GRec) (off : Nat) : Nat := leNat ((r.img.drop off).take 4)

/-- Header fields (R240). -/
def GRec.factor (r : GRec) : Bool := bitOf (r.word 0).toNat 0
def GRec.sched (r : GRec) : Nat := field (r.word 0) 2 1
def GRec.thr (r : GRec) : Nat := r.half 8

/-- Neighbour i's record, host core and slot (R241). -/
def GRec.nbRec (r : GRec) (i : Nat) : Word := r.word (64 + 16 * i)
def GRec.nbWord (r : GRec) (i : Nat) : Word := r.word (72 + 16 * i)

/-- The dimension on edge i (R241). -/
def GRec.dim (r : GRec) (i : Nat) : Nat := field (r.nbWord i) 25 24 + 1

/-- The joint index at which variable i begins (R242). -/
def GRec.joint (r : GRec) (i : Nat) : Nat := ((List.range i).map r.dim).foldl (· + ·) 0

/-- Malformed, as the lines that can be read show it (R243): a reserved bit, sched 3, dimensions beyond 8, a variable's
dimension that differs, a wrong format. -/
def GRec.malformed (r : GRec) (known : Nat → Bool) : Bool :=
  let h := r.word 0
  -- the last word of a line that R242 lays out: δ stands in a slot's only
  let tail (k : Nat) : Word := if known k then r.word (64 * k + 56) else 0
  let plain : List Nat := (if r.factor then [] else [3, 4]) ++ (List.range r.n).map (6 + r.n + ·)
  field h 15 10 ≠ 0 || field h 63 24 ≠ 0 || field (r.word 8) 63 32 ≠ 0 || r.sched = 3 ||
  (List.range 5).any (fun i => r.word (24 + 8 * i) != 0) || plain.any (fun k => tail k != 0) ||
  (List.range r.n).any (fun i => field (tail (6 + i)) 63 8 ≠ 0 || (known (1 + i / 4) &&
    (bitOf (r.nbWord i).toNat 23 || field (r.nbWord i) 63 26 ≠ 0 || ptrFmt (r.nbRec i) ≠ 14 ||
    (!r.factor && r.dim i ≠ field h 7 6 + 1)))) ||
  (r.factor && known 1 && (r.n ≤ 4 || known 2) && r.joint r.n > 8)

/-- The entries of Λ in row order (R242). -/
def lamPairs : List (Nat × Nat) := [(0, 0), (0, 1), (0, 2), (0, 3), (1, 1), (1, 2), (1, 3), (2, 2), (2, 3), (3, 3)]

/-- A message's words that dimension d uses: η, then Λ (R242). -/
def msgUses (d p : Nat) : Bool := if p < 4 then p < d else (lamPairs.getD (p - 4) (0, 4)).2 < d

/-- A message: 14 words, those at or above d zero (R242). -/
abbrev Msg := List Nat

/-- The message in a line's bytes (R242). -/
def msgOf (d : Nat) (b : List Byte) : Msg :=
  (List.range 14).map (fun p => if msgUses d p then leNat ((b.drop (4 * p)).take 4) else 0)

/-- The 56 bytes of a message. -/
def msgBytes (m : Msg) : List Byte := m.flatMap (fun v => leBytes 4 v)

/-- The message in line `k` of a record. -/
def GRec.msg (r : GRec) (k d : Nat) : Msg := msgOf d (r.img.drop (64 * k))

/-- Slot i's damping field (R242). -/
def GRec.damping (r : GRec) (i : Nat) : Nat := (r.img.getD (64 * (6 + i) + 56) 0).toNat

/-- A line is mapped in a core's stash by a context of a device (R239). -/
def State.lineMapped (s : State) (c : Nat) (v : VDev) (gl : Nat) : Bool :=
  match s.stashFind c gl with
  | some (_, e) => (s.ctx c e.ctx).vdev == v
  | none => false

/-- The lines of a record with n neighbours (R239). -/
def recLines (addr n : Nat) : List Nat := (List.range (6 + 2 * n)).map (fun i => (addr / 64 + i) % 2 ^ 49)

/-- Whether a record is wholly mapped in a core's stash by a context of a device, with its N and the DRAM lines that reading
its header cost; the header is filled for it (R239, R248, R256). None where it has to wait. -/
def State.gaussSize (s : State) (q : Issuer) (c addr : Nat) : Option (Option Nat × Nat × State) :=
  if addr % 64 ≠ 0 || !s.lineMapped c q.vdev (addr / 64) then some (none, 0, s)
  else match s.engineReads q c [addr / 64] with
    | none => none
    | some (imgs, _, dram, s) =>
      let n := field (toW (leNat (((imgs.getD 0 (0, [])).2).take 8))) 5 3 + 1
      some (if (recLines addr n).all (s.lineMapped c q.vdev) then some n else none, dram, s)

/-- Reads a record that is wholly mapped in a core's stash by a context of a device (R239, R256); `none` inside where it
is not. None where a line has to wait. -/
def State.gaussRead (s : State) (q : Issuer) (c addr : Nat) : Option (Option GRec × Nat × State) :=
  match s.gaussSize q c addr with
  | none => none
  | some (none, dram, s) => some (none, dram, s)
  | some (some n, dram, s) =>
    match s.engineReads q c (recLines addr n) with
    | none => none
    | some (imgs, bad, more, s) => some (some ⟨addr, n, imgs.flatMap Prod.snd, !bad.isEmpty⟩, dram + more, s)

/-! ## Arithmetic (R244-R246): each operation rounds with round_ne and raises flags -/

/-- A computation that raises flags. -/
abbrev FM := StateM Flags

/-- Raises the flags of an operation. -/
def fm (r : Nat × Flags) : FM Nat := do
  modify (· ||| r.2)
  return r.1

def gadd (a b : Nat) : FM Nat := fm (fadd .fp32 .ne false a b)
def gsub (a b : Nat) : FM Nat := fm (fsub .fp32 .ne false a b)
def gmul (a b : Nat) : FM Nat := fm (fmul .fp32 .ne false a b)
def gdiv (a b : Nat) : FM Nat := fm (fdiv .fp32 .ne false a b)
def gsqrt (a : Nat) : FM Nat := fm (fsqrt .fp32 .ne false a)

/-- An operation on each entry of two messages that dimension d uses. -/
def msgZip (d : Nat) (op : Nat → Nat → FM Nat) (a b : Msg) : FM Msg :=
  (List.range 14).mapM (fun p => if msgUses d p then op (a.getD p 0) (b.getD p 0) else pure 0)

/-- Damping (R245). -/
def damp (d delta : Nat) (new old : Msg) : FM Msg :=
  if delta = 0 then pure new
  else
    let int (i : Nat) : Nat := (roundVal .fp32 .ne false (intVal i)).1
    msgZip d (fun a b => do gmul (← gadd (← gmul (int (256 - delta)) a) (← gmul (int delta) b)) 0x3B800000) new old

/-- |a − b|, exact (R246, R248); NaN where either is NaN or both are one infinity. -/
def absDiff (a b : Nat) : FVal := (exactSum false [unpack .fp32 a, (unpack .fp32 b).negate]).1.abs

/-- A change counts: it is above the threshold, or NaN (R246, R248, R326). -/
def overThr (thr : Nat) (r : FVal) : Bool := r.isNan || (unpack .fp32 thr).lt r

/-- Some entry of two messages differs by more than the threshold (R246, R248). -/
def msgMoved (d thr : Nat) (a b : Msg) : Bool :=
  (List.range 14).any (fun p => msgUses d p && overThr thr (absDiff (a.getD p 0) (b.getD p 0)))

/-- A symmetric 8 × 8 matrix as its upper triangle by row. -/
def symAt (a b : Nat) : Nat := 8 * min a b + max a b

/-- The largest of values, NaN if any is NaN (R244). -/
def largest : List FVal → FVal
  | [] => .nan false
  | v :: vs => vs.foldl (fun m v => if m.isNan || v.isNan then .nan false else if m.lt v then v else m) v

/-- A factor's message to neighbour j, before damping, or the pivot at which its block is singular (R244). -/
def gaussFac (r : GRec) (j : Nat) : FM (Except Nat Msg) := do
  let D := r.joint r.n
  let dj := r.dim j
  let mut J : List Nat := (List.range 64).map (fun i =>
    let a := i / 8
    let b := i % 8
    if a ≤ b then r.half (192 + 32 + 4 * (8 * a - a * (a - 1) / 2 + b - a)) else 0)
  let mut h : List Nat := (List.range 8).map (fun a => r.half (192 + 4 * a))
  for i in List.range r.n do
    if i ≠ j then
      let m := r.msg (6 + i) (r.dim i)
      let o := r.joint i
      for (q, a, b) in (List.range 10).zip lamPairs do
        if b < r.dim i then
          J := J.set (symAt (o + a) (o + b)) (← gadd (J.getD (symAt (o + a) (o + b)) 0) (m.getD (4 + q) 0))
      for a in List.range (r.dim i) do
        h := h.set (o + a) (← gadd (h.getD (o + a) 0) (m.getD a 0))
  let jm := J
  let hm := h
  let oj := r.joint j
  let o := (List.range D).filter (fun x => x < oj || oj + dj ≤ x)
  let n := o.length
  let at_ (x y : Nat) : Nat := jm.getD (symAt x y) 0
  let oo (k : Nat) : Nat := o.getD k 0
  let lim := scaled (-20) (largest (o.map (fun x => unpack .fp32 (at_ x x))))
  -- L[r][k] stands at 8 r + k
  let mut L : List Nat := List.replicate 64 0
  for k in List.range n do
    let mut p := at_ (oo k) (oo k)
    for m in List.range k do
      p ← gsub p (← gmul (L.getD (8 * k + m) 0) (L.getD (8 * k + m) 0))
    if !lim.lt (unpack .fp32 p) then return .error k
    L := L.set (9 * k) (← gsqrt p)
    for x in List.range n do
      if k < x then
        let mut s := at_ (oo x) (oo k)
        for m in List.range k do
          s ← gsub s (← gmul (L.getD (8 * x + m) 0) (L.getD (8 * k + m) 0))
        L := L.set (8 * x + k) (← gdiv s (L.getD (9 * k) 0))
  let mut ws : List (List Nat) := []
  for g in List.range (dj + 1) do
    let mut w : List Nat := []
    for k in List.range n do
      let mut s := if g < dj then at_ (oo k) (oj + g) else hm.getD (oo k) 0
      for m in List.range k do
        s ← gsub s (← gmul (L.getD (8 * k + m) 0) (w.getD m 0))
      w := w ++ [← gdiv s (L.getD (9 * k) 0)]
    ws := ws ++ [w]
  let mut out : Msg := List.replicate 14 0
  for (q, a, b) in (List.range 10).zip lamPairs do
    if b < dj then
      let mut v := at_ (oj + a) (oj + b)
      for k in List.range n do
        v ← gsub v (← gmul ((ws.getD a []).getD k 0) ((ws.getD b []).getD k 0))
      out := out.set (4 + q) v
  for a in List.range dj do
    let mut v := hm.getD (oj + a) 0
    for k in List.range n do
      v ← gsub v (← gmul ((ws.getD a []).getD k 0) ((ws.getD dj []).getD k 0))
    out := out.set a v
  return .ok out

/-- A variable's belief and, for each neighbour that is sent one, its outgoing message (R246, R326). -/
def gaussVar (r : GRec) : FM (Msg × List (Nat × Msg)) := do
  let d := field (r.word 0) 7 6 + 1
  let mut B := r.msg 3 d
  for i in List.range r.n do
    B ← msgZip d gadd B (r.msg (6 + i) d)
  let mut outs : List (Nat × Msg) := []
  for i in List.range r.n do
    let new ← msgZip d gsub B (r.msg (6 + i) d)
    let last := r.msg (6 + r.n + i) d
    let out ← damp d (r.damping i) new last
    if msgMoved d r.thr out last then outs := outs ++ [(i, out)]
  return (B, outs)

/-! ## Writes of the unit -/

/-- The unit as the writer of a record of a device on a core, outside a command (R247). -/
def State.unitIssuer (s : State) (c x : Nat) (v : VDev) : Issuer :=
  let k := s.ctx c x
  ⟨c, 0, 0, x, 64, v, k.code 255, 64, k.shift, 0, 0⟩

/-- Writes bytes of a mapped record line, owning it for the write unless a command of the unit owns it already (R247,
R251). None where it has to wait. -/
def State.gaussPut (s : State) (q : Issuer) (c ga : Nat) (bytes : List Byte) (bad : Bool) : Option State :=
  let gl := ga / 64
  match s.stashFind c gl with
  | none => some s
  | some (_, e) =>
    match e.owner with
    | some o =>
      if (s.core c).gauss.any (fun w => match w with | .command j => j.id == o | .delivery _ => false) then
        (s.engineWrite q o c ga (whole bytes) q.nu bad).map Prod.fst
      else none
    | none =>
      let id := s.nextCmd
      match ({ s with nextCmd := id + 1 }).takeLine q id c gl with
      | none => none
      | some s => (s.engineWrite q id c ga (whole bytes) q.nu bad).map (fun p => p.1.releaseLine q id c gl)

/-- The header bits that the unit holds of a record (R240): missed and the fresh bits as it last wrote them, and their reset
value 0 where it has written none since the line was mapped (notes/assumptions/68.md). -/
def Entry.unitBits (e : Entry) : Bool × Nat := e.unit.getD (false, 0)

/-- A record stands in a firing queue of its device's context (R240, R248). -/
def State.queued (s : State) (c x : Nat) (p : Word) : Bool :=
  let k := s.ctx c x
  (k.fireNow ++ k.fireNext).any (fun q => ptrAddr q == ptrAddr p)

/-- The unit's update of word 0 of a record's header (R240): queued, missed and fresh become the unit's own values, whatever
software has stored there; with the DRAM lines that it cost. None where it has to wait. -/
def State.gaussSetHead (s : State) (q : Issuer) (c x : Nat) (p : Word) (f : Bool × Nat → Bool × Nat) : Option (State × Nat) :=
  let gl := ptrAddr p / 64
  if (s.stashFind c gl).isNone then some (s, 0)
  else match s.engineReads q c [gl] with
    | none => none
    | some (_, _, dram, s) =>
      match s.stashFind c gl with
      | none => some (s, dram)
      | some (i, e) =>
        let (missed, fresh) := f e.unitBits
        let h := toW (leNat (e.data.take 8)) &&& ~~~0xFF0300
        let own : Word := toW (256 * (s.queued c x p).toNat + 512 * missed.toNat + 65536 * fresh)
        ((s.setEntry c i { e with unit := some (missed, fresh) }).gaussPut q c (ptrAddr p) (leBytes 8 (h ||| own).toNat)
          false).map (fun s => (s, dram))

/-- The entries of a part whose record is still wholly mapped by a context of the device, with the DRAM lines that the headers
cost (R225, R248). None where one has to wait. -/
def State.stillMapped (s : State) (q : Issuer) (c : Nat) : List Word → Option (List Word × State × Nat)
  | [] => some ([], s, 0)
  | p :: rest => do
    let (n, dram, s) ← s.gaussSize q c (ptrAddr p)
    let (ps, s, more) ← s.stillMapped q c rest
    return (if n.isSome then p :: ps else ps, s, dram + more)

/-- A firing queue has no free entry (R248). -/
def Context.fireFull (k : Context) : Bool := k.fireNow.length + k.fireNext.length ≥ 64

/-- A full firing queue loses its unmapped records (R248); with the DRAM lines that this cost. -/
def State.firePurge (s : State) (q : Issuer) (c x : Nat) : Option (State × Nat) :=
  if !(s.ctx c x).fireFull then some (s, 0)
  else do
    let (a, s, m) ← s.stillMapped q c (s.ctx c x).fireNow
    let (b, s, n) ← s.stillMapped q c (s.ctx c x).fireNext
    return (s.modCtx c x (fun k => { k with fireNow := a, fireNext := b }), m + n)

/-- A push of a record (R248): into the next part or the current one, provided it stands in neither. A full queue first loses
its unmapped records; where that frees no entry the push is missed. With the DRAM lines that it cost. -/
def State.gaussPush (s : State) (q : Issuer) (c x : Nat) (p : Word) (next : Bool) : Option (State × Nat) :=
  if s.queued c x p then some (s, 0)
  else do
    let (s, m) ← s.firePurge q c x
    let (s, n) ←
      if (s.ctx c x).fireFull then s.gaussSetHead q c x p (fun b => (true, b.2))
      else (s.modCtx c x (fun k =>
        if next then { k with fireNext := k.fireNext ++ [p] } else { k with fireNow := k.fireNow ++ [p] })).gaussSetHead q c x p id
    return (s, m + n)

/-- Writes a slot (R247, R250): bytes 0-55 in one step, the fresh bit, and the schedule rule of R248; with the DRAM lines that
it cost. -/
def State.gaussSlot (s : State) (q : Issuer) (c x : Nat) (r : GRec) (p : Word) (i : Nat) (msg : List Byte) (bad push : Bool) :
    Option (State × Nat) := do
  let d := r.dim i
  let new := msgOf d msg
  let s ← s.gaussPut q c ((r.addr + 64 * (6 + i)) % 2 ^ 55) (msgBytes new) bad
  let (s, m) ← s.gaussSetHead q c x p (fun b => (b.1, b.2 ||| 2 ^ i))
  let (s, n) ←
    if r.sched = 2 then s.gaussPush q c x p true
    else if r.sched = 0 && msgMoved d r.thr new (r.msg (6 + i) d) then s.gaussPush q c x p false
    else some (s, 0)
  let (s, k) ← if push then s.gaussPush q c x p false else some (s, 0)
  return (s, m + n + k)

/-- A delivery that cannot be applied goes back to its sender's mailbox queue (R75, R247). -/
def State.gaussReturn (s : State) (c : Nat) (d : Delivery) (status : Nat) : State :=
  s.send (.mail d.src ⟨d.vdev, 4, c, 0, [toW status, d.record, toW d.slot]⟩) c d.thread (own := some (d.vdev, d.launch))

/-- Applies a delivery at its target (R247, R255): into the slot, or back to the sender; with the DRAM lines that it cost. None
where it has to wait. -/
def State.gaussApply (s : State) (c : Nat) (d : Delivery) : Option (State × Nat) :=
  match s.ctxOf c d.vdev with
  | none => some (s.gaussReturn c d 1, 0)
  | some x =>
    let q := s.unitIssuer c x d.vdev
    match s.gaussRead q c (ptrAddr d.record) with
    | none => none
    | some (none, n, s) => some (s.gaussReturn c d 1, n)
    | some (some r, n, s) =>
      if d.slot ≥ r.n then some (s.gaussReturn c d 2, n)
      else (s.gaussSlot q c x r d.record d.slot d.msg d.bad false).map (fun p => (p.1, n + p.2))

/-! ## Commands -/

/-- Delivers a message to neighbour i (R247, R255): at once where its record is hosted here, else as a packet; with the DRAM
lines that it cost. -/
def State.gaussDeliver (s : State) (j : GaussJob) (r : GRec) (i : Nat) (msg : Msg) : Option (State × Nat) :=
  let w := r.nbWord i
  let d : Delivery :=
    ⟨field w 19 0, r.nbRec i, field w 22 20, msgBytes msg, j.iss.vdev, j.iss.core, j.iss.thread, r.bad, j.iss.launch⟩
  if d.target = j.iss.core then s.gaussApply j.iss.core d
  else some (s.send (.gauss d) j.iss.core j.iss.thread, 0)

/-- Deliveries in ascending neighbour order. -/
def State.gaussDeliverAll (s : State) (j : GaussJob) (r : GRec) : List (Nat × Msg) → Option (State × Nat)
  | [] => some (s, 0)
  | (i, m) :: rest => do
    let (s, n) ← s.gaussDeliver j r i m
    let (s, k) ← State.gaussDeliverAll s j r rest
    return (s, n + k)

/-- A message line that the unit writes whole. -/
def msgLine (m : Msg) : List Byte := msgBytes m ++ List.replicate 8 0

/-- Writes a command's message lines (R244, R246, R283). -/
def State.gaussLines (s : State) (j : GaussJob) (r : GRec) : List (Nat × Msg) → Option State
  | [] => some s
  | (k, m) :: rest =>
    (s.gaussPut j.iss j.iss.core ((r.addr + 64 * k) % 2 ^ 55) (msgLine m) r.bad).bind (fun s => s.gaussLines j r rest)

/-- A command's end: lines released, flags, true-up, the issuing thread goes on (R43, R225, R251). -/
def State.gaussEnd (s : State) (j : GaussJob) (flags : Flags) (cycles dram : Nat) : State :=
  let s := (s.modCore j.iss.core (fun k => { k with
    gauss := k.gauss.drop 1, gaussFree := s.now + cycles, gaussSeq := k.gaussSeq + 1 })).releaseAll j.id
  ((s.engineFlags j.iss flags).trueUp j.iss (ceilDiv (5 * cycles) 8 + 21 * dram)).goOn j.iss

/-- Deliveries that the command's own core applies (R254, R255). -/
def GRec.local (r : GRec) (c : Nat) (tgt : List Nat) : Nat := (tgt.filter (fun i => field (r.nbWord i) 19 0 == c)).length

/-- The unit runs a command that it reads now (R244-R247, R250-R255). None where it has to wait. -/
def State.gaussRun (s : State) (j : GaussJob) : Option State :=
  let c := j.iss.core
  match s.gaussRead j.iss c (ptrAddr j.record) with
  | none => none
  | some (none, _, s) => some (s.gaussEnd j 0 0 0)
  | some (some r, dram, s) =>
    let dram := j.dram + dram
    let fired (s : State) : Option (State × Nat) := s.gaussSetHead j.iss c j.iss.ctx j.record (fun _ => (false, 0))
    match j.op with
    | .fac t =>
      let dj := r.dim t
      let n := r.joint r.n - dj
      let cost := 16 + r.joint r.n * (r.joint r.n + 1) + n ^ 3 + 2 * n ^ 2 * dj
      let (res, f) := (gaussFac r t).run 0
      match res with
      | .error k =>
        let s := s.gaussEnd j f cost dram
        match s.issuing j.iss with
        | none => some s
        | some (i, _) => some (s.takeTrap c i ⟨14, j.record, toW t, toW k⟩ [])
      | .ok new =>
        let (out, f) := (damp dj (r.damping t) new (r.msg (6 + r.n + t) dj)).run f
        match (s.gaussLines j r [(6 + r.n + t, out)]).bind fired with
        | none => none
        | some (s, n) =>
        match s.gaussDeliver j r t out with
        | none => none
        | some (s, m) => some (s.gaussEnd j f (cost + 8 * r.local c [t]) (dram + n + m))
    | .var =>
      let d := field (r.word 0) 7 6 + 1
      let ((B, outs), f) := (gaussVar r).run 0
      match (s.gaussLines j r ((4, B) :: outs.map (fun p => (6 + r.n + p.1, p.2)))).bind fired with
      | none => none
      | some (s, n) =>
      match s.gaussDeliverAll j r outs with
      | none => none
      | some (s, m) =>
        some (s.gaussEnd j f (16 + 4 * r.n * (d + d * (d + 1) / 2) + 8 * r.local c (outs.map Prod.fst)) (dram + n + m))
    | .write i push image bad =>
      match s.gaussSlot j.iss c j.iss.ctx r j.record i image bad push with
      | none => none
      | some (s, n) => some (s.gaussEnd j 0 8 (dram + n))

/-- GAUSS_COMMAND_DONE: the unit's oldest work is a command, and it completes. -/
def State.gaussDone (s : State) (c : Nat) : Option State :=
  match (s.core c).gauss with
  | .command j :: _ => if s.now < (s.core c).gaussFree then none else s.gaussRun j
  | _ => none

/-- GAUSS_COMMAND_DONE (R251). -/
def execGaussCommandDone (core : CoreId) (s : State) : Host.Outcome State Fault Refusal := .next ((s.gaussDone core.toNat).getD s)

/-- The first delivery that arrives at a core now, with its place on the mesh (R23, R247). -/
def State.nextDelivery (s : State) (c : Nat) : Option (Nat × Flight × Delivery) :=
  (List.range s.wire.length).findSome? (fun k => match s.flight? k with
    | some f => match f.pkt with
      | .gauss d => if d.target = c then some (k, f, d) else none
      | _ => none
    | none => none)

/-- GAUSS_DELIVERY: the unit applies the delivery that is its oldest work; else a delivery that reaches the core enters
its buffer of 16 or is refused and resent (R73, R247). -/
def State.gaussDelivery (s : State) (c : Nat) : Option State :=
  let w := (s.core c).gauss
  match (if s.now < (s.core c).gaussFree then [] else w) with
  | .delivery d :: rest =>
    ((s.modCore c (fun k => { k with
      gauss := rest, gaussFree := s.now + 8, gaussSeq := k.gaussSeq + 1 })).gaussApply c d).map Prod.fst
  | _ =>
    let buffered := (w.filter (fun x => match x with | .delivery _ => true | .command _ => false)).length
    (s.nextDelivery c).map (fun (k, f, d) => s.outcome k f
      (if buffered < 16 then some (s.modCore c (fun x => { x with gauss := w ++ [GaussWork.delivery d] })) else none))

/-- GAUSS_DELIVERY (R247). -/
def execGaussDelivery (core : CoreId) (s : State) : Host.Outcome State Fault Refusal := .next ((s.gaussDelivery core.toNat).getD s)

/-! ## Instructions -/

/-- The checks 3-5 of R251 on a record pointer and on GBWR's image pointer. -/
def gaussPtr (rec' : Word) (image : Option Word) : Act Unit := do
  if ptrFmt rec' ≥ 16 then raise 5 rec' 0 0
  for p in image.toList do
    if ptrFormatBad (ptrFmt p) (ptrL p) then raise 5 p 0 0
  if ptrFmt rec' ≠ 14 then raise 2 rec' 0 0
  if ptrAddr rec' % 64 ≠ 0 then misalign rec'
  for p in image.toList do
    if ptrAddr p % (if ptrFmt p = 7 then 128 else 64) ≠ 0 then misalign p

/-- A mapped line's bytes stand in the stash or can be brought there: its page is translated to a frame of the device. -/
def State.fillable (s : State) (c : Nat) (v : VDev) (gl : Nat) : Bool :=
  match s.resolve c v gl false with
  | .ok w => match w.leaf? with
    | some l => s.ownerOk c v (l.phys (64 * gl))
    | none => true
  | .error .migrating => true
  | .error _ => false

/-- A command's accesses to its record (R193, R251): every line is read, and some are written. -/
def recAccess (rec' : Word) (addr n : Nat) (writes : List Nat) : List Access :=
  (List.range (6 + 2 * n)).map (fun k =>
    let gl := (addr / 64 + k) % 2 ^ 49
    ⟨if writes.contains k then .rw else .r, gl, if k = 0 then rec' else toW (64 * gl), false⟩)

/-- The neighbours' records whose table entries can be read: the write right of each one that the table names (R210, R251). -/
def GRec.neighbours (r : GRec) (known : Nat → Bool) : List Access :=
  ((List.range r.n).filter (fun i => known (1 + i / 4))).map (fun i => ⟨.w, ptrAddr (r.nbRec i) / 64, r.nbRec i, false⟩)

/-- The lines of a record that can be brought into the stash, read for the checks of a command; the others count as zeros
(R203, R251). None where a line has to wait. -/
def State.gaussKnown (s : State) (q : Issuer) (c addr n : Nat) (known : Nat → Bool) : Option (GRec × Nat × State) := do
  let ls := (recLines addr n).zipIdx
  let (imgs, bad, dram, s) ← s.engineReads q c ((ls.filter (fun p => known p.2)).map Prod.fst)
  return (⟨addr, n, ls.flatMap (fun p => ((imgs.find? (fun i => i.1 == p.1)).map Prod.snd).getD (List.replicate 64 0)),
    !bad.isEmpty⟩, dram, s)

/-- The acceptance of a command (R203, R251): what the record's readable lines show, then the rights of its lines and of the
others, `img` known from registers and the neighbours where the command reaches them, then ownership of every line. A record
whose header cannot be brought into the stash is refused for that line, as what it holds cannot be checked. `op` is made from
the issuer once every check has passed, with the DRAM lines that it cost. -/
def gaussAccept (rec' : Word) (ec : BitVec 2) (nu : BitVec 8) (fits : GRec → Bool) (writes : GRec → List Nat)
    (img : List Access) (sends : Bool) (op : Issuer → Act (GaussOp × Nat)) : Act Unit := do
  let (c, _) ← me
  let h ← thr
  let addr := ptrAddr rec'
  let q0 := (← get).unitIssuer c h.ctx h.vdev
  if !(← get).lineMapped c h.vdev (addr / 64) then raise 2 rec' 0 0
  if !(← get).fillable c h.vdev (addr / 64) then discard (checkAll c h.ctx h.vdev (⟨.rw, addr / 64, rec', false⟩ :: img))
  let (n, d0, s) ← orTurn ((← get).gaussSize q0 c addr)
  set s
  match n with
  | none => raise 2 rec' 0 0
  | some n =>
    let known (k : Nat) : Bool := s.fillable c h.vdev ((addr / 64 + k) % 2 ^ 49)
    let (r, d1, s) ← orTurn (s.gaussKnown q0 c addr n known)
    set s
    if r.malformed known || !fits r then raise 2 rec' 0 0
    discard (checkAll c h.ctx h.vdev (recAccess rec' addr n (writes r) ++ img ++ (if sends then r.neighbours known else [])))
    endChunk
    let q ← issuer nu ec
    let id ← newCmd
    let (o, d2) ← op q
    let (s, d3) ← orTurn ((← get).takeLines q id c (recLines r.addr r.n))
    set (s.modCore c (fun k => { k with gauss := k.gauss ++ [.command ⟨id, q, rec', o, d0 + d1 + d2 + d3⟩] }))
    modThr (fun t => { t with status := .engine })

/-- GBFAC (R244, R251). -/
def execGbfac (g : Guard) (blk : Reg) (ec : BitVec 2) (nu : BitVec 8) (s : State) : Host.Outcome State Fault Refusal :=
  runNext g (do
    checkFields [.group blk 2]
    notOnRiddle (.gbfac g blk ec nu)
    let w ← rdXs (regWin blk) 2
    let j := (w.getD 1 0).toNat
    gaussPtr (w.getD 0 0) none
    gaussAccept (w.getD 0 0) ec nu (fun r => r.factor && j < r.n) (fun r => [0, 6 + r.n + j]) [] true (fun _ => return (.fac j, 0))) s

/-- GBVAR (R246, R251). -/
def execGbvar (g : Guard) (blk : Reg) (ec : BitVec 2) (nu : BitVec 8) (s : State) : Host.Outcome State Fault Refusal :=
  runNext g (do
    checkFields [.group blk 1]
    notOnRiddle (.gbvar g blk ec nu)
    let w ← rdXs (regWin blk) 1
    gaussPtr (w.getD 0 0) none
    gaussAccept (w.getD 0 0) ec nu (fun r => !r.factor) (fun r => [0, 4] ++ (List.range r.n).map (6 + r.n + ·)) [] true
      (fun _ => return (.var, 0))) s

/-- GBWR (R250, R251). -/
def execGbwr (g : Guard) (blk : Reg) (ec : BitVec 2) (nu : BitVec 8) (s : State) : Host.Outcome State Fault Refusal :=
  runNext g (do
    checkFields [.group blk 3]
    notOnRiddle (.gbwr g blk ec nu)
    let w ← rdXs (regWin blk) 3
    let ctl := w.getD 1 0
    let img := w.getD 2 0
    if ctl &&& ~~~0x107 ≠ 0 then raise 2 ctl 0 0
    gaussPtr (w.getD 0 0) (some img)
    let i := field ctl 2 0
    let a ← deref img
    gaussAccept (w.getD 0 0) ec nu (fun r => i < r.n) (fun _ => [0, 6 + i]) [⟨.r, a / 64, img, false⟩] false (fun q => do
      let x ← orTurn ((← get).readOnce q q.core [] [(a, 56)])
      set x.state
      return (.write i (bitOf ctl.toNat 8) (x.bytes.getD 0 []) x.bad, x.dram))) s

/-- The unit's present work (R249): the one that it has begun and whose time is not over, or the one that it begins next. -/
def Core.gaussNow (k : Core) (now : Nat) : Option Nat :=
  if now < k.gaussFree then some k.gaussSeq else if k.gauss.isEmpty then none else some (k.gaussSeq + 1)

/-- The unit has finished a work: its time is over, or a later one has begun. -/
def Core.gaussPast (k : Core) (now n : Nat) : Bool := n < k.gaussSeq || (n = k.gaussSeq && k.gaussFree ≤ now)

/-- What GBPOP does once the unit's present work is finished (R249, R325): the next record, which leaves its part; where its
header is still mapped, its queued bit is cleared, and its successor, if it has one, is pushed into the current part. -/
def gbpopNow (a : Reg) : Act Unit := do
  let (c, _) ← me
  let h ← thr
  modify (fun s => s.modCtx c h.ctx (fun x =>
    if x.fireNow.isEmpty then { x with fireNow := x.fireNext, fireNext := [] } else x))
  match ((← get).ctx c h.ctx).fireNow with
  | [] => wr a 0
  | p :: rest =>
    modify (fun s => s.modCtx c h.ctx (fun x => { x with fireNow := rest }))
    let q := (← get).unitIssuer c h.ctx h.vdev
    if (← get).lineMapped c h.vdev (ptrAddr p / 64) then
      let (imgs, _, _, s) ← orTurn ((← get).engineReads q c [ptrAddr p / 64])
      set (← orTurn (s.gaussSetHead q c h.ctx p id)).1
      let succ := toW (leNat ((((imgs.getD 0 (0, [])).2).drop 16).take 8))
      if succ ≠ 0 then
        let (n, _, s) ← orTurn ((← get).gaussSize q c (ptrAddr succ))
        set s
        if n.isSome then set (← orTurn (s.gaussPush q c h.ctx succ false)).1
    wr a p

/-- GBPOP (R249, R325): it waits for the unit's present work, and for no later one. -/
def execGbpop (g : Guard) (a : Reg) (s : State) : Host.Outcome State Fault Refusal :=
  runInstr g (do
    checkFields [.dst a]
    notOnRiddle (.gbpop g a)
    endChunk
    let (c, _) ← me
    let s ← get
    let k := s.core c
    match s.turn.map Turn.at_ with
    | some u =>
      match (if u.work.isSome then none else k.gaussNow s.now) with
      | some n =>
        modThr (fun t => { t with issued := some { u with work := some n } })
        return .stay
      | none =>
        gbpopNow a
        return .next
    | none => return .next) s

end Sys2Proof.Machine
end

