-- ==== Sys2Proof/Machine/Evict.lean ====
section
/-! DEFINITION. Windows, contexts and eviction (R57, R64, R69-R71, R261-R264, R308, R331). -/

namespace Sys2Proof.Machine

/-! ## Management's requests -/

/-- Reports a refusal to management. -/
def State.refuse (s : State) (m : String) : State := { s with ridge := { s.ridge with notices := s.ridge.notices ++ [m] } }

/-- A step from outside has to wait, and is taken again later. -/
def State.await (s : State) (i : Instr) : State := { s with ridge := { s.ridge with underway := s.ridge.underway ++ [i] } }

/-- A step that is taken again later where it has to wait. -/
def State.orAwait (s : State) (i : Instr) (r : Option State) : State := r.getD (s.await i)

/-! ## Windows -/

/-- Two runs of file entries meet. -/
def runsMeet (a n b m : Nat) : Bool := a < b + m && b < a + n

/-- The lowest free base, a multiple of 8, that holds a window within the usable file entries, given the threads whose windows
are live (R57, R64, R262). -/
def freeBaseOf (usable : Nat) (ths : List (Nat × Thread)) (size : Nat) : Option Nat :=
  ((List.range 252).map (8 * ·)).find? (fun b =>
    b + size ≤ min usable Config.riddleBase && ths.all (fun p => p.1 = 63 || !runsMeet b size p.2.base p.2.size))

/-- The lowest free base on a core. -/
def State.freeBase (s : State) (c size : Nat) : Option Nat := freeBaseOf (s.core c).usable (s.core c).slots size

/-! ## Eviction -/

/-- An eviction finds the thread at a boundary (R261): a parked operation, a reply and an engine's acknowledgement are
waited for. -/
def Status.evictable : Status → Bool
  | .ready | .poll _ | .suspended | .turns _ | .home _ | .refused _ _ | .copy _ | .matrix _ _ | .port _ _ => true
  | .parked _ | .reply _ _ | .engine => false

/-- What a saved thread waits for (R261): a CPYQ that has read its copy waits on for a register, a matrix instruction for the
grants of its command; any other waiting instruction issues again. -/
def Status.saved : Status → Status
  | .copy y => .copy y
  | .matrix _ _ => .engine
  | _ => .ready

/-- The command with which a matrix instruction waits for a shadow set (R213, R215). -/
def Status.cmd : Status → List (Bool × MCmd)
  | .matrix hi m => [(hi, m)]
  | _ => []

/-- A thread's matrix command that does not run to its end: one in a shadow set, and an active one that is not ready
(R261). -/
def MQueue.saves (q : MQueue) (mine : MCmd → Bool) : List MCmd × MQueue :=
  let out (m : MCmd) : MCmd := { m with out := false }
  let sh := q.shadow.filter mine
  let ac := q.active.filter (fun m => mine m && !m.run && !m.ready q && !m.ended)
  (ac.toList.map out ++ sh.toList.map out,
   { q with active := if ac.isSome then none else q.active, shadow := if sh.isSome then none else q.shadow })

/-- The copies of a core with those of a context stopped as CPYCAN stops them (R186, R261). -/
def Core.stopCopies (k : Core) (x : Nat) (v : VDev) : Tbl Copy :=
  k.barrow.map (fun b => if b.2.iss.ctx = x && b.2.iss.vdev == v && b.2.st != .sent then (b.1, { b.2 with cancelled := true }) else b)

/-- The threads saved with a task have its latest state (R66, R189; notes/assumptions/71.md). -/
def State.saveTask (s : State) (k : Task) : State :=
  s.away (fun v => if v.task.id = k.id then { v with task := k } else v) (fun t => t)

/-- Evicts a thread (R261, R308): its uncommitted chunk is squashed, its window and state are saved, its commands that
are not ready with them, its context's copies stop, its channel ends stay bound. Its fetch buffer is not saved and starts
empty (notes/assumptions/77.md), so that the return point of a SYNC_LIMIT that waits for its handler is found before it goes
(R103). None where it has to wait. -/
def State.evict (s : State) (c i : Nat) : Option State :=
  match s.thread? c i with
  | none => some s
  | some t =>
    if !t.status.evictable || t.raised.isSome || i = 63 then none
    else
      let parked := t.status == .suspended
      let cmd := t.status.cmd
      let s := s.squash c i
      match s.thread? c i with
      | none => some s
      | some t =>
        let k := s.core c
        let mine (m : MCmd) : Bool := !m.remote && m.iss.mine t
        let (hc, hq) := k.hi.saves mine
        let (lc, lq) := k.lo.saves mine
        let n := k.arrStamp
        let sv : Saved :=
          { th := { t with
              status := t.status.saved, wake := t.wake || parked, issued := none, fetch := []
              after := if t.pending.any (fun q => q.cause = 10) then some (t.after.getD t.following) else none }
            regs := s.window c t, poison := s.windowPoison c t, bclk := (s.task c t.task).bclk, task := s.task c t.task
            shadow := if k.shadow.holder = some i then some k.shadow else t.saved
            core := c, slot := 1024 + n, cmds := hc.map (true, ·) ++ lc.map (false, ·) ++ cmd }
        if !s.spillOpen c t.vdev sv.lines then none
        else
          let s := s.modCore c (fun k => { k with
            arrStamp := n + 1
            hi := hq.advance s.now
            lo := lq.advance s.now
            ends := k.ends.map (fun e => if e.2.slot = i then (e.1, { e.2 with slot := 1024 + n }) else e)
            barrow := k.stopCopies t.ctx t.vdev })
          let s := s.unrefuse c i
          let s := ((s.freeSlot c i false).saveTask sv.task).spillDram c t.vdev sv.lines
          some { s with evicted := s.evicted ++ [sv] }

/-- Evicts threads in order. -/
def State.evictAll (s : State) (c : Nat) : List Nat → Option State
  | [] => some s
  | i :: rest => (s.evict c i).bind (fun s => s.evictAll c rest)

/-! ## Contexts -/

/-- The slots of a context's threads on a core. -/
def State.slotsOf (s : State) (c x : Nat) : List Nat :=
  ((s.core c).slots.filter (fun p => p.2.ctx = x && p.1 ≠ 63)).map Prod.fst

/-- Frees stash entries in order, their dirty bytes going home. -/
def State.freeEntries (s : State) (c : Nat) : List Nat → Option State
  | [] => some s
  | i :: rest => (s.freeEntry c i).bind (fun s => s.freeEntries c rest)

/-- Register file entries outside every live window are scrubbed (R281). -/
def Core.scrubFree (k : Core) : Core :=
  let live (e : Nat) : Bool := k.slots.any (fun p => p.2.base ≤ e && e < p.2.base + p.2.size)
  { k with regs := k.regs.filter (fun p => live p.1), regPoison := k.regPoison.filter live, regSoft := k.regSoft.filter live }

/-- A queue without a ring tile of a device (R281). -/
def MQueue.noTile (q : MQueue) (v : VDev) : MQueue := { q with latch := q.latch.filter (fun t => t.vdev != v) }

/-- A context leaves a core (R77, R264, R281): its threads are evicted, its copies stop, its stash lines are written back and
unmapped, its claims end, a ring tile left for it goes; what waits in its arrival queue and spill area travels to the core
again. None where it has to wait. -/
def State.leaveCore (s : State) (c x : Nat) : Option State :=
  match s.evictAll c (s.slotsOf c x) with
  | none => none
  | some s =>
    let mine := (s.core c).stash.filter (fun p => p.2.ctx = x)
    if mine.any (fun p => p.2.owner.isSome) then none
    else match s.freeEntries c (mine.map Prod.fst) with
      | none => none
      | some s =>
        let k := s.ctx c x
        let s := [Dir.n, Dir.e, Dir.s, Dir.w].foldl (fun s d =>
          if bitOf k.nbind.toNat (8 * dirIdx d + 7) then s.modCore c (·.dropFifo d) else s) s
        let outs := ((s.core c).arrOut.filter (fun p => p.1 == x)).map Prod.snd
        let s := s.modCore c (fun q => Core.scrubFree { q with
          prefs := q.prefs.filter (fun p => p.ctx ≠ x), ctxs := q.ctxs.del x, plb := q.plb.filter (fun p => p.1 ≠ x), arrOut := q.arrOut.filter (fun p => p.1 != x)
          barrow := q.stopCopies x k.vdev, hi := q.hi.noTile k.vdev, lo := q.lo.noTile k.vdev })
        some ((k.arrivals ++ k.arrSpill ++ outs).foldl (fun s a => match a with
          | .travel _ t => s.send (.context c t) c t.id
          | .evicted _ v => { s with evicted := s.evicted ++ [v] }) s)

/-- The resident context that has issued least recently (R264). -/
def State.oldestCtx (s : State) (c : Nat) : Option Nat :=
  match (s.core c).ctxs with
  | [] => none
  | p :: rest => some (rest.foldl (fun a b => if b.2.issued < a.2.issued then b else a) p).1

/-- The context of a device on a core, made where it has none; a ninth one first evicts the one that has issued least
recently (R263, R264, R331). None where that has to wait. -/
def State.ctxRoom (s : State) (c : Nat) (v : VDev) : Option (Nat × State) :=
  match s.ctxMake c v with
  | some r => some r
  | none => (s.oldestCtx c).bind (fun x => (s.leaveCore c x).bind (fun s => s.ctxMake c v))

/-! ## Banks -/

/-- A window has an entry in a bank of 128 (R264). -/
def inBank (b : Nat) (t : Thread) : Bool := runsMeet (128 * b) 128 t.base t.size

/-- The threads of other contexts in the lowest bank whose release makes a free run for a window (R264). -/
def State.bankFor (s : State) (c x size : Nat) : Option (List Nat) :=
  let ths := (s.core c).slots
  let gone (b : Nat) (p : Nat × Thread) : Bool := p.1 ≠ 63 && p.2.ctx ≠ x && inBank b p.2
  ((List.range 16).find? (fun b => (freeBaseOf (s.core c).usable (ths.filter (fun p => !gone b p)) size).isSome)).map
    (fun b => (ths.filter (gone b)).map Prod.fst)

/-! ## Re-entry -/

/-- A core of a node that can take a saved window (R262): the former one, else the first in ascending core id; none that leaves
the partition (R259). -/
def State.reentryCore (s : State) (node former size : Nat) : Option Nat :=
  let fits (c : Nat) : Bool :=
    inNode node c && !(s.core c).fenced && !(s.core c).closed && !s.leaving c && (s.freeBase c size).isSome
  if fits former then some former else (List.range Config.numCores).find? fits

/-- EVICTED_REENTRY: a saved thread enters the arrival queue of a core (R262). None where no core can take it. -/
def State.reenter (s : State) (k : Nat) : Option State :=
  match s.evicted[k]? with
  | none => none
  | some v =>
    match (s.savedNode v).bind (fun n => s.reentryCore n v.core v.regs.length) with
    | none => none
    | some c =>
      let s := { s with evicted := s.evicted.eraseIdx k }
      match s.ctxRoom c v.th.vdev with
      | none => none
      | some (x, s) => s.arrive c x (fun n => .evicted n v)

/-- EVICTED_REENTRY (R262). -/
def execEvictedReentry (k : Nat) (s : State) : Host.Outcome State Fault Refusal := .next ((s.reenter k).getD s)

/-- THREAD_EVICTION (R261, R272): where the thread is at no boundary yet, or its owner's spill space is exhausted, the request
is taken again later. -/
def execThreadEviction (core : CoreId) (slot : Nat) (s : State) : Host.Outcome State Fault Refusal :=
  .next (s.orAwait (.threadEviction core slot) (s.evict core.toNat slot))

end Sys2Proof.Machine
end

