-- ==== Sys2Proof/Machine/Dispatcher.lean ====
section
/-! DEFINITION. The dispatcher and the arrivals of records and travelling contexts (R59-R64, R69, R70, R190, R191,
R260-R264, R308, R331). -/

namespace Sys2Proof.Machine

/-! ## What may be dispatched -/

/-- The lowest free slot that a context holds and is not to pass on, with the place of a new thread in the core's table (R64, R263). -/
def State.slotFree (s : State) (c x : Nat) : Option Nat :=
  let ths := (s.core c).slots
  ((List.range Config.programSlots).find? (fun i =>
    s.holdsSlot c x i && !(s.core c).handing.any (fun h => h.1 = i && h.2 ≠ x) && !ths.any (fun p => p.1 % 64 = i && s.active c p.1))).map (fun i =>
      if ths.any (fun p => p.1 = i) then 64 * (x + 1) + i else i)

/-- The slot-turns of a window that the slots lent to an owner in a core's partition give it (R273, R274). -/
def State.lentTurns (s : State) (c : Nat) (v : VDev) : Nat :=
  ((s.cores.map (fun (p : Nat × Core) =>
    if s.samePart c p.1 then (p.2.lent.filter (fun l => l.2.2 == v)).length else 0)).foldl (· + ·) 0)
    * Config.accountingCycles / 64

/-- An owner is below its slot quota, and below the limit of its window (R64, R70, R270, R274). -/
def State.quotaOk (s : State) (c : Nat) (v : VDev) : Bool :=
  match s.owner? c v with
  | none => true
  | some o =>
    ((s.core c).slots.filter (fun p => p.2.vdev == v && p.1 ≠ 63 && s.active c p.1)).length < o.cfg.quota &&
    (match o.cap with | some m => o.used < m + s.lentTurns c v | none => true)

/-- A launch is below its slot count on a core (R60, R191). -/
def State.launchOk (s : State) (c l : Nat) : Bool :=
  match s.launches.find? l with
  | none => true
  | some n => ((s.core c).slots.filter (fun p => p.2.launch = l && p.1 ≠ 63)).length < n.slots

/-- An entry may be dispatched now, its window apart (R64). -/
def State.mayRun (s : State) (c x : Nat) (v : VDev) (l : Nat) : Bool :=
  s.quotaOk c v && s.launchOk c l && (s.slotFree c x).isSome

/-- Free command sets of a queue. -/
def MQueue.room (q : MQueue) : Nat := (if q.active.isNone then 1 else 0) + (if q.shadow.isNone then 1 else 0)

/-- The matrix unit has sets for the commands that come back with a thread (R261). An arrival that finds none waits as one
that finds no base does, and holds back what R64 then holds back (notes/assumptions/57.md). -/
def Arrival.setsOk (k : Core) : Arrival → Bool
  | .travel _ _ => true
  | .evicted _ v =>
    (v.cmds.filter (fun p => p.1)).length ≤ k.hi.room && (v.cmds.filter (fun p => !p.1)).length ≤ k.lo.room

/-- What waits behind a context's arrival queue, in order: its spill area, then what the riddle has yet to write there (R69,
R190). -/
def State.behindQueue (s : State) (c x : Nat) : List Arrival :=
  (s.ctx c x).arrSpill ++ ((s.core c).arrOut.filter (fun p => p.1 == x)).map Prod.snd

/-- The arrivals of a context that its queue holds, or holds as soon as the riddle has refilled it (R190). -/
def State.queuedArrivals (s : State) (c x : Nat) : List Arrival :=
  let k := s.ctx c x
  k.arrivals ++ (if s.arrOpen c x then (s.behindQueue c x).take (k.aqd - k.arrivals.length) else [])

/-- The oldest arrival of a core that may be dispatched, with its context (R64, R70). Whether the riddle has refilled a queue
yet changes no order of dispatch (R190). -/
def State.nextArrival (s : State) (c : Nat) : Option (Nat × Arrival) :=
  let all := (s.core c).ctxs.flatMap (fun p => (s.queuedArrivals c p.1).map (fun a => (p.1, a)))
  match all.filter (fun p => s.mayRun c p.1 p.2.vdev p.2.launch) with
  | [] => none
  | a :: rest => some (rest.foldl (fun a b => if b.2.stamp < a.2.stamp then b else a) a)

/-- An arrival of a launch waits in an arrival queue of a core (R191); one that is spilled and finds no room there yet holds back
no record. -/
def State.arrivalWaits (s : State) (c l : Nat) : Bool :=
  l ≠ 0 && (s.core c).ctxs.any (fun p => (s.queuedArrivals c p.1).any (fun a => a.launch = l))

/-- The oldest record of a priority that may be dispatched, with its place in the task queue (R64): none of a launch of which
an arrival waits on the core (R191). -/
def State.nextRecord (s : State) (c : Nat) (prio : Bool) : Option (Nat × TaskRec) :=
  let q := (s.core c).queue
  ((List.range q.length).zip q).find? (fun p =>
    p.2.prio = prio && !s.arrivalWaits c p.2.launch && s.mayRun c ((s.ctxOf c p.2.vdev).getD 8) p.2.vdev p.2.launch)

/-- A window for a new thread (R64): a free run, or for an incoming context of a hand-over one that the eviction of a bank
makes (R264). None where the entry waits. -/
def State.placeWindow (s : State) (c x size : Nat) : Option (Nat × State) :=
  match s.freeBase c size with
  | some b => some (b, s)
  | none =>
    if (s.ctx c x).slots.isNone then none
    else (s.bankFor c x size).bind (fun ths => (s.evictAll c ths).bind (fun s =>
      (s.freeBase c size).map (fun b => (b, s.modCore c Core.scrubFree))))

/-! ## New threads -/

/-- A number of the model's own for a thread or a task (notes/assumptions/53.md). -/
def State.newId (s : State) : Nat × State := (s.nextId, { s with nextId := s.nextId + 1 })

/-- A task number for a thread, its task started where it is new (R68, R135). -/
def State.startTask (s : State) (c : Nat) (old : Option Nat) (bclk : Half) (prio : Bool) : Option (Nat × State) :=
  match old with
  | some t => some (t, s)
  | none => ((s.core c).tasks.free 64).map (fun t =>
      let (id, s) := s.newId
      (t, s.modCore c (fun k => { k with tasks := k.tasks.put t (Task.fresh id (s.cyc c) bclk prio) })))

/-- The task of an evicted thread that is dispatched again (notes/assumptions/71.md): its own, where that is still on the core;
else one of the same number there, with the clock, limit and count that were saved (R66, R189). -/
def State.joinTask (s : State) (c : Nat) (v : Saved) : Option (Nat × State) :=
  match List.find? (fun p => p.2.id == v.task.id) (s.core c).tasks with
  | some p => some (p.1, s)
  | none => ((s.core c).tasks.free 64).map (fun t => (t, s.modCore c (fun k => { k with
      tasks := k.tasks.put t { Task.fresh v.task.id (s.cyc c) v.bclk v.task.prio with
        limit := v.task.limit, count := v.task.count } })))

/-- A thread stands in its slot with its window filled, its first chunk begun (R59): its first turn is the slot's next one
after the 4 cycles of its dispatch (R64; notes/assumptions/66.md). The handler entries that wait for it are asked for again
(R82). -/
def State.addThread (s : State) (c key : Nat) (t : Thread) (regs : List Word) (poison : List Nat) : State :=
  let n := t.pending.length + (if t.saved.isSome then 1 else 0)
  let s := ((s.setThread c key { t with starts := s.now + 4 }).setRegs c t.base regs).poisonRegs c t.base poison
  (s.modCore c (fun k => { k with wanting := k.wanting ++ List.replicate n key })).newChunk c key

/-- Registers with zeros behind them. -/
def padRegs (xs : List Word) (n : Nat) : List Word := (xs ++ List.replicate n 0).take n

/-- Dispatch of a task-queue record (R59, R64, R66). -/
def State.dispatchRecord (s : State) (c idx : Nat) (r : TaskRec) : Option State := do
  let (x, s) ← s.ctxRoom c r.vdev
  let key ← s.slotFree c x
  let (b, s) ← s.placeWindow c x r.size
  let (tk, s) ← s.startTask c r.task 0 r.prio
  let (id, s) := s.newId
  let s := (s.modCore c (fun k => { k with queue := k.queue.eraseIdx idx })).unspill c
  let t : Thread := { Thread.blank with
    id := id, ctx := x, task := tk, launch := r.launch, vdev := r.vdev, prio := r.prio
    spawned := r.task.map (fun n => (s.task c n).id), base := b, size := r.size, pc := r.entry }
  return s.addThread c key t (padRegs r.xs r.size) []

/-- A saved command goes on at the core where its thread is dispatched again: its lines are owned from there (R150,
R261). None where they have to wait. -/
def State.resumeCmd (s : State) (hi : Bool) (m : MCmd) (q : Issuer) (moved : Bool) : Option State :=
  let put (s : State) (dram : Nat) : State := s.toShadow q.core hi { m with iss := q, dram := m.dram + dram }
  if moved && m.granted then
    ((s.releaseAll m.id).takeLines q m.id q.core (cLines m.c m.m m.n m.ldc)).map (fun p => put p.1 p.2)
  else some (put s 0)

/-- Saved commands in order. -/
def State.resumeCmds (s : State) (q : MCmd → Issuer) (moved : Bool) : List (Bool × MCmd) → Option State
  | [] => some s
  | (hi, m) :: rest => (s.resumeCmd hi m (q m) moved).bind (fun s => s.resumeCmds q moved rest)

/-- Dispatch of an arrival (R69, R82, R261, R308, R331). -/
def State.dispatchArrival (s : State) (c x : Nat) (a : Arrival) : Option State := do
  if !(s.ctx c x).arrivals.contains a || !a.setsOk (s.core c) then none
  let key ← s.slotFree c x
  let (b, s) ← s.placeWindow c x a.size
  let s := s.modCtx c x (fun k => { k with arrivals := k.arrivals.filter (· != a) })
  match a with
  | .travel _ t =>
    let (tk, s) ← s.startTask c none t.bclk t.prio
    let h : Thread := { Thread.blank with
      id := t.id, hops := t.hops, ctx := x, task := tk, launch := t.launch, vdev := t.vdev, prio := t.prio, level := t.level, base := b, size := 16
      pc := t.pc, preds := t.preds, flags := t.flags, pending := t.pending }
    return s.addThread c key h (padRegs t.xs 16) t.poison
  | .evicted _ v =>
    let (tk, s) ← s.joinTask c v
    let here (q : Issuer) : Issuer := { q with core := c, ctx := x, task := tk }
    let h : Thread := { v.th with
      ctx := x, task := tk, base := b, saved := v.shadow, altLast := 4
      status := match v.th.status with
        | .copy y => .copy { y with iss := here y.iss }
        | w => w }
    let s := (s.addThread c key h v.regs v.poison).spillDram c h.vdev v.lines
    let s := s.modCore v.core (fun k => { k with
      ends := if v.core = c then k.ends.map (fun e => if e.2.slot = v.slot then (e.1, { e.2 with slot := key }) else e)
              else k.ends.filter (fun e => e.2.slot ≠ v.slot) })
    State.resumeCmds s (fun m => here m.iss) (v.core ≠ c) v.cmds

/-- DISPATCH: arrivals rank above high-priority records, these above low-priority ones; the first entry of the highest
rank that may run takes its window or waits, and then holds back every other one (R64). None where nothing can be
dispatched. -/
def State.dispatch (s : State) (c : Nat) : Option State :=
  if (s.core c).closed || (s.core c).fenced || s.leaving c then none
  else match s.nextArrival c with
    | some (x, a) => s.dispatchArrival c x a
    | none =>
      match s.nextRecord c true with
      | some (i, r) => s.dispatchRecord c i r
      | none =>
        match s.nextRecord c false with
        | some (i, r) => s.dispatchRecord c i r
        | none => none

/-- DISPATCH (R64). -/
def execDispatch (core : CoreId) (s : State) : Host.Outcome State Fault Refusal := .next ((s.dispatch core.toNat).getD s)

/-- The contexts of a core whose spill area holds an arrival that their queue has room for. -/
def State.refillable (s : State) (c : Nat) : List (Nat × Context) :=
  (s.core c).ctxs.filter (fun p => !p.2.arrSpill.isEmpty && s.arrOpen c p.1)

/-- ARRIVAL_REFILL: the riddle moves the oldest arrival of a spill area into a queue that has room, else writes an arrival
that waits for it into its spill area (R56, R69, R190). Of the contexts that have room, the one whose spilled arrival is the
oldest on the core comes first (notes/assumptions/59.md). -/
def State.refill (s : State) (c : Nat) : Option State :=
  let stamp (p : Nat × Context) : Nat := (p.2.arrSpill.map Arrival.stamp).headD 0
  match s.refillable c with
  | a :: rest =>
    let p := rest.foldl (fun a b => if stamp b < stamp a then b else a) a
    some ((s.modCtx c p.1 (fun k => { k with
      arrivals := k.arrivals ++ k.arrSpill.take 1, arrSpill := k.arrSpill.drop 1 })).spillDram c p.2.vdev
        (sumOf (p.2.arrSpill.take 1) (fun a => a.lines true - a.lines false)))
  | [] =>
    match (s.core c).arrOut with
    | [] => none
    | (x, a) :: rest =>
      some (((s.modCore c (fun k => { k with arrOut := rest })).modCtx c x (fun k => {
        k with arrSpill := k.arrSpill ++ [a] })).spillDram c a.vdev (a.lines true - a.lines false))

/-- ARRIVAL_REFILL (R190). -/
def execArrivalRefill (core : CoreId) (s : State) : Host.Outcome State Fault Refusal := .next ((s.refill core.toNat).getD s)

/-! ## Packets that arrive -/

/-- TASK_RECORD_ARRIVAL (R62, R63, R272). -/
def State.recordArrives (s : State) (k : Nat) : Option State :=
  match s.flight? k with
  | some f => match f.pkt with
    | .task dst r => some (s.outcome k f (s.enqueue dst r))
    | _ => none
  | none => none

/-- TASK_RECORD_ARRIVAL (R63). -/
def execTaskRecordArrival (k : Nat) (s : State) : Host.Outcome State Fault Refusal := .next ((s.recordArrives k).getD s)

/-- HOP_ARRIVAL (R69, R70, R331). -/
def State.hopArrives (s : State) (k : Nat) : Option State :=
  match s.flight? k with
  | some f => match f.pkt with
    | .context dst t => some (s.outcome k f ((s.ctxRoom dst t.vdev).bind (fun p => p.2.arrive dst p.1 (fun n => .travel n t))))
    | _ => none
  | none => none

/-- HOP_ARRIVAL (R69). -/
def execHopArrival (k : Nat) (s : State) : Host.Outcome State Fault Refusal := .next ((s.hopArrives k).getD s)

end Sys2Proof.Machine
end

