-- ==== Sys2Proof/Machine/Mesh.lean ====
section
/-! DEFINITION. Packets that arrive (R72-R78, R142, R219, R220, R307), requests served at homes and their replies (R53,
R120, R127-R130, R195, R198, R294, R333), commits (R144-R149, R204) and entries to user-level handlers (R82, R83). -/

namespace Sys2Proof.Machine

/-! ## Messages -/

/-- Mailbox entries that instructions which may still trap have taken: their places stay theirs (R107). -/
def Core.lentMail (k : Core) : List Mail :=
  k.slots.flatMap (fun p => if p.2.status.asks then p.2.taken.filterMap (fun q => match q.2.2 with
    | .mail m => if q.1 == p.2.pc then some m else none
    | .port _ _ => none) else [])

/-- Mailbox entries that a device holds on a core (R75, R272). -/
def State.mailUsed (s : State) (c : Nat) (v : VDev) : Nat :=
  (((s.core c).mail ++ (s.core c).lentMail).filter (fun m => m.vdev == v)).length

/-- The mailbox queue takes one more entry of a device (R73, R75, R272). -/
def State.mailOpen (s : State) (c : Nat) (v : VDev) : Bool :=
  (s.core c).mail.length + (s.core c).lentMail.length < 32 && poolOpen 32 (s.ownersAt c) OwnerEntry.resMailbox (s.mailUsed c) v

/-- Threads that yield issue again at their next turn (R373). -/
def State.endYields (s : State) (c : Nat) (who : Nat → Thread → Bool) : State :=
  s.modCore c (fun k => { k with slots := k.slots.map (fun p =>
    match p.2.status with
    | .turns _ => if who p.1 p.2 then (p.1, { p.2 with status := .ready }) else p
    | _ => p) })

/-- An entry joins the mailbox queue (R73); none where it is refused. -/
def State.mailPut (s : State) (c : Nat) (m : Mail) : Option State :=
  if s.mailOpen c m.vdev then
    some ((s.modCore c (fun k => { k with mail := k.mail ++ [m] })).endYields c (fun _ _ => true))
  else none

/-- A message that finds no registers (R72, R75, R360): an entry of the mailbox queue, or, where the sender's device has no
context on the core, an orphan on its way back, a packet of the same thread. -/
def State.mailMessage (s : State) (f : Flight) (dst src : Nat) (v : VDev) (kind : Nat) (tag : Half) (ws : List Word) : Option State :=
  if (s.ctxOf dst v).isSome then s.mailPut dst ⟨v, kind, src, tag, ws⟩
  else some (s.send (.mail src ⟨v, 1, dst, tag, ws⟩) dst f.thread (own := some (v, f.launch)))

/-- A payload is written into a thread's registers (R72): it outlives a squash (R366). A SUSP that it wakes has been performed, and
its chunk counts it (R144). -/
def State.writePayload (s : State) (c i : Nat) (t : Thread) (reg : Nat) (ws : List Word) : State :=
  let k := t.chunk
  let regs := (List.range k.regs0.length).map (fun n =>
    if reg ≤ n && n < reg + ws.length then ws.getD (n - reg) 0 else k.regs0.getD n 0)
  let s := s.setRegs c (t.base + reg) ws
  let parked := t.status == .suspended
  let status := match t.status with
    | .suspended | .turns _ => .ready
    | w => w
  let count := if parked then k.count + 1 else k.count
  let s := s.setThread c i { t with
    status := status, wake := t.wake || !parked
    chunk := { k with
      regs0 := regs, poison0 := k.poison0.filter (fun n => !(reg ≤ n && n < reg + ws.length)), paid := true, count := count }
    pc := if parked then t.following else t.pc }
  if parked && count ≥ Config.chunkLimit then s.chunkOver c i else s

/-- MESSAGE_ARRIVAL of a SEND (R72, R360). -/
def State.messageIn (s : State) (f : Flight) (dst src : Nat) (v : VDev) (id : Word) (ws : List Word) : Option State :=
  let slot := field id 43 38
  let reg := field id 37 31
  let tag : Half := BitVec.ofNat 32 (field id 47 16)
  if slot = 63 then s.mailMessage f dst src v 0 tag ws
  else
    match List.find? (fun p => p.1 % 64 = slot && p.1 ≠ 63 && p.2.vdev == v &&
        (s.gen dst p.1).toNat = field id 30 16 && reg + ws.length ≤ p.2.size) (s.core dst).slots with
    | some (i, t) => some (s.writePayload dst i t reg ws)
    | none => s.mailMessage f dst src v 1 tag ws

/-- MESSAGE_ARRIVAL: a SEND, or an entry for the mailbox queue (R72, R73, R75). -/
def State.messageArrives (s : State) (k : Nat) : Option State :=
  match s.flight? k with
  | some f => match f.pkt with
    | .message dst src v id ws => some (s.outcome k f (s.messageIn f dst src v id ws))
    | .mail dst m => some (s.outcome k f (s.mailPut dst m))
    | _ => none
  | none => none

/-- MESSAGE_ARRIVAL (R72). -/
def execMessageArrival (k : Nat) (s : State) : Host.Outcome State Fault Refusal := .next ((s.messageArrives k).getD s)

/-! ## Words -/

/-- PORT_WORD_ARRIVAL (R76, R77). -/
def State.portArrives (s : State) (k : Nat) : Option State :=
  match s.flight? k with
  | some f => match f.pkt with
    | .port dst d v w => some (s.outcome k f (s.portAccept dst d v w))
    | _ => none
  | none => none

/-- PORT_WORD_ARRIVAL (R77). -/
def execPortWordArrival (k : Nat) (s : State) : Host.Outcome State Fault Refusal := .next ((s.portArrives k).getD s)

/-- A channel word at its receive end (R78, R308): discarded where the end is not bound to that peer, refused where 16
words wait. -/
def State.channelIn (s : State) (dst dstEnd src srcEnd : Nat) (w : Word) : Option State :=
  match (s.core dst).ends.find? dstEnd with
  | none => some s
  | some e =>
    if !e.recv || e.peer ≠ src || e.peerEnd ≠ srcEnd then some s
    else if e.buf.length ≥ 16 then none
    else some ((s.setEnd dst dstEnd { e with buf := e.buf ++ [w] }).endYields dst (fun i _ => i == e.slot))

/-- CHANNEL_WORD_ARRIVAL (R78). -/
def State.channelArrives (s : State) (k : Nat) : Option State :=
  match s.flight? k with
  | some f => match f.pkt with
    | .channel dst de src se w => some (s.outcome k f (s.channelIn dst de src se w))
    | _ => none
  | none => none

/-- CHANNEL_WORD_ARRIVAL (R78). -/
def execChannelWordArrival (k : Nat) (s : State) : Host.Outcome State Fault Refusal := .next ((s.channelArrives k).getD s)

/-- An allowance at the peer's send end (R78, R307); it saturates. -/
def State.grantIn (s : State) (dst dstEnd src srcEnd n : Nat) : State :=
  match (s.core dst).ends.find? dstEnd with
  | none => s
  | some e =>
    if e.recv || e.peer ≠ src || e.peerEnd ≠ srcEnd then s
    else s.setEnd dst dstEnd { e with allow := min (2 ^ 32 - 1) (e.allow + n) }

/-- CHANNEL_GRANT_ARRIVAL (R307). -/
def State.grantArrives (s : State) (k : Nat) : Option State :=
  match s.flight? k with
  | some f => match f.pkt with
    | .grant dst de src se n => some ((s.grantIn dst de src se n).accepted k f)
    | _ => none
  | none => none

/-- CHANNEL_GRANT_ARRIVAL (R307). -/
def execChannelGrantArrival (k : Nat) (s : State) : Host.Outcome State Fault Refusal := .next ((s.grantArrives k).getD s)

/-! ## Engines' packets and notices -/

/-- RING_TILE_ARRIVAL: the tile enters a free latch of a core on which its device has a context, and the sender's unit goes on
(R219); a tile left for a context that is gone gives way (R281). -/
def State.tileArrives (s : State) (k : Nat) : Option State :=
  match s.flight? k with
  | some f => match f.pkt with
    | .tile dst hi tile =>
      let q := (s.core dst).queueOf hi
      if q.latch.any (fun t => (s.ctxOf dst t.vdev).isSome) || (s.ctxOf dst tile.vdev).isNone then some (s.refuseFlight k f)
      else
        let s := s.setQueue dst hi { q with latch := some tile }
        let from_ := (s.core f.core).queueOf hi
        some ((s.setQueue f.core hi { from_ with active := from_.active.map (fun m => { m with out := false }) }).accepted k f)
    | _ => none
  | none => none

/-- RING_TILE_ARRIVAL (R219). -/
def execRingTileArrival (k : Nat) (s : State) : Host.Outcome State Fault Refusal := .next ((s.tileArrives k).getD s)

/-- MCMD_ARRIVAL: the capability is checked, and the command enters a free shadow set, or is refused for good or for 64
cycles (R220). -/
def State.mcmdArrives (s : State) (k : Nat) : Option State :=
  match s.flight? k with
  | some f => match f.pkt with
    | .mcmd dst hi cap m =>
      if (s.core dst).fenced || !(s.core dst).capOk cap hi then some ((s.refuseCmd dst m).accepted k f)
      else if ((s.core dst).queueOf hi).shadow.isSome then some (s.refuseFlight k f)
      else some ((s.toShadow dst hi m).accepted k f)
    | _ => none
  | none => none

/-- MCMD_ARRIVAL (R220). -/
def execMcmdArrival (k : Nat) (s : State) : Host.Outcome State Fault Refusal := .next ((s.mcmdArrives k).getD s)

/-- CREDENCE_NOTICE: applied to the device's context on the core, or discarded (R142). -/
def State.noticeArrives (s : State) (k : Nat) : Option State :=
  match s.flight? k with
  | some f => match f.pkt with
    | .credence dst v kept => some (((match s.ctxOf dst v with
        | some x => s.credit dst x kept
        | none => s)).accepted k f)
    | _ => none
  | none => none

/-- CREDENCE_NOTICE (R142). -/
def execCredenceNotice (k : Nat) (s : State) : Host.Outcome State Fault Refusal := .next ((s.noticeArrives k).getD s)

/-! ## Requests served at a home, and their replies -/

/-- The place of a thread in the numbering that the requests of this section use. -/
def threadNo (c i : Nat) : Nat := c * 1024 + i

/-- The state with a waiting thread's turn set up, the thread otherwise unchanged (R53). -/
def State.atTurn (s : State) (c i : Nat) (t : Thread) : State := { s with turn := some (s.turnOf c i t t.following) }

/-- The turn is over. -/
def State.turnOver (s : State) : State := { s with turn := none }

/-- Serves the request that a thread waits for (R53, R127, R294): the reply, a place in the park table or the refusal list,
or the trap. None where it still has to wait. -/
def State.serveHome (s : State) (c i : Nat) (want : MemOp → Bool) : Option State :=
  match s.thread? c i with
  | none => none
  | some t =>
    match t.status with
    | .home op =>
      if !want op then none
      else match attempt (serve op) (s.atTurn c i t) with
        | .ok (some r, s) => some (s.modThread c i (fun t => { t with status := .reply op r })).turnOver
        | .ok (none, s) => some s.turnOver
        | .error (.trap tr logs) => some (((s.unrefuse c i).setThread c i { t with status := .ready }).takeTrap c i tr logs)
        | .error (.wait _) | .error .commit => none
        | .error .close => some ((s.setThread c i { t with status := .ready }).closeChunk c i)
    | _ => none

/-- The number, in the numbering of requests, of a core's prefetches that wait at their homes. -/
def prefSlot : Nat := 1023

/-- Serves the oldest prefetch of a core that need not wait any more (R143, R355); one that fails goes. None where each has to
wait. -/
def State.servePref (s : State) (c : Nat) : Option State :=
  (List.range (s.core c).prefs.length).findSome? (fun k => match (s.core c).prefs[k]? with
    | none => none
    | some p =>
      let gone (s : State) : State := s.modCore c (fun q => { q with prefs := q.prefs.eraseIdx k })
      let a := ((((memRefAt p.ptr (ptrFmt p.ptr)).ranges true).getD []).headD (ptrAddr p.ptr, 0)).1
      match attempt (prefetchLine ⟨c, p.ctx, p.task, p.vdev, p.use⟩ p.ptr a) s with
      | .ok (_, s) => some (gone s)
      | .error (.wait _) => none
      | .error _ => some (gone s))

/-- The kinds of request. -/
def MemOp.isAccess : MemOp → Bool
  | .load .. | .pair .. => true
  | _ => false
def MemOp.isSync : MemOp → Bool
  | .sync .. => true
  | _ => false
def MemOp.isAtomic : MemOp → Bool
  | .atomic .. => true
  | _ => false
def MemOp.isJoin : MemOp → Bool
  | .join .. => true
  | _ => false

/-- A load or a prefetch that waits at its home (R120, R355). -/
def State.homeAccess (s : State) (k : Nat) : Option State :=
  if k % 1024 = prefSlot then s.servePref (k / 1024) else s.serveHome (k / 1024) (k % 1024) MemOp.isAccess

/-- HOME_ACCESS (R120). -/
def execHomeAccess (k : Nat) (s : State) : Host.Outcome State Fault Refusal := .next ((s.homeAccess k).getD s)

/-- SYNC_AT_HOME (R127). -/
def execSyncAtHome (k : Nat) (s : State) : Host.Outcome State Fault Refusal :=
  .next ((s.serveHome (k / 1024) (k % 1024) MemOp.isSync).getD s)

/-- ATOMIC_AT_HOME (R294). -/
def execAtomicAtHome (k : Nat) (s : State) : Host.Outcome State Fault Refusal :=
  .next ((s.serveHome (k / 1024) (k % 1024) MemOp.isAtomic).getD s)

/-- JOIN_AT_HOME (R333). -/
def execJoinAtHome (k : Nat) (s : State) : Host.Outcome State Fault Refusal :=
  .next ((s.serveHome (k / 1024) (k % 1024) MemOp.isJoin).getD s)

/-- MIGRATION_RETRY: a request whose walk met a migration entry is tried again (R198). -/
def execMigrationRetry (k : Nat) (s : State) : Host.Outcome State Fault Refusal :=
  .next ((s.serveHome (k / 1024) (k % 1024) (fun _ => true)).getD s)

/-- MEMORY_REPLY: the reply is applied and the thread re-enters the rotation (R53, R129). -/
def State.replyIn (s : State) (c i : Nat) : Option State :=
  match s.thread? c i with
  | none => none
  | some t =>
    match t.status with
    | .reply op r =>
      let s := (s.setThread c i { t with status := .ready }).atTurn c i t
      some (s.finish (s.turnOf c i t t.following) ((applyReply op r).run s)).turnOver
    | _ => none

/-- MEMORY_REPLY (R53). -/
def execMemoryReply (core : CoreId) (slot : Nat) (s : State) : Host.Outcome State Fault Refusal :=
  .next ((s.replyIn core.toNat slot).getD s)

/-- PARK_RETRY: a parked operation is tried again 64 cycles after the last try; a failure counts towards its limit (R128).
None where the entry is not due, or its line has to be waited for. -/
def State.parkRetry (s : State) (home idx : Nat) : Option State :=
  match (s.core home).park.find? idx with
  | none => none
  | some e =>
    if s.now < e.next then none
    else
      let free (s : State) : State := s.modCore home (fun k => { k with park := k.park.del idx })
      match s.thread? e.core e.slot with
      | none => some (free s)
      | some t =>
        match t.status with
        | .parked (.sync o d ptr v limit u) =>
          let op : MemOp := .sync o d ptr v limit u
          let done (s : State) (r : Reply) : State :=
            ((free s).modThread e.core e.slot (fun t => { t with status := .reply op r })).turnOver
          match attempt (syncAt o ptr v u e.pa false) (s.atTurn e.core e.slot t) with
          | .ok (some r, s) => some (done s r)
          | .ok (none, s) =>
            if e.count + 1 ≥ e.limit then some (done s .limit)
            else some (s.modCore home (fun k => { k with
              park := k.park.put idx { e with count := e.count + 1, next := s.now + 64 } })).turnOver
          | .error (.trap tr logs) =>
            some (((free s).setThread e.core e.slot { t with status := .ready }).takeTrap e.core e.slot tr logs)
          | .error _ => none
        | _ => some (free s)

/-- PARK_RETRY (R128). -/
def execParkRetry (core : CoreId) (idx : Nat) (s : State) : Host.Outcome State Fault Refusal :=
  .next ((s.parkRetry core.toNat idx).getD s)

/-- REFUSAL_RESEND: 64 cycles after its refusal a packet or a sync request is sent again (R73, R128). -/
def State.resendNow (s : State) (w : Resend) : Option State :=
  match w with
  | .wire k => match s.wire[k]? with
    | some f => match f.resend with
      | some t => if t ≤ s.now then some { s with wire := s.wire.set k { f with resend := none } } else none
      | none => none
    | none => none
  | .sync core slot => match s.thread? core.toNat slot with
    | some t => match t.status with
      | .refused op next =>
        if next ≤ s.now then some (s.setThread core.toNat slot { t with status := .home op, asked := s.now }) else none
      | _ => none
    | none => none

/-- REFUSAL_RESEND (R73). -/
def execRefusalResend (w : Resend) (s : State) : Host.Outcome State Fault Refusal := .next ((s.resendNow w).getD s)

/-! ## Lines and translations -/

/-- TRANSLATION_WALK: a walk's leaf enters the core's cache; an invalid entry never does (R195, R198). -/
def State.walkIn (s : State) (c : Nat) (v : VDev) (ga : Nat) : Option State :=
  match mtcFind (s.core c).mtc v ga with
  | some _ => none
  | none => match s.walk c v ga with
    | .ok l => some (s.useLeaf c l)
    | _ => none

/-- TRANSLATION_WALK (R195). -/
def execTranslationWalk (core : CoreId) (vdev : VDev) (ga : Pc) (s : State) : Host.Outcome State Fault Refusal :=
  .next ((s.walkIn core.toNat vdev ga.toNat).getD s)

/-- SLICE_FILL: a line that its home's slice does not hold fills a way, on behalf of its granule's owner at its home and
with the distance of a requester that has none (R141, R143). -/
def State.sliceIn (s : State) (pa : Nat) : Option State :=
  let pl := pa / 64
  if (s.sliceFind pl).isSome then none else s.fillSlice pl (some 64) (homeOf pa) (s.granule (pa / 4096)).owner

/-- SLICE_FILL (R143). -/
def execSliceFill (pa : Nat) (s : State) : Host.Outcome State Fault Refusal := .next ((s.sliceIn pa).getD s)

/-- The global line under which a core's stash maps a physical line (R121). -/
def State.glOf (s : State) (c pl : Nat) : Option Nat :=
  (s.core c).stash.findSome? (fun p =>
    match s.translate c (s.ctx c p.2.ctx).vdev (64 * p.2.line) with
    | .ok l => if l.phys (64 * p.2.line) / 64 = pl && !p.2.priv then some p.2.line else none
    | _ => none)

/-- STASH_RECALL: the home recalls the copies of a line, for a write or a read elsewhere (R123, R130); it waits for an
engine that owns one (R150). -/
def State.recallLine (s : State) (pa : Nat) (write : Bool) : Option State :=
  let pl := pa / 64
  match (s.holders pl).findSome? (fun c => s.glOf c pl) with
  | none => none
  | some gl => if s.ownedCopy gl pl none then none else s.recall gl pl write none

/-- STASH_RECALL (R123). -/
def execStashRecall (pa : Nat) (write : Bool) (s : State) : Host.Outcome State Fault Refusal :=
  .next ((s.recallLine pa write).getD s)

/-- DIRECTORY_OVERFLOW_HANDLER: the riddle adds the oldest queued sharer to its line's list (R56, R130). Where the
line's metadata cannot be read the handler faults: the fault goes to management, and the sharer stays queued (R210;
notes/assumptions/69.md). -/
def State.overflowStep (s : State) (c : Nat) : Option State :=
  match (s.core c).overflowWork with
  | [] => none
  | (pl, sh) :: rest =>
    let s := s.modCore c (fun k => { k with overflowWork := rest })
    let d := s.dirOf pl
    some (if s.metaBad.contains pl then s.refuse "overflow handler" else match List.find? (fun q => q.1 == sh) d.queued with
      | some q => s.setDir pl { d with queued := d.queued.filter (· ≠ q), overflow := d.overflow ++ [q] }
      | none => s)

/-- DIRECTORY_OVERFLOW_HANDLER (R130). -/
def execDirectoryOverflowHandler (core : CoreId) (s : State) : Host.Outcome State Fault Refusal :=
  .next ((s.overflowStep core.toNat).getD s)

/-! ## Commit -/

/-- Two requests conflict (R146). -/
def State.conflict (s : State) (a b : Chunk) : Bool := s.meets a.wset (b.rset ++ b.wset) || s.meets b.wset (a.rset ++ a.wset)

/-- A request is older than another (R147): by stamp, then by core and slot, as two arbiters' stamps have no order. -/
def olderThan (a : Nat × Nat × Nat) (b : Nat × Nat × Nat) : Bool :=
  if a.1 ≠ b.1 then a.1 < b.1 else if a.2.1 ≠ b.2.1 then a.2.1 < b.2.1 else a.2.2 < b.2.2

/-- An older conflicting chunk asks for commit too (R147). -/
def State.yieldsTo (s : State) (c i : Nat) (k : Chunk) : Bool :=
  s.cores.any (fun p => p.2.slots.any (fun q =>
    !(p.1 = c && q.1 = i) && q.2.chunk.closing &&
    olderThan (q.2.chunk.stamp.getD 0, p.1, q.1) (k.stamp.getD 0, c, i) && s.conflict k q.2.chunk))

/-- One store of a committing chunk (R123, R131, R146, R200, R204): a private one takes effect in its entry; one that its
home refuses is not made and asks for its thread's handler; one whose page is no longer mapped is left for a PAGE_FAULT
at the boundary (notes/assumptions/13.md). None where it has to wait. -/
def State.commitStore (s : State) (w : Who) (i : Nat) (h : Held) : Option (Option Trap × State) :=
  match attempt (storeLine { w with use := h.use } (toW h.addr) (h.addr % 64) h.bytes false) s with
  | .ok (_, s) => some (none, s)
  | .error (.wait _) | .error .close | .error .commit => none
  | .error (.trap tr logs) =>
    let s := s.logs w.core w.vdev logs
    if tr.cause = 8 then some (some tr, s)
    else some (none, s.wantHandler w.core i ⟨tr.cause, false, tr.d1, tr.d2, tr.d3, true⟩)

/-- The held stores of a committing chunk, oldest first. -/
def State.commitHeld (s : State) (w : Who) (i : Nat) (pf : Option Trap) : List Held → Option (Option Trap × State)
  | [] => some (pf, s)
  | h :: rest =>
    if h.priv then (s.storePrivate w.core h).commitHeld w i pf rest
    else match s.commitStore w i h with
      | none => none
      | some (t, s) => s.commitHeld w i (if pf.isSome then pf else t) rest

/-- CHUNK_COMMIT: the chunk's stores become visible together, conflicting chunks are squashed, its pin counts change, and
the thread's next chunk begins (R146, R147, R194). The handler of a refused store is entered at the boundary after the chunk's
last instruction, which executes first where it has waited for the commit (R145, R204); at that boundary a refused store of a
handler's chunk ends its thread (R208). None where an older conflicting request commits first, or a line has to be waited
for. -/
def State.commit (s : State) (c i : Nat) : Option State :=
  match s.thread? c i with
  | none => none
  | some t =>
    let k := t.chunk
    if !k.closing || s.yieldsTo c i k then none
    else
      let before := t.pending.length
      match s.commitHeld ⟨c, t.ctx, t.task, t.vdev, ⟨255, 0, none⟩⟩ i none k.held with
      | none => none
      | some (pf, s) =>
        let s := k.pins.foldl (fun s p => s.pinProgram p.1 p.2) s
        let s := (s.squashMeeting c i k.wset).modThread c i (fun t => { t with taken := t.taken.filter (fun p => p.2.1 != t.handler) })
        let s := s.newChunk c i
        match s.thread? c i with
        | none => some s
        | some t =>
          let s := if t.handler && t.pending.length > before then
              let n := t.pending.length - before
              s.setThread c i { t with doomed := ((t.pending.take n).getLast?).map Irq.cause, pending := t.pending.drop n }
            else s
          match pf with
          | some tr => some ((s.modThread c i (fun t => { t with issued := none })).takeTrap c i tr [])
          | none => some s

/-- CHUNK_COMMIT (R146). -/
def execChunkCommit (core : CoreId) (slot : Nat) (s : State) : Host.Outcome State Fault Refusal :=
  .next ((s.commit core.toNat slot).getD s)

/-! ## Entry to user-level handlers -/

/-- A thread that waits for the shadow set may take it now (R82, R83). -/
def State.mayEnter (s : State) (c i : Nat) : Bool :=
  match s.thread? c i with
  | none => false
  | some t => s.active c i && (if t.saved.isSome then true else t.atBoundary && !t.pending.isEmpty)

/-- USER_HANDLER_ENTRY: the first waiting thread at a boundary enters its handler, its chunk committing first (R82, R144,
R145). One that asked later is not held up by one that asked earlier and stands at no boundary yet, which is the model's choice
(notes/assumptions/78.md). A handler that an eviction interrupted takes the shadow set again (R82, R261). None where no thread can enter. -/
def State.handlerEntry (s : State) (c : Nat) : Option State :=
  if (s.core c).shadow.holder.isSome || (s.core c).halted then none
  else match (s.core c).wanting.find? (s.mayEnter c) with
    | none => none
    | some i =>
      match s.thread? c i with
      | none => none
      | some t =>
        match t.saved with
        | some sh => some ((s.setThread c i { t with saved := none }).modCore c (fun k => { k with
            shadow := { sh with holder := some i, last := some t.vdev }
            wanting := k.wanting.erase i }))
        | none =>
          if !t.chunk.quiet then some (s.closeChunk c i)
          else some ((s.commitQuiet c i).enterHandler c i)

/-- USER_HANDLER_ENTRY (R82). -/
def execUserHandlerEntry (core : CoreId) (s : State) : Host.Outcome State Fault Refusal :=
  .next ((s.handlerEntry core.toNat).getD s)

end Sys2Proof.Machine
end

