-- ==== Sys2Proof/Machine/Clocks.lean ====
section
/-! DEFINITION. The steps that recur with a core's or the module's clock: the rake (R80), the slice tick (R139), energy
(R225, R274, R290), accounting windows (R274) and the patrol scrubber (R282). -/

namespace Sys2Proof.Machine

/-! ## The rake -/

/-- The neighbours in a core's partition that host a device's context (R80), in the order N, E, S, W. -/
def State.rakeFor (s : State) (c : Nat) (v : VDev) : List Nat :=
  [Dir.n, Dir.e, Dir.s, Dir.w].filterMap (fun d => match neighbour c d with
    | some n => if s.samePart c n && (s.ctxOf n v).isSome && !(s.core n).fenced then some n else none
    | none => none)

/-- The neighbour with the shallowest task queue, if a core's queue is deeper by more than two (R80). -/
def State.rakeTo (s : State) (c : Nat) (v : VDev) : Option Nat :=
  let depth (k : Nat) : Nat := (s.core k).queue.length
  match s.rakeFor c v with
  | [] => none
  | n :: rest =>
    let best := rest.foldl (fun a b => if depth b < depth a then b else a) n
    if depth c > depth best + 2 then some best else none

/-- The youngest movable entry of a priority that may move, with its place and its neighbour (R80). -/
def State.rakePick (s : State) (c : Nat) (prio : Bool) : Option (Nat × TaskRec × Nat) :=
  let q := (s.core c).queue
  ((List.range q.length).zip q).reverse.findSome? (fun p =>
    if p.2.movable && p.2.prio = prio then (s.rakeTo c p.2.vdev).map (fun n => (p.1, p.2, n)) else none)

/-- RAKE_SAMPLE (R80). None where no entry moves. One whose way would cross a failed boundary stays, and PROTECTION is logged
(R285). -/
def State.rake (s : State) (c : Nat) : Option State :=
  match (match s.rakePick c false with | some r => some r | none => s.rakePick c true) with
  | none => none
  | some (i, r, n) =>
    if s.routeOk c n then
      (s.enqueue n r).map (fun s => (s.modCore c (fun k => { k with queue := k.queue.eraseIdx i })).unspill c)
    else some (s.log c r.vdev ⟨false, none, 0⟩)

/-- RAKE_SAMPLE (R80). -/
def execRakeSample (core : CoreId) (s : State) : Host.Outcome State Fault Refusal := .next ((s.rake core.toNat).getD s)

/-! ## The slice tick -/

/-- cross over the lines of a slice; a broken promise sends its notice (R139, R142). -/
def State.crossSlice (s : State) (c b : Nat) : State :=
  (s.core c).slice.foldl (fun s p =>
    let (r, broke) := p.2.reuse.cross b 1
    let s := s.modCore c (fun k => { k with slice := k.slice.put p.1 { p.2 with reuse := r } })
    if broke then s.notice p.2 false else s) s

/-- SLICE_TICK: the tick has just advanced; deadlines of the slice's lines and of the stash entries in slice ticks are
crossed (R139, R374). -/
def State.sliceTicks (s : State) (c : Nat) : State :=
  let b := (s.sliceTick c + 2 ^ 15 - 1) % 2 ^ 15
  (s.crossStash c (fun e => e.reuse.clk) b 1).crossSlice c b

/-- SLICE_TICK (R139). -/
def execSliceTick (core : CoreId) (s : State) : Host.Outcome State Fault Refusal := .next (s.sliceTicks core.toNat)

/-! ## Energy -/

/-- A context's grant, halved while the module is throttled (R225, R290). -/
def State.grant (s : State) (x : Context) : Nat := if s.ridge.throttle then x.erate.toNat / 2 else x.erate.toNat

/-- One context's replenishment, then the credit that a window's start left for it (R225, R274). -/
def State.replenished (s : State) (x : Context) : Context :=
  let g : Int := s.grant x
  let b := if x.ebud < 2 * g then min (x.ebud + g) (2 * g) else x.ebud
  { x with ebud := clampEbud (b + x.credit), credit := 0 }

/-- ENERGY_REPLENISH: an interval boundary of a core (R225). -/
def State.replenish (s : State) (c : Nat) : State :=
  s.modCore c (fun k => { k with ctxs := k.ctxs.map (fun p => (p.1, s.replenished p.2)) })

/-- ENERGY_REPLENISH (R225). -/
def execEnergyReplenish (core : CoreId) (s : State) : Host.Outcome State Fault Refusal := .next (s.replenish core.toNat)

/-- The sum of ERATE over every context on every core (R28). -/
def State.erateSum (s : State) : Nat :=
  (s.cores.map (fun (p : Nat × Core) => (p.2.ctxs.map (fun q => q.2.erate.toNat)).foldl (· + ·) 0)).foldl (· + ·) 0

/-! ## Accounting -/

/-- What an owner accrues while it is idle from a cycle on: its entitlement's rate, up to one window's entitlement (R274). -/
def accrued (old ent idle : Nat) : Nat := min ent (old + ent * idle / Config.accountingCycles)

/-- An owner whose first launch is queued wakes (R274). -/
def Owner.wake (o : Owner) (now : Nat) : Owner :=
  match o.idleFrom with
  | none => o
  | some t =>
    { o with idleFrom := none, woke := true, creditTurns := accrued o.creditTurns o.cfg.turnsPerWindow (now - t)
             creditEnergy := accrued o.creditEnergy o.cfg.energyPerWindow (now - t) }

/-- The resident contexts of a device in a node: core and context number (R274). -/
def State.ctxsIn (s : State) (n : Nat) (v : VDev) : List (Nat × Nat) :=
  s.cores.flatMap (fun (p : Nat × Core) =>
    if inNode n p.1 then (p.2.ctxs.filter (fun q => q.2.vdev == v)).map (fun q => (p.1, q.1)) else [])

/-- Divides energy credit equally among contexts, rounded down (R274). -/
def State.payCredit (s : State) (tgt : List (Nat × Nat)) (total : Nat) : State :=
  tgt.foldl (fun s p => s.modCtx p.1 p.2 (fun x => { x with credit := x.credit + total / tgt.length })) s

/-- One owner at the start of a window: a limit of slot-turns binds the first window after it has woken, where a signed
configuration gives it an entitlement, and its energy credit is paid from what ERATE leaves unallotted; the credit of an
owner at work lapses (R274). -/
def State.settle (s : State) (n : Nat) (configured : Bool) (left : Nat) (o : Owner) : State × Nat × Owner :=
  let tgt := s.ctxsIn n o.cfg.vdev
  let pay := if o.woke && !tgt.isEmpty then min o.creditEnergy left else 0
  let o' := { o with
    used := 0, woke := false
    cap := if o.woke && configured then some (o.cfg.turnsPerWindow + o.creditTurns) else none
    creditTurns := if o.idleFrom.isSome && !o.woke then o.creditTurns else 0
    creditEnergy := if o.idleFrom.isSome && !o.woke then o.creditEnergy else 0 }
  (s.payCredit tgt pay, left - pay, o')

/-- The owners of a node in ascending index. -/
def State.settleAll (s : State) (n : Nat) (configured : Bool) (left : Nat) : List Owner → State × Nat × List Owner
  | [] => (s, left, [])
  | o :: rest =>
    let (s, left, o) := s.settle n configured left o
    let (s, left, os) := s.settleAll n configured left rest
    (s, left, o :: os)

/-- ACCOUNTING_WINDOW: every owner's window is settled (R274). -/
def State.account (s : State) : State :=
  (s.nodes.foldl (fun (a : State × Nat) p =>
    let (s, left, os) := a.1.settleAll p.1 (p.2.cfgSeq != 0) a.2 p.2.owners
    (s.modNode p.1 (fun k => { k with owners := os }), left)) (s, Config.energyLimit - s.erateSum)).1

/-- ACCOUNTING_WINDOW (R274). -/
def execAccountingWindow (s : State) : Host.Outcome State Fault Refusal := .next s.account

/-! ## Scrubbing -/

/-- PATROL_SCRUB: every line of a core's DRAM and slice is read: correctable errors are corrected and counted, and an
uncorrectable one poisons its line and is logged (R131, R282). It is no use of a line. -/
def State.patrol (s : State) (c : Nat) : State :=
  let mine := s.soft.filter (fun p => homeOf (8 * p.1) = c)
  let cached := (s.core c).slice.filterMap (fun p => if p.2.soft.isEmpty then none else some p.2.pline)
  let lines := dedup (mine.map (fun p => p.1 / 8) ++ cached)
  lines.foldl (fun s pl =>
    let s := s.correct pl
    if s.soft.any (fun p => p.1 / 8 == pl && p.2) && !(s.metaOf pl).poison then s.log c 0 ⟨true, some (64 * pl), 0⟩ else s) s

/-- PATROL_SCRUB (R282). -/
def execPatrolScrub (core : CoreId) (s : State) : Host.Outcome State Fault Refusal := .next (s.patrol core.toNat)

end Sys2Proof.Machine
end

