-- ==== Sys2Proof/Machine/Partition.lean ====
section
/-! DEFINITION. The buddy tree and its partitions (R257-R260, R285, R288), hand-over, lending and recall (R263, R273), owner
configurations and usage snapshots (R270, R272, R275, R279, R281). -/

namespace Sys2Proof.Machine

/-! ## The tree -/

/-- An owner with a configuration entry, as it enters a partition (R270-R275). -/
def Owner.fresh (e : OwnerEntry) (now : Nat) : Owner :=
  { cfg := e, queue := [], deficit := 0, creditTurns := 0, creditEnergy := 0, used := 0, cap := none, idleFrom := some now
    woke := false, turns := 0, energy := 0, dramBytes := 0, ueBytes := 0, snapSeq := 0 }

/-- The entry of an owner that no configuration has set yet (notes/assumptions/23.md): weight 1, every slot, no reservation. -/
def OwnerEntry.plain (v : VDev) : OwnerEntry :=
  { vdev := v, weight := 1, quota := 62, resLaunch := 0, resArrival := 0, resSpill := 0, resLanding := 0, resMailbox := 0
    resOverflow := 0, resHandles := 0, turnsPerWindow := 0, energyPerWindow := 0 }

/-- A node's stacks: first and last column, first and last row (R257). -/
def nodeStacks (n : Nat) : Nat × Nat × Nat × Nat :=
  let (x, y, w, h, _) := nodeRect 15 n
  (x / 32, (x + w - 1) / 32, y / 32, (y + h - 1) / 32)

/-- The boundaries inside a node (R285). -/
def innerBoundaries (n : Nat) : List Nat :=
  let (x0, x1, y0, y1) := nodeStacks n
  (List.range (y1 - y0 + 1)).flatMap (fun j => (List.range (x1 - x0)).map (fun i => 3 * (y0 + j) + x0 + i)) ++
  (List.range (y1 - y0)).flatMap (fun j => (List.range (x1 - x0 + 1)).map (fun i => 12 + 4 * (y0 + j) + x0 + i))

/-- A node may be allotted now: the module serves, under early service only in stack 0, and no failed boundary lies inside
(R285, R288). -/
def State.allottable (s : State) (n : Nat) : Bool :=
  let (x0, x1, y0, y1) := nodeStacks n
  (s.ridge.service = 2 || (s.ridge.service = 1 && n ≥ 16 && x0 = 0 && x1 = 0 && y0 = 0 && y1 = 0)) &&
  (innerBoundaries n).all (fun b => !bitOf s.ridge.bfail.toNat b)

/-- A partition is idle (R258): no thread queued, travelling, arrived, in a slot or evicted, no launch, and no engine
command outstanding. -/
def State.nodeIdle (s : State) (n : Nat) : Bool :=
  s.cores.all (fun (p : Nat × Core) => !inNode n p.1 ||
    (p.2.slots.isEmpty && p.2.queue.isEmpty && p.2.spill.isEmpty && s.enginesIdle p.1 &&
     p.2.arrOut.isEmpty && p.2.ctxs.all (fun x => x.2.arrivals.isEmpty && x.2.arrSpill.isEmpty))) &&
  s.evicted.all (fun v => !inNode n v.core) &&
  s.launches.all (fun (p : Nat × Launch) => p.2.node ≠ n) &&
  s.wire.all (fun f => match f.pkt with
    | .context d _ | .task d _ => !inNode n d
    | _ => true)

/-- A partition that is idle. -/
def State.idlePart (s : State) (n : Nat) : Option Node :=
  match s.nodes.find? n with
  | some k => if k.st = .part && s.nodeIdle n then some k else none
  | none => none

/-- The state with a node put in, and its children inside it. -/
def State.putNode (s : State) (n : Nat) (k : Node) : State := { s with nodes := s.nodes.put n k }

/-- PARTITION_ALLOT (R258, R279, R285, R288): a free node becomes an idle partition of up to 64 owners. -/
def State.allot (s : State) (n : Nat) (owners : List VDev) : State :=
  match s.nodes.find? n with
  | some k =>
    if k.st = .free && s.allottable n && !owners.isEmpty && owners.length ≤ 64 && owners.Nodup then
      s.putNode n { Node.free with st := .part, owners := owners.map (fun v => Owner.fresh (OwnerEntry.plain v) s.now) }
    else s.refuse "allot"
  | none => s.refuse "allot"

/-- PARTITION_ALLOT (R258). -/
def execPartitionAllot (node : Nat) (owners : List VDev) (s : State) : Host.Outcome State Fault Refusal :=
  .next (s.allot node owners)

/-- The second child of a split partition (notes/assumptions/24.md): the parent's owners, configuration and measurement, with
counters, logs and handles of its own. -/
def Node.sibling (k : Node) (now : Nat) : Node :=
  { Node.free with
    st := .part, owners := k.owners.map (fun o => Owner.fresh o.cfg now), pm := k.pm, cfgSeq := k.cfgSeq, cfg := k.cfg }

/-- PARTITION_SPLIT: a free node into free children, an idle partition into idle ones of the same owners (R258). -/
def State.splitNode (s : State) (n : Nat) : State :=
  if n ≥ 16384 then s.refuse "split"
  else match s.nodes.find? n with
    | none => s.refuse "split"
    | some k =>
      let up : Node := { Node.free with st := .split }
      if k.st = .free then ((s.putNode n up).putNode (2 * n) .free).putNode (2 * n + 1) .free
      else match s.idlePart n with
        | some k => ((s.putNode n up).putNode (2 * n) k).putNode (2 * n + 1) (k.sibling s.now)
        | none => s.refuse "split"

/-- PARTITION_SPLIT (R258). -/
def execPartitionSplit (node : Nat) (s : State) : Host.Outcome State Fault Refusal := .next (s.splitNode node)

/-- An owner's record after a merge: the counters of both halves (notes/assumptions/24.md). -/
def Owner.merge (a b : Owner) : Owner :=
  { a with turns := a.turns + b.turns, energy := a.energy + b.energy, dramBytes := a.dramBytes + b.dramBytes
           ueBytes := a.ueBytes + b.ueBytes, used := a.used + b.used }

/-- The partition of two merged halves (notes/assumptions/24.md): the first half's, with the counters and logs of both. -/
def Node.merge (a b : Node) : Node :=
  let owners := a.owners.map (fun o => match b.owners.find? (fun p => p.cfg.vdev == o.cfg.vdev) with
    | some p => o.merge p
    | none => o)
  let v := b.violations.foldl (fun (r : List LogEntry × Nat) e => ringAdd r.1 r.2 e) (a.violations, a.violOver + b.violOver)
  let e := b.errors.foldl (fun (r : List LogEntry × Nat) e => ringAdd r.1 r.2 e) (a.errors, a.errOver + b.errOver)
  { a with owners := owners, violations := v.1, violOver := v.2, errors := e.1, errOver := e.2 }

/-- The devices of a node's owners. -/
def Node.devices (k : Node) : List VDev := k.owners.map (fun o => o.cfg.vdev)

/-- PARTITION_MERGE: two free siblings, or two idle partitions of the same owners (R258). -/
def State.mergeNode (s : State) (n : Nat) : State :=
  match s.nodes.find? n, s.nodes.find? (2 * n), s.nodes.find? (2 * n + 1) with
  | some k, some a, some b =>
    let joined (r : Node) : State := { s with nodes := ((s.nodes.del (2 * n)).del (2 * n + 1)).put n r }
    if k.st ≠ .split then s.refuse "merge"
    else if a.st = .free && b.st = .free then joined .free
    else match s.idlePart (2 * n), s.idlePart (2 * n + 1) with
      | some a, some b =>
        if a.devices.all b.devices.contains && b.devices.all a.devices.contains &&
           (innerBoundaries n).all (fun b => !bitOf s.ridge.bfail.toNat b)
        then joined (a.merge b) else s.refuse "merge"
      | _, _ => s.refuse "merge"
  | _, _, _ => s.refuse "merge"

/-- PARTITION_MERGE (R258). -/
def execPartitionMerge (node : Nat) (s : State) : Host.Outcome State Fault Refusal := .next (s.mergeNode node)

/-! ## Leaving cores -/

/-- A core's registers, shadow set, latches and stash, scrubbed (R281). -/
def Core.scrub (k : Core) : Core :=
  { k with
    regs := [], regPoison := [], regSoft := [], stash := [], prefs := [], arrOut := [], handing := [], ctxs := [], tasks := [], queue := [], spill := [], mail := [], fifos := []
    ends := [], shadow := .reset, wanting := [], lent := [], plb := [], closed := false, stopped := []
    hi := { k.hi with latch := none }, lo := { k.lo with latch := none } }

/-- The listed cores of a node. -/
def State.coresIn (s : State) (n : Nat) : List Nat := (Tbl.keys s.cores).filter (inNode n)

/-- Every context leaves a core, in order (R259). -/
def State.leaveAll (s : State) (c : Nat) : List Nat → Option State
  | [] => some s
  | x :: rest => (s.leaveCore c x).bind (fun s => s.leaveAll c rest)

/-- A core without threads is given up: its contexts' dirty lines go home, and it is scrubbed (R259, R281). -/
def State.giveUp (s : State) (c : Nat) : Option State :=
  (s.leaveAll c (Tbl.keys (s.core c).ctxs)).map (fun s => s.modCore c Core.scrub)

/-- Cores are given up in order. -/
def State.giveUpAll (s : State) : List Nat → Option State
  | [] => some s
  | c :: rest => (s.giveUp c).bind (fun s => s.giveUpAll rest)

/-- PARTITION_FREE: an idle partition becomes free (R258), its cores scrubbed. -/
def State.freeNode (s : State) (n : Nat) : State :=
  let i := Instr.partitionFree n
  match s.idlePart n with
  | none => s.refuse "free"
  | some _ => s.orAwait i ((s.giveUpAll (s.coresIn n)).map (fun s => s.putNode n .free))

/-- PARTITION_FREE (R258). -/
def execPartitionFree (node : Nat) (s : State) : Host.Outcome State Fault Refusal := .next (s.freeNode node)

/-! ## Shrinking -/

/-- Evicts the threads of a core that an eviction finds at a boundary (R259, R261). -/
def State.clearOut (s : State) (c : Nat) : State :=
  (Tbl.keys (s.core c).slots).foldl (fun s i => (s.evict c i).getD s) s

/-- The home of an address now, for what leaves a core (R259, R260). -/
def State.homeNow (s : State) (c : Nat) (v : VDev) (a : Nat) : Nat :=
  match s.translate c v a with
  | .ok l => homeOf (l.phys a)
  | _ => c

/-- The home that a record's data address names, for a core that it leaves (R259, R260). -/
def State.recordHome (s : State) (c : Nat) (r : TaskRec) : Nat :=
  let p := r.xs.getD 0 0
  s.homeNow c r.vdev (if ptrFmt p = 7 then ptrAddr p / 2 else ptrAddr p)

/-- The records and arrivals of a core that hosts no more move, oldest first, to the dispatch cores that their addresses give in
a node (R259, R260, R284). A SPAWN record starts a task of its own there and counts in its spawner's SPLIM no more
(notes/assumptions/71.md). -/
def State.moveOut (s : State) (kept c : Nat) : State :=
  let k := s.core c
  let s := (k.queue ++ k.spill).foldl (fun s r =>
    (match r.task with | some t => s.unspawn (s.task c t).id | none => s).send (.task (s.dispatchCore kept (s.recordHome c r)) { r with task := none }) c) s
  let arr := (k.ctxs.flatMap (fun x => x.2.arrivals ++ x.2.arrSpill) ++ k.arrOut.map Prod.snd).mergeSort (fun a b => a.stamp ≤ b.stamp)
  let s := arr.foldl (fun s a => match a with
    | .travel _ t => s.send (.context (s.dispatchCore kept (s.homeNow c t.vdev t.addr)) t) c t.id
    | .evicted _ v => { s with evicted := s.evicted ++ [v] }) s
  s.modCore c (fun k => { k with
    queue := [], spill := [], arrOut := [], ctxs := k.ctxs.map (fun x => (x.1, { x.2 with arrivals := [], arrSpill := [] })) })

/-- Packets on their way to a core that hosts no more go to the dispatch cores that their addresses give in a node instead (R259,
R260, R284). -/
def State.redirect (s : State) (kept : Nat) (gone : Nat → Bool) : State :=
  { s with wire := s.wire.map (fun f => { f with pkt := match f.pkt with
      | .context d t => .context (if gone d then s.dispatchCore kept (s.homeNow d t.vdev t.addr) else d) t
      | .task d r => .task (if gone d then s.dispatchCore kept (s.recordHome d r) else d) r
      | p => p }) }

/-- PARTITION_SHRINK (R259): the leaving cores stop dispatching, their threads are evicted and their engines finish; then
their records and arrivals move, their dirty lines go home, they are scrubbed, and their child becomes free. -/
def State.shrink (s : State) (n : Nat) (keepFirst : Bool) : State :=
  let i := Instr.partitionShrink n keepFirst
  let kept := if keepFirst then 2 * n else 2 * n + 1
  let gone := if keepFirst then 2 * n + 1 else 2 * n
  match s.nodes.find? n with
  | none => s.refuse "shrink"
  | some k =>
    if k.st ≠ .part || n ≥ 16384 || k.keep.any (· ≠ kept) then s.refuse "shrink"
    else
      let s := s.putNode n { k with keep := some kept }
      let cs := s.coresIn gone
      let s := cs.foldl (fun s c => s.modCore c (fun k => { k with closed := true })) s
      let s := cs.foldl State.clearOut s
      if cs.any (fun c => !(s.core c).slots.isEmpty || !s.enginesIdle c) then s.await i
      else
        let s := cs.foldl (fun s c => s.moveOut kept c) s
        match s.giveUpAll cs with
        | none => s.await i
        | some s =>
          let s := s.redirect kept (inNode gone)
          let up : Node := { Node.free with st := .split }
          let s := ((s.putNode n up).putNode kept { (s.nodes.find? n).getD k with keep := none }).putNode gone .free
          { s with launches := s.launches.map (fun (p : Nat × Launch) =>
              if p.2.node = n then (p.1, { p.2 with node := kept }) else p) }

/-- PARTITION_SHRINK (R259). -/
def execPartitionShrink (node : Nat) (keepFirst : Bool) (s : State) : Host.Outcome State Fault Refusal :=
  .next (s.shrink node keepFirst)

/-! ## Hand-over, lending and recall -/

/-- Slots of a core are to pass to a context at their turns (R263). -/
def State.giveSlots (s : State) (c x : Nat) (slots : List Nat) : State :=
  s.modCore c (fun k => { k with
    handing := k.handing.filter (fun h => !slots.contains h.1) ++ slots.map (fun i => (i, x)) })

/-- A context that comes in by a hand-over holds those slots of its own threads that no other context has been given, and those
that pass to it at their turns, and no other (R263). -/
def State.bindSlots (s : State) (c x : Nat) : State :=
  let own := ((s.core c).slots.filter (fun p => p.1 ≠ 63 && p.2.ctx = x && s.holdsSlot c x (p.1 % 64))).map (fun p => p.1 % 64)
  s.modCtx c x (fun k => { k with slots := some (k.slots.getD own) })

/-- The turn of a slot that is to pass has come (R263): from the next turn it serves the incoming context, whose thread in it
continues where it stopped, a chunk that was not committed executing again. A slot that the context holds already passes
nothing. -/
def State.passSlot (s : State) (c slot : Nat) : State :=
  match List.find? (fun h => h.1 == slot) (s.core c).handing with
  | none => s
  | some (_, x) =>
    let held := s.holdsSlot c x slot
    let s := s.modCore c (fun k => { k with
      handing := k.handing.filter (fun h => h.1 != slot)
      ctxs := k.ctxs.map (fun p =>
        if p.1 = x then (p.1, { p.2 with slots := p.2.slots.map (fun l => dedup (l ++ [slot])) })
        else (p.1, { p.2 with slots := p.2.slots.map (fun l => l.filter (· ≠ slot)) })) })
    if held then s
    else ((s.core c).slots.filter (fun p => p.1 ≠ 63 && p.1 % 64 = slot && p.2.ctx = x && !p.2.chunk.closing)).foldl
      (fun s p => s.squash c p.1) s

/-- A device may hold slots on a core: it is an owner of the core's partition (R263). -/
def State.mayHold (s : State) (c : Nat) (v : VDev) : Bool := (s.owner? c v).isSome

/-- ROTATION_HANDOVER (R263). None where room for the context has to be waited for. -/
def State.handOver (s : State) (c : Nat) (slots : List Nat) (v : VDev) : Option State :=
  (s.ctxRoom c v).map (fun p => (p.2.bindSlots c p.1).giveSlots c p.1 slots)

/-- ROTATION_HANDOVER (R263). -/
def execRotationHandover (core : CoreId) (slots : List Nat) (vdev : VDev) (s : State) : Host.Outcome State Fault Refusal :=
  let i := Instr.rotationHandover core slots vdev
  if s.mayHold core.toNat vdev && !(s.core core.toNat).fenced && slots.all (· < Config.programSlots) then
    .next (s.orAwait i (s.handOver core.toNat slots vdev))
  else .next (s.refuse "hand-over")

/-- LEND_SLOTS: an owner lends slots on a core of its partition (R273). -/
def execLendSlots (core : CoreId) (lender borrower : VDev) (slots : List Nat) (s : State) :
    Host.Outcome State Fault Refusal :=
  let i := Instr.lendSlots core lender borrower slots
  let c := core.toNat
  if s.mayHold c lender && !(s.core c).fenced && lender != borrower &&
     slots.all (fun j => j < Config.programSlots && !(s.core c).lent.any (fun l => l.1 = j)) then
    .next (s.orAwait i ((s.handOver c slots borrower).map (fun s => s.modCore c (fun k => { k with
      lent := k.lent ++ slots.map (fun j => (j, lender, borrower)) }))))
  else .next (s.refuse "lend")

/-- A context's engine commands on a core have ended: its copies, and what its threads issued (R273). -/
def State.ctxIdle (s : State) (c x : Nat) : Bool :=
  let k := s.core c
  let mine (q : Issuer) : Bool := q.core = c && q.ctx = x
  !k.barrow.any (fun p => mine p.2.iss) &&
  !(match k.trellis with
    | some (.walk j) => mine j.iss
    | some (.forest j) => mine j.iss
    | none => false) &&
  !k.gauss.any (fun w => match w with | .command j => mine j.iss | .delivery _ => false) &&
  !s.cores.any (fun (p : Nat × Core) => [p.2.hi.active, p.2.hi.shadow, p.2.lo.active, p.2.lo.shadow].any (fun m => match m with
    | some m => mine m.iss
    | none => false))

/-- A borrower gives up the slots that a lender lent it on a core (R273): its copies stop, and once its slots have gone back at
their turns its threads in them are evicted; a context that holds no other slot leaves once its engines have finished
(notes/assumptions/70.md). The state holds what has been done; whether all of it has. -/
def State.recallCtx (s : State) (c x : Nat) (slots : List Nat) : State × Bool :=
  let s := s.modCore c (fun k => { k with barrow := k.stopCopies x (s.ctx c x).vdev })
  if slots.any (fun i => (s.core c).handing.any (fun h => h.1 == i)) then (s, false)
  else
    let mine (s : State) : List Nat := (s.slotsOf c x).filter (fun i => slots.contains (i % 64))
    let s := (mine s).foldl (fun s i => (s.evict c i).getD s) s
    if !(mine s).isEmpty then (s, false)
    else if (s.ctx c x).slots != some [] then (s, true)
    else if s.ctxIdle c x then
      match s.leaveCore c x with
      | some s' => (s', true)
      | none => (s, false)
    else (s, false)

/-- The slots that a lender has lent to a device on a core (R273). -/
def State.lentTo (s : State) (c : Nat) (lender borrower : VDev) : List Nat :=
  ((s.core c).lent.filter (fun l => l.2.1 == lender && l.2.2 == borrower)).map Prod.fst

/-- LEND_RECALL (R273): every slot that a lender has lent on a core comes back: those that a borrower still holds are listed for
hand-over to the lender's context. -/
def State.recallLent (s : State) (c : Nat) (lender : VDev) : State × Bool :=
  let to_ := (s.ctxOf c lender).getD 8
  let held (x i : Nat) : Bool := match (s.ctx c x).slots with | some l => l.contains i | none => false
  let bs := ((s.core c).lent.filter (fun l => l.2.1 == lender)).map (fun l => l.2.2)
  let (s, done) := bs.foldl (fun (a : State × Bool) b =>
    match a.1.ctxOf c b with
    | some x =>
      let slots := a.1.lentTo c lender b
      let r := (a.1.giveSlots c to_ (slots.filter (held x))).recallCtx c x slots
      (r.1, a.2 && r.2)
    | none => a) (s, true)
  if done then (s.modCore c (fun k => Core.scrubFree { k with lent := k.lent.filter (fun l => l.2.1 != lender) }), true)
  else (s, false)

/-- LEND_RECALL (R273). -/
def execLendRecall (core : CoreId) (lender : VDev) (s : State) : Host.Outcome State Fault Refusal :=
  let i := Instr.lendRecall core lender
  let r := s.recallLent core.toNat lender
  .next (if r.2 then r.1 else r.1.await i)

/-! ## Configurations and snapshots -/

/-- A measurement extended by an image (R278, R279). -/
def extend (m image : List Byte) : List Byte :=
  (Config.shake256 (m ++ (Config.shake256 image 64).toList) 64).toList

/-- The reservations of a partition's owners never sum to more than a pool (R272). -/
def reservedOk (es : List OwnerEntry) : Bool :=
  let sum (f : OwnerEntry → Nat) : Nat := (es.map f).foldl (· + ·) 0
  sum OwnerEntry.resLaunch ≤ 256 && sum OwnerEntry.resArrival ≤ 16 && sum OwnerEntry.resSpill ≤ Config.spillPool &&
  sum OwnerEntry.resLanding ≤ 32 && sum OwnerEntry.resMailbox ≤ 32 && sum OwnerEntry.resOverflow ≤ Config.overflowPool &&
  sum OwnerEntry.resHandles ≤ 65535

/-- OWNER_CONFIGURATION (R270, R272, R279): a verified configuration with a greater sequence number takes effect and
extends PM. -/
def State.configure (s : State) (n : Nat) (g : OwnerCfg) : State :=
  match s.nodes.find? n with
  | none => s.refuse "configuration"
  | some k =>
    let entry (o : Owner) : OwnerEntry := (g.owners.find? (fun e => e.vdev == o.cfg.vdev)).getD o.cfg
    if k.st = .part && g.signed && g.seq > k.cfgSeq && g.owners.length ≤ 64 &&
       g.owners.all (fun e => 1 ≤ e.weight && e.weight ≤ 255 && e.quota ≤ 62 && k.devices.contains e.vdev) &&
       reservedOk (k.owners.map entry) then
      s.putNode n { k with
        owners := k.owners.map (fun o => { o with cfg := entry o }), cfgSeq := g.seq, cfg := g.image, pm := extend k.pm g.image }
    else s.refuse "configuration"

/-- An earlier request that extends a partition's measurement still waits, and later ones wait behind it (R279). -/
def State.extending (s : State) (n : Nat) : Bool :=
  s.ridge.underway.any (fun i => match i with
    | .measureRequest m _ _ | .ownerConfiguration m _ => m = n
    | _ => false)

/-- OWNER_CONFIGURATION (R270, R279). -/
def execOwnerConfiguration (node : Nat) (cfg : OwnerCfg) (s : State) : Host.Outcome State Fault Refusal :=
  .next (if s.extending node then s.await (.ownerConfiguration node cfg) else s.configure node cfg)

/-- The signature of the module's key over the SHAKE256 digest of words: 114 bytes, then 6 bytes of zero (R277, R280). -/
def State.signature (s : State) (words : List Word) : List Byte :=
  let key := (s.ridge.keys.map Prod.fst).getD []
  (Config.sign key (Config.shake256 (wordBytes words) 64).toList).toList ++ List.replicate 6 0

/-- A report over the management port: its words, then their signature (R275, R277, R280). -/
def State.signedReport (s : State) (words : List Word) : List Byte := wordBytes words ++ s.signature words

/-- USAGE_SNAPSHOT (R275; notes/assumptions/25.md). -/
def State.snapshot (s : State) (n : Nat) (v : VDev) : State :=
  match (s.nodes.find? n).bind (fun k => k.owners.find? (fun o => o.cfg.vdev == v)) with
  | none => s.refuse "snapshot"
  | some o =>
    let r := s.signedReport [toW n, v.setWidth 64, toW (o.snapSeq + 1), toW s.now, o.turns, o.energy, o.dramBytes, o.ueBytes]
    let s := s.modNode n (fun k => { k with owners := k.owners.map (fun p =>
      if p.cfg.vdev == v then { p with snapSeq := p.snapSeq + 1 } else p) })
    { s with ridge := { s.ridge with reports := s.ridge.reports ++ [r] } }

/-- USAGE_SNAPSHOT (R275). -/
def execUsageSnapshot (node : Nat) (vdev : VDev) (s : State) : Host.Outcome State Fault Refusal := .next (s.snapshot node vdev)

end Sys2Proof.Machine
end

