-- ==== Sys2Proof/Machine/Host.lean ====
section
/-! DEFINITION. What reaches the module from the host: queue pairs, launches and their completions (R155, R265-R271), and RMA
(R265). -/

namespace Sys2Proof.Machine

/-! ## Queue pairs -/

/-- The state with a queue pair changed. -/
def State.modQp (s : State) (q : Nat) (f : QueuePair → QueuePair) : State := { s with qps := s.qps.mod q f }

/-- The transport's error response (R265, R266). -/
def State.qpError (s : State) (q : Nat) : State := s.modQp q (fun k => { k with errors := k.errors + 1 })

/-- A core of the stack at whose edge a queue pair's port joins the mesh (R26): stack p / 2 for port p
(notes/assumptions/26.md). -/
def QueuePair.gate (k : QueuePair) : Nat := 65536 * (k.port / 2)

/-- An unsupported operation gets the error response, and PROTECTION is logged (R209, R265). -/
def State.qpUnsupported (s : State) (q : Nat) (k : QueuePair) (ga : Nat) : State :=
  (s.log k.gate k.vdev ⟨false, none, ga⟩).qpError q

/-- The state with a device's owner record in a node changed. -/
def State.modOwnerIn (s : State) (n : Nat) (v : VDev) (f : Owner → Owner) : State :=
  s.modNode n (fun k => { k with owners := k.owners.map (fun o => if o.cfg.vdev == v then f o else o) })

/-- Payload bytes on a device's queue pairs (R275). -/
def State.ueCount (s : State) (v : VDev) (n : Nat) : State :=
  match s.partitionOf v with
  | some p => s.modOwnerIn p v (fun o => { o with ueBytes := o.ueBytes + toW n })
  | none => s

/-- QUEUE_PAIR_CREATE: up to 64 queue pairs a device, on the ports 0-31, with one of the supported delivery services (R265).
Queue pair k of device v is number 64 × v + k. -/
def execQueuePairCreate (vdev : VDev) (port : Nat) (kind : PairKind) (s : State) : Host.Outcome State Fault Refusal :=
  match (List.range 64).find? (fun k => (s.qps.find? (64 * vdev.toNat + k)).isNone) with
  | some k =>
    if port < 32 && (s.vdevs.find? vdev.toNat).isSome && kind.service != .idempotent then
      let q : QueuePair := {
        vdev := vdev, port := port, launch := kind.launch, endpoint := kind.endpoint, service := kind.service
        window := 0, max := 1, held := []
        sent := [], recv := [], errors := 0 }
      .next { s with qps := s.qps.put (64 * vdev.toNat + k) q }
    else .next (s.refuse "queue pair")
  | none => .next (s.refuse "queue pair")

/-- The records that a queue pair's events hold at most (R269). -/
def QueuePair.batch (q : QueuePair) : Nat := if q.max = 0 then 1 else min q.max 8

/-- Held records are due (R269): as many as an event holds, or the oldest has waited its limit, its launch's coalesce or else
the window. -/
def QueuePair.due (k : QueuePair) (now : Nat) : Bool :=
  match k.held with
  | [] => false
  | h :: _ => k.held.length ≥ k.batch || h.at_ + (if h.limit ≠ 0 then h.limit else k.window) ≤ now

/-- Sends held completion records as one event (R269). -/
def State.sendHeld (s : State) (q : Nat) : State :=
  match s.qps.find? q with
  | none => s
  | some k =>
    let c := min k.held.length k.batch
    let ev := leBytes 8 c ++ (k.held.take c).flatMap HeldDone.bytes
    (s.modQp q (fun k => { k with held := k.held.drop c, sent := k.sent ++ [ev] })).ueCount k.vdev ev.length

/-- COMPLETION_COALESCE_EXPIRY: held records that are due go out (R269). -/
def State.expire (s : State) (q : Nat) : Option State :=
  match s.qps.find? q with
  | some k => if k.due s.now then some (s.sendHeld q) else none
  | none => none

/-- A completion record becomes ready (R269). -/
def State.holdDone (s : State) (q : Nat) (bytes : List Byte) (coalesce : Nat) : State :=
  let s := s.modQp q (fun k => { k with held := k.held ++ [⟨bytes, s.now, coalesce⟩] })
  (s.expire q).getD s

/-- COMPLETION_COALESCE_EXPIRY (R269). -/
def execCompletionCoalesceExpiry (qp : Nat) (s : State) : Host.Outcome State Fault Refusal := .next ((s.expire qp).getD s)

/-! ## Launches -/

/-- The 32 bytes of a completion record (R268). -/
def doneBytes (tag : Half) (status cause core ended turns : Nat) : List Byte :=
  wordBytes [toW (tag.toNat + status * 2 ^ 32 + cause * 2 ^ 36 + core * 2 ^ 44), toW ended, toW turns, 0]

/-- The controller's own translation: its private link crosses no boundary (R276). -/
def State.mgmtWalk (s : State) (v : VDev) (ga : Nat) : Xlat :=
  { s with ridge := { s.ridge with bfail := 0 } }.walk 0 v ga

/-- A launch record's fields out of range (R267). -/
def launchBad (w : List Word) : Bool :=
  let w0 := w.getD 0 0
  let w6 := w.getD 6 0
  bitOf w0.toNat 0 || field w0 63 61 ≠ 0 || field w6 5 0 = 0 || field w6 5 0 > 62 || field w6 7 6 ≠ 0 ||
  field w6 12 8 = 0 || field w6 12 8 > 16 || field w6 15 13 ≠ 0 || field w6 63 48 ≠ 0 || field (w.getD 7 0) 63 32 ≠ 0

/-- The byte address that a record's data pointer names (R46). -/
def dataAddr (p : Word) : Nat := if ptrFmt p = 7 then ptrAddr p / 2 else ptrAddr p

/-- A launch record's launch (R59, R267). -/
def launchOf (w : List Word) (node q : Nat) (v : VDev) (id : Nat) : Launch :=
  let w0 := w.getD 0 0
  let w6 := w.getD 6 0
  { node := node, vdev := v, qp := q
    record := { entry := BitVec.ofNat 55 (field w0 54 0), prio := bitOf w0.toNat 55, movable := bitOf w0.toNat 56
                size := 8 * (field w0 60 57 + 1), xs := (w.drop 1).take 5, launch := id, vdev := v, task := none }
    slots := field w6 5 0, aqd := field w6 12 8, coalesce := field w6 47 16, tag := (w.getD 7 0).extractLsb' 0 32
    started := false, core := 0, ended := 0, cause := 0, turns := 0, aborted := false }

/-- LAUNCH_RECORD: a launch is queued, or refused by a completion (R266-R268, R271). None while its data page migrates. -/
def State.launchRecord (s : State) (q : Nat) (bytes : List Byte) : Option State :=
  match s.qps.find? q with
  | none => some s
  | some k =>
    if !k.launch || bytes.length ≠ 64 then some (s.qpError q)
    else
      let w := leWords bytes 8
      let s' := s.ueCount k.vdev 64
      let refused (cause : Nat) : State :=
        s'.holdDone q (doneBytes ((w.getD 7 0).extractLsb' 0 32) 1 cause 0 0 0) (field (w.getD 6 0) 47 16)
      match s.partitionOf k.vdev with
      | none => some (refused 0)
      | some n =>
        if launchBad w then some (refused 0)
        else match s.mgmtWalk k.vdev (dataAddr (w.getD 1 0)) with
          | .migrating => none
          | .ok _ =>
            let id := s.nextLaunch
            let s' := { s' with nextLaunch := id + 1, launches := s'.launches.put id (launchOf w n q k.vdev id) }
            some (s'.modOwnerIn n k.vdev (fun o => { o.wake s.now with queue := o.queue ++ [id] }))
          | _ => some (refused 8)

/-- LAUNCH_RECORD (R267). -/
def execLaunchRecord (qp : Nat) (bytes : List Byte) (s : State) : Host.Outcome State Fault Refusal :=
  .next (s.orAwait (.launchRecord qp bytes) (s.launchRecord qp bytes))

/-- AQD of a device's contexts in a node: the least of its started launches (R267). -/
def State.setAqd (s : State) (n : Nat) (v : VDev) : State :=
  let l := (s.launches.filter (fun (p : Nat × Launch) => p.2.vdev == v && p.2.started && p.2.node = n)).map (fun p => p.2.aqd)
  if l.isEmpty then s
  else
    let a := l.foldl min 16
    { s with cores := s.cores.map (fun (p : Nat × Core) =>
        if inNode n p.1 then (p.1, { p.2 with ctxs := p.2.ctxs.map (fun x =>
          if x.2.vdev == v then (x.1, { x.2 with aqd := a }) else x) })
        else p) }

/-- Started launches of a device in a node (R271). -/
def State.startedIn (s : State) (n : Nat) (v : VDev) : Nat :=
  (s.launches.filter (fun (p : Nat × Launch) => p.2.node = n && p.2.started && p.2.vdev == v)).length

/-- A launch entry is free for an owner (R271, R272). -/
def State.entryFree (s : State) (n : Nat) (k : Node) (v : VDev) : Bool :=
  poolOpen 256 k.owners OwnerEntry.resLaunch (s.startedIn n) v

/-- Starts a launch: its record goes to the dispatch core of its data (R260, R267). None while its page migrates. -/
def State.startLaunch (s : State) (n id : Nat) : Option State :=
  match s.launches.find? id with
  | none => some s
  | some l =>
    let p := l.record.xs.getD 0 0
    let go (home : Nat) : State :=
      let c := s.dispatchCore n home
      let s := { s with launches := s.launches.put id { l with started := true, core := c } }
      (s.send (.task c l.record) c).setAqd n l.vdev
    match s.mgmtWalk l.vdev (dataAddr p) with
    | .migrating => none
    | .ok e => some (go (homeOf (e.phys (dataAddr p))))
    | _ =>
      let s := { s with launches := s.launches.del id }
      some (s.holdDone l.qp (doneBytes l.tag 1 8 0 0 0) l.coalesce)

/-- An owner without a queued or running launch is idle (R274). -/
def State.markIdle (s : State) (n : Nat) (v : VDev) : State :=
  if s.startedIn n v = 0 then
    s.modOwnerIn n v (fun o => if o.queue.isEmpty && o.idleFrom.isNone then { o with idleFrom := some s.now } else o)
  else s

/-- The page of a launch's data address migrates: the launch cannot start or be refused yet (R201). -/
def State.headMigrates (s : State) (id : Nat) : Bool :=
  match s.launches.find? id with
  | none => false
  | some l => match s.mgmtWalk l.vdev (dataAddr (l.record.xs.getD 0 0)) with
    | .migrating => true
    | _ => false

/-- An owner's visit: heads start while its deficit and the entries last (R271). A head that is refused at its start takes no
entry and no deficit. -/
def State.visit (s : State) (n : Nat) (i : Nat) : Nat → State
  | 0 => s
  | fuel + 1 =>
    match (s.nodes.find? n).bind (fun k => (k.owners[i]?).map (fun o => (k, o))) with
    | none => s
    | some (k, o) =>
      match o.queue with
      | [] => s
      | id :: rest =>
        let need := ((s.launches.find? id).map Launch.slots).getD 0
        if need ≤ o.deficit && s.entryFree n k o.cfg.vdev then
          match s.startLaunch n id with
          | none => s
          | some s =>
            let paid := if (s.launches.find? id).isSome then need else 0
            ((s.modOwnerIn n o.cfg.vdev (fun o => { o with queue := rest, deficit := o.deficit - paid })).markIdle n
              o.cfg.vdev).visit n i fuel
        else s

/-- LAUNCH_START: the next owner in turn is served by the deficit round robin (R271). None where no launch waits that an
entry is free for and that could start. -/
def State.launchStart (s : State) (n : Nat) : Option State :=
  match s.nodes.find? n with
  | none => none
  | some k =>
    let can (o : Owner) : Bool := match o.queue with
      | [] => false
      | id :: _ => s.entryFree n k o.cfg.vdev && !s.headMigrates id
    if k.st = .part && k.owners.any can then
      let i := k.drr % k.owners.length
      let s := s.modNode n (fun k => { k with drr := (i + 1) % k.owners.length })
      match k.owners[i]? with
      | none => some s
      | some o =>
        if o.queue.isEmpty then some (s.modOwnerIn n o.cfg.vdev (fun o => { o with deficit := 0 }))
        else some ((s.modOwnerIn n o.cfg.vdev (fun o => { o with deficit := o.deficit + o.cfg.weight })).visit n i (o.queue.length + 1))
    else none

/-- LAUNCH_START (R271). -/
def execLaunchStart (node : Nat) (s : State) : Host.Outcome State Fault Refusal := .next ((s.launchStart node).getD s)

/-- No thread, record, context, packet, engine command or copy of a launch is left (R155). -/
def State.launchQuiet (s : State) (l : Nat) : Bool :=
  let cmd (m : Option MCmd) : Bool := match m with | some m => m.iss.launch = l | none => false
  s.evicted.all (fun v => v.th.launch ≠ l) &&
  s.wire.all (fun f => f.launch ≠ l && match f.pkt with
    | .context _ t => t.launch ≠ l
    | .task _ r => r.launch ≠ l
    | .mcmd _ _ _ m => m.iss.launch ≠ l
    | .gauss d => d.launch ≠ l
    | _ => true) &&
  s.cores.all (fun (p : Nat × Core) =>
    let k := p.2
    k.slots.all (fun q => q.2.launch ≠ l) && (k.queue ++ k.spill).all (fun r => r.launch ≠ l) &&
    k.arrOut.all (fun a => a.2.launch ≠ l) && k.ctxs.all (fun x => (x.2.arrivals ++ x.2.arrSpill).all (fun a => a.launch ≠ l)) &&
    k.barrow.all (fun y => y.2.iss.launch ≠ l) &&
    !cmd k.hi.active && !cmd k.hi.shadow && !cmd k.lo.active && !cmd k.lo.shadow &&
    (match k.trellis with
      | some (.walk j) => j.iss.launch ≠ l
      | some (.forest j) => j.iss.launch ≠ l
      | none => true) &&
    k.gauss.all (fun w => match w with
      | .command j => j.iss.launch ≠ l
      | .delivery d => d.launch ≠ l))

/-- The fences of a launch's completion: the dirty private lines of its device's contexts in a node go home (R154, R155).
None where one has to wait. -/
def State.fenceAll (s : State) (n : Nat) (v : VDev) : Option State :=
  (s.ctxsIn n v).foldl (fun s p => s.bind (fun s => s.flushPrivate p.1 p.2)) (some s)

/-- An entry of a partition's started launches has come free: the owners without a queued launch lose their deficits (R271). -/
def State.entryFreed (s : State) (n : Nat) : State :=
  s.modNode n (fun k => { k with owners := k.owners.map (fun o => if o.queue.isEmpty then { o with deficit := 0 } else o) })

/-- LAUNCH_COMPLETION (R155, R267-R269). None while anything of the launch is left, or a line has to wait. -/
def State.launchDone (s : State) (id : Nat) : Option State :=
  match s.launches.find? id with
  | none => none
  | some l =>
    if !l.started || !s.launchQuiet id then none
    else (s.fenceAll l.node l.vdev).map (fun s =>
      let status := if l.aborted then 3 else if l.ended > 0 then 2 else 0
      let s := { s with launches := s.launches.del id }
      (((s.setAqd l.node l.vdev).markIdle l.node l.vdev).entryFreed l.node).holdDone l.qp
        (doneBytes l.tag status l.cause l.core l.ended l.turns) l.coalesce)

/-- LAUNCH_COMPLETION (R268). -/
def execLaunchCompletion (launch : Nat) (s : State) : Host.Outcome State Fault Refusal := .next ((s.launchDone launch).getD s)

/-- Discards a saved thread, which ends so, with its commands: their lines go back as they were (R54, R66, R150). -/
def State.discard (s : State) (v : Saved) : State :=
  let s := v.cmds.foldl (fun s m => s.releaseAll m.2.id) s
  let s := match v.th.spawned with
    | some id => s.unspawn id
    | none => s
  s.modCore v.core (fun k => { k with ends := k.ends.filter (fun e => e.2.slot ≠ v.slot) })

/-- Discards what waits on a core for a launch: records, arrivals (R54, R268). A task whose last SPAWN record this was is over
where it has no thread (R142). -/
def State.discardWaiting (s : State) (c l : Nat) : State :=
  let k := s.core c
  let gone := (k.queue ++ k.spill).filter (fun r => r.launch = l)
  let s := gone.foldl (fun s r => match r.task with | some t => s.unspawn (s.task c t).id | none => s) s
  let tasks := gone.filterMap TaskRec.task
  let saved := (k.ctxs.flatMap (fun x => x.2.arrivals ++ x.2.arrSpill) ++ k.arrOut.map Prod.snd).filterMap (fun a => match a with
    | .evicted _ v => if v.th.launch = l then some v else none
    | .travel _ _ => none)
  let s := saved.foldl State.discard s
  let s := (s.modCore c (fun k => { k with
    queue := k.queue.filter (fun r => r.launch ≠ l), spill := k.spill.filter (fun r => r.launch ≠ l)
    arrOut := k.arrOut.filter (fun a => a.2.launch ≠ l)
    ctxs := k.ctxs.map (fun x => (x.1, { x.2 with
      arrivals := x.2.arrivals.filter (fun a => a.launch ≠ l), arrSpill := x.2.arrSpill.filter (fun a => a.launch ≠ l) })) })).unspill c
  tasks.foldl (fun s t => if s.taskGone c t then s.taskOver c t else s) s

/-- LAUNCH_ABORT on a started launch: its threads are evicted and discarded with all that waits for it; the flag says that
no thread of it is left (R54, R268). -/
def State.abortStep (s : State) (id : Nat) : State × Bool :=
  let s := { s with launches := s.launches.mod id (fun l => { l with aborted := true }) }
  let cs := Tbl.keys s.cores
  let s := cs.foldl (fun s c =>
    ((s.core c).slots.filter (fun p => p.2.launch = id && p.1 ≠ 63)).foldl (fun s p => (s.evict c p.1).getD s) s) s
  let s := (s.evicted.filter (fun v => v.th.launch = id)).foldl State.discard s
  let s := { s with
    evicted := s.evicted.filter (fun v => v.th.launch ≠ id)
    wire := s.wire.filter (fun f => match f.pkt with
      | .context _ t => t.launch ≠ id
      | .task _ r => r.launch ≠ id
      | _ => true) }
  let s := cs.foldl (fun s c => s.discardWaiting c id) s
  (s, cs.all (fun c => (s.core c).slots.all (fun p => p.2.launch ≠ id)))

/-- The dispatch core of a launch's root record (R260, R268); 0 where its data address has no home any more. -/
def State.rootCore (s : State) (l : Launch) : Nat :=
  let a := dataAddr (l.record.xs.getD 0 0)
  match s.mgmtWalk l.vdev a with
  | .ok e => s.dispatchCore l.node (homeOf (e.phys a))
  | _ => 0

/-- LAUNCH_ABORT (R268): one that has not started leaves its owner's queue and completes at once. -/
def State.abort (s : State) (id : Nat) : State :=
  let i := Instr.launchAbort id
  match s.launches.find? id with
  | none => s
  | some l =>
    if l.started then
      let r := s.abortStep id
      if r.2 then r.1 else r.1.await i
    else
      let s := { s with launches := s.launches.del id }
      let s := s.modOwnerIn l.node l.vdev (fun o => { o with queue := o.queue.filter (· ≠ id) })
      ((s.markIdle l.node l.vdev).holdDone l.qp (doneBytes l.tag 3 0 (s.rootCore l) 0 0) l.coalesce)

/-- LAUNCH_ABORT (R268). -/
def execLaunchAbort (launch : Nat) (s : State) : Host.Outcome State Fault Refusal := .next (s.abort launch)

/-! ## Ultra Ethernet operations -/

/-- UE_SEND: a data queue pair's send goes to a receive buffer, one of 64 bytes on a launch queue pair is a launch record
(R266). -/
def execUeSend (qp : Nat) (bytes : List Byte) (s : State) : Host.Outcome State Fault Refusal :=
  match s.qps.find? qp with
  | none => .next s
  | some k =>
    if k.launch then .next (s.orAwait (.ueSend qp bytes) (s.launchRecord qp bytes))
    else .next ((s.modQp qp (fun k => { k with recv := k.recv ++ [bytes] })).ueCount k.vdev bytes.length)

/-- The request that an RMA operation makes at a home, from its port's stack (R26); one without a task clock carries 64 (R141,
R155). -/
def ueRq (k : QueuePair) (ga acc : Nat) : Rq := ⟨k.gate, 8, k.vdev, some 64, toW ga, acc, false⟩

/-- A device's access to a page of its own, or with the domain's right to a shared one (R192, R200, R265). -/
def State.ueMay (s : State) (v : VDev) (l : Leaf) (pa : Nat) (right : Nat) : Bool :=
  (s.granule (pa / 4096)).owner == v ||
  (match s.vdevs.find? v.toNat with
    | some d => (d.rights.get l.domain 0).getLsbD right
    | none => false)

/-- A home's answer to an operation: none where it waits, an error response with a state, or a result. -/
inductive UeRes (α : Type) where
  | wait
  | error (s : State)
  | ok (a : α) (s : State)

/-- One line of an RMA operation at its home (R155, R265): PROTECTION is logged for another device's memory, and for a route from
the port's stack that crosses a failed boundary (R285). -/
def State.ueLine {α : Type} (s : State) (k : QueuePair) (ga : Nat) (right : Nat) (f : Nat → Act α) : UeRes α :=
  match s.mgmtWalk k.vdev ga with
  | .migrating => .wait
  | .ok l =>
    let pa := l.phys ga
    if !s.ueMay k.vdev l pa right then .error (s.log k.gate k.vdev ⟨false, some pa, ga⟩)
    else match attempt (f pa) s with
      | .ok (a, s) => .ok a s
      | .error (.trap _ logs) => .error (s.logs k.gate k.vdev logs)
      | .error _ => .wait
  | .refused pa => .error (s.log k.gate k.vdev ⟨false, some pa, ga⟩)
  | .poison pa => .error (s.log k.gate k.vdev ⟨true, some pa, ga⟩)
  | .fault _ => .error s

/-- The lines of an RMA write, each a chunk of its own (R155). -/
def State.ueWrites (s : State) (k : QueuePair) : List (Nat × List Byte) → UeRes Unit
  | [] => .ok () s
  | (a, bs) :: rest =>
    match s.ueLine k a 1 (fun pa => do
        homeWrite (ueRq k a 1) (a / 64) pa (whole bs)
        modify (fun s => s.squashLine (a / 64))) with
    | .ok _ s => s.ueWrites k rest
    | r => r

/-- The lines of an RMA read. -/
def State.ueReads (s : State) (k : QueuePair) : List (Nat × Nat) → UeRes (List Byte)
  | [] => .ok [] s
  | (a, n) :: rest =>
    match s.ueLine k a 0 (fun pa => do return slice (← homeRead (ueRq k a 0) (a / 64) pa) (a % 64) n) with
    | .ok bs s => match s.ueReads k rest with
      | .ok r s => .ok (bs ++ r) s
      | r => r
    | r => r

/-- The parts of a byte range by line: address and length. -/
def lineCuts (a n : Nat) : List (Nat × Nat) :=
  (cutLines (n / 64 + 2) a (List.replicate n 0)).map (fun p => (p.1, p.2.length))

/-- The control line of a queue pair (R269; notes/assumptions/26.md): the last lines of the address space, one for each number. -/
def controlLine (q : Nat) : Nat := 2 ^ 55 - 64 * 2 ^ 17 + 64 * (q % 2 ^ 17)

/-- A byte range lies within a queue pair's control line (R269). -/
def onControl (q ga n : Nat) : Bool := controlLine q ≤ ga && ga + n ≤ controlLine q + 64

/-- The image of a control line: the coalescing register and zeros (R269). -/
def QueuePair.control (k : QueuePair) : List Byte :=
  leBytes 8 (k.window % 2 ^ 32 + k.max % 16 * 2 ^ 32) ++ List.replicate 56 0

/-- A write into a control line (R269): the fields take their new values, reserved bits stay 0, and records that are due now
go out. -/
def State.controlWrite (s : State) (q off : Nat) (bytes : List Byte) : State :=
  let s := s.modQp q (fun k =>
    let img := (List.range 8).map (fun i => if off ≤ i && i < off + bytes.length then bytes.getD (i - off) 0 else k.control.getD i 0)
    { k with window := bitsOf (leNat img) 31 0, max := bitsOf (leNat img) 35 32 })
  (s.expire q).getD s

/-- UE_WRITE (R155, R265, R266, R269): beside memory, a queue pair's own control line may be written; a launch queue pair takes
nothing else. -/
def State.ueWrite (s : State) (q ga : Nat) (bytes : List Byte) : Option State :=
  match s.qps.find? q with
  | none => some s
  | some k =>
    if onControl q ga bytes.length then some ((s.controlWrite q (ga % 64) bytes).ueCount k.vdev bytes.length)
    else if k.launch then some (s.qpUnsupported q k ga)
    else match s.ueWrites k (cutLines (bytes.length / 64 + 2) ga bytes) with
      | .wait => none
      | .error s => some (s.qpError q)
      | .ok _ s => some (s.ueCount k.vdev bytes.length)

/-- UE_WRITE (R265). -/
def execUeWrite (qp : Nat) (ga : Pc) (bytes : List Byte) (s : State) : Host.Outcome State Fault Refusal :=
  .next (s.orAwait (.ueWrite qp ga bytes) (s.ueWrite qp ga.toNat bytes))

/-- A reply to the peer (R265). -/
def State.ueReply (s : State) (q : Nat) (v : VDev) (bytes : List Byte) (got : Nat) : State :=
  (s.modQp q (fun k => { k with sent := k.sent ++ [bytes] })).ueCount v (bytes.length + got)

/-- UE_READ (R155, R265, R269). -/
def State.ueRead (s : State) (q ga n : Nat) : Option State :=
  match s.qps.find? q with
  | none => some s
  | some k =>
    if onControl q ga n then some (s.ueReply q k.vdev (slice k.control (ga % 64) n) 0)
    else if k.launch then some (s.qpUnsupported q k ga)
    else match s.ueReads k (lineCuts ga n) with
      | .wait => none
      | .error s => some (s.qpError q)
      | .ok bs s => some (s.ueReply q k.vdev bs 0)

/-- UE_READ (R265). -/
def execUeRead (qp : Nat) (ga : Pc) (n : Nat) (s : State) : Host.Outcome State Fault Refusal :=
  .next (s.orAwait (.ueRead qp ga n) (s.ueRead qp ga.toNat n))

/-- An atomic of Ultra Ethernet on an aligned 64-bit word at its home; it answers the old value (R127, R265). One that is not
aligned, and any on a launch queue pair, is not supported. -/
def State.ueAtomic (s : State) (q ga : Nat) (got : Nat) (f : Word → Word) : Option State :=
  match s.qps.find? q with
  | none => some s
  | some k =>
    if k.launch || ga % 8 ≠ 0 then some (s.qpUnsupported q k ga)
    else match s.ueLine k ga 1 (fun pa => do
        atHome (ueRq k ga 1) pa
        modify (fun s => s.squashLine (ga / 64))
        let old := (← get).wordAt pa
        modify (fun s => (s.putWord pa (f old)).wrote (pa / 64))
        return old) with
      | .wait => none
      | .error s => some (s.qpError q)
      | .ok old s => some (s.ueReply q k.vdev (leBytes 8 old.toNat) got)

/-- UE_FETCH_ADD (R265), and every atomic of another operation or width, which is not supported. -/
def execUeFetchAdd (qp : Nat) (ga : Pc) (v : UeOperand) (s : State) : Host.Outcome State Fault Refusal :=
  match v with
  | .word w => .next (s.orAwait (.ueFetchAdd qp ga v) (s.ueAtomic qp ga.toNat 8 (· + w)))
  | .other _ _ => .next (match s.qps.find? qp with
    | some k => s.qpUnsupported qp k ga.toNat
    | none => s)

/-- UE_SWAP (R265). -/
def execUeSwap (qp : Nat) (ga : Pc) (v : Word) (s : State) : Host.Outcome State Fault Refusal :=
  .next (s.orAwait (.ueSwap qp ga v) (s.ueAtomic qp ga.toNat 8 (fun _ => v)))

/-- UE_COMPARE_SWAP (R265). -/
def execUeCompareSwap (qp : Nat) (ga : Pc) (expect v : Word) (s : State) : Host.Outcome State Fault Refusal :=
  .next (s.orAwait (.ueCompareSwap qp ga expect v)
    (s.ueAtomic qp ga.toNat 16 (fun old => if old = expect then v else old)))

end Sys2Proof.Machine
end

