-- ==== Sys2Proof/Machine/Service.lean ====
section
/-! DEFINITION. What the ridge controller does for the contexts' service lines (R199): mappings, unmappings, region handles
with their revocations (R183, R184), and migrations (R198, R201). -/

namespace Sys2Proof.Machine

/-! ## Page tables -/

/-- The word of a leaf (R198). -/
def leafWord (size domain pa : Nat) : Word := toW (1 + 2 + size * 4 + domain * 32 + pa / 256 * 2 ^ 21)

/-- The word of a table entry (R198). -/
def tableWord (pa : Nat) : Word := toW (1 + pa / 256 * 2 ^ 21)

/-- A run of memory, scrubbed (R281): zero, every full/empty bit full, no poison, no error, owner 0, no slice line. -/
def State.scrubRun (s : State) (pa n : Nat) : State :=
  let inside (a : Nat) : Bool := pa ≤ a && a < pa + n
  { s with
    metaBad := s.metaBad.filter (fun pl => !inside (64 * pl))
    mem := s.mem.filter (fun p => !inside p.1)
    metas := s.metas.filter (fun (p : Nat × Meta) => !inside (64 * p.1))
    soft := s.soft.filter (fun (p : Nat × Bool) => !inside (8 * p.1))
    cores := s.cores.map (fun (p : Nat × Core) =>
      (p.1, { p.2 with slice := p.2.slice.filter (fun l => !inside (64 * l.2.pline)) })) }

/-- The granules of a run. -/
def granulesOf (pa n : Nat) : List Nat := (List.range ((pa % 4096 + n + 4095) / 4096)).map (fun k => pa / 4096 + k)

/-- The state with the granules of a run set to one entry (R200). -/
def State.setGranules (s : State) (pa n : Nat) (g : Granule) : State :=
  { s with granules := (granulesOf pa n).foldl (fun (t : Tbl Granule) k => t.put k g) s.granules }

/-- A device's partition reaches a frame's home without crossing a failed boundary (R285). -/
def State.frameReach (s : State) (v : VDev) (pa : Nat) : Bool :=
  match s.partitionOf v with
  | none => true
  | some n =>
    let (x0, x1, y0, y1) := nodeStacks n
    (List.range (x1 - x0 + 1)).all (fun i => (List.range (y1 - y0 + 1)).all (fun j =>
      s.routeOk (65536 * (4 * (y0 + j) + x0 + i)) (homeOf pa)))

/-- The 256-byte units of a run. -/
def unitsOf (pa n : Nat) : List Nat := (List.range (n / 256)).map (fun k => pa + 256 * k)

/-- A frame may be allotted to a device: its home is not dark, and the device's partition reaches it (R284, R285). -/
def State.frameOpen (s : State) (v : VDev) (pa : Nat) : Bool := !(s.core (homeOf pa)).dark && s.frameReach v pa

/-- A granule's entry for a new frame of a device (R199, R200): one that holds other frames of the device keeps its shared bit. -/
def Granule.take (g : Granule) (v : VDev) (n : Nat) : Granule := ⟨v, true, n < 4096 && g.valid && g.owner == v && g.shared⟩

/-- Takes a frame of n bytes from a device's pool, the lowest aligned one (R199; notes/assumptions/27.md); none where there
is no free frame. -/
def State.takeFrame (s : State) (v : VDev) (n : Nat) : Option (Nat × State) :=
  match s.vdevs.find? v.toNat with
  | none => none
  | some d =>
    match List.find? (fun a => a % n = 0 && s.frameOpen v a && (unitsOf a n).all d.frames.contains) d.frames with
    | none => none
    | some a =>
      let d' := { d with frames := d.frames.filter (fun u => !(a ≤ u && u < a + n)) }
      let s := { s with vdevs := s.vdevs.put v.toNat d' }
      some (a, (s.scrubRun a n).setGranules a n ((s.granule (a / 4096)).take v n))

/-- A frame returns to a device's pool. -/
def State.returnFrame (s : State) (v : VDev) (pa n : Nat) : State :=
  { s with vdevs := s.vdevs.mod v.toNat (fun d => { d with
      frames := (d.frames.filter (fun u => !(pa ≤ u && u < pa + n)) ++ unitsOf pa n).mergeSort (· ≤ ·) }) }

/-- Why a mapping ends: it waits for a migration, or with a status of R199. -/
inductive MapStop where
  | wait
  | status (n : Nat)
  deriving DecidableEq, Repr

/-- Goes down to the node of a level, as the tables stand (R196, R198): none where no table leads there, and so nothing is
mapped. A leaf above covers the address, and a malformed entry leads nowhere. -/
def State.nodeAt (s : State) (ga target : Nat) : Nat → Nat → Nat → Except MapStop (Option Nat)
  | 0, _, _ => .ok none
  | fuel + 1, level, base =>
    if level = target then .ok (some base)
    else
      let e := s.wordAt (base + 8 * walkIndex level ga)
      if bitOf e.toNat 0 then
        if bitOf e.toNat 1 || pteBad level e then .error (.status 2)
        else s.nodeAt ga target fuel (level + 1) (field e 54 21 * 256)
      else if bitOf e.toNat 1 then .error .wait
      else .ok none

/-- Goes down to the node of a level, making the tables that are missing from management's own pool (R196). -/
def State.makeNode (s : State) (ga target : Nat) : Nat → Nat → Nat → Except MapStop (Nat × State)
  | 0, _, _ => .error (.status 2)
  | fuel + 1, level, base =>
    if level = target then .ok (base, s)
    else
      let a := base + 8 * walkIndex level ga
      let e := s.wordAt a
      if bitOf e.toNat 0 then s.makeNode ga target fuel (level + 1) (field e 54 21 * 256)
      else match s.takeFrame 0 2048 with
        | none => .error (.status 1)
        | some (n, s) => (s.putWord a (tableWord n)).makeNode ga target fuel (level + 1) n

/-- The entries that a leaf fills in its node (R196). -/
def leafSites (base ga size : Nat) : List Nat :=
  let level := if size ≥ 4 then 4 else 5
  (List.range (4 ^ (if size ≥ 4 then size - 4 else size))).map (fun k =>
    base + 8 * (walkIndex level (ga / pageSize size * pageSize size) + k))

/-- An entry maps nothing: it is empty, or a table without entries (R196). -/
def State.siteEmpty (s : State) (level a : Nat) : Bool :=
  let e := s.wordAt a
  e.toNat % 4 = 0 ||
  (level = 4 && e.toNat % 4 = 1 && (memRead s.mem (field e 54 21 * 256) 2048).all (· == 0))

/-- The level at which a leaf of a size stands (R196). -/
def leafLevel (size : Nat) : Nat := if size ≥ 4 then 4 else 5

/-- Why a device's table does not let a page be mapped (R197, R199): it maps some of it, or an entry of it migrates. -/
def State.pageTaken (s : State) (ga size root : Nat) : Option MapStop :=
  match s.nodeAt ga (leafLevel size) 6 0 root with
  | .error e => some e
  | .ok none => none
  | .ok (some base) =>
    let sites := leafSites base ga size
    if sites.any (fun a => (s.wordAt a).toNat % 4 = 2) then some .wait
    else if sites.all (s.siteEmpty (leafLevel size)) then none
    else some (.status 2)

/-- Maps a page for a device (R197, R199): a page that any device maps 2, no free frame 1. -/
def State.mapPage (s : State) (v : VDev) (ga size domain : Nat) : Except MapStop State :=
  let taken := s.vdevs.filterMap (fun (p : Nat × Device) => s.pageTaken ga size p.2.root)
  match s.vdevs.find? v.toNat with
  | none => .error (.status 4)
  | some d =>
    if taken.contains (.status 2) then .error (.status 2)
    else if !taken.isEmpty then .error .wait
    else match s.makeNode ga (leafLevel size) 6 0 d.root with
      | .error e => .error e
      | .ok (base, s) => match s.takeFrame v (pageSize size) with
        | none => .error (.status 1)
        | some (pa, s) => .ok ((leafSites base ga size).foldl (fun s a => s.putWord a (leafWord size domain pa)) s)

/-! ## Service lines -/

/-- A context's service line with its device (R199): global and physical address. -/
def State.serviceOf (s : State) (c x : Nat) : Option (VDev × Nat × Nat) := do
  let k ← (s.core c).ctxs.find? x
  let ga ← k.service
  match s.mgmtWalk k.vdev ga with
  | .ok l => if s.ownerOk (homeOf (l.phys ga)) k.vdev (l.phys ga) then some (k.vdev, ga, l.phys ga) else none
  | _ => none

/-- The controller's access to a service line at its home, over its private link (R149, R199, R276): it comes in by none of the
home's five ports, and moves no round-robin pointer (R127; notes/assumptions/52.md). None where it has to wait. -/
def State.onLine (s : State) (v : VDev) (ga pa : Nat) (f : State → State) : Option State :=
  match attempt (atHome ⟨homeOf pa, 8, v, some 64, toW ga, 1, false⟩ pa false) s with
  | .ok (_, s) => some ((f (s.squashLine (ga / 64))).wrote (pa / 64))
  | .error _ => none

/-- A request waits on a service line (R199): its bell is full, and no earlier request of the line is being served. -/
def State.bell (s : State) (c x : Nat) : Option (VDev × Nat × Nat × Nat) :=
  match s.serviceOf c x with
  | none => none
  | some (v, ga, pa) =>
    if s.full (pa + 24) && !s.full (pa + 16) &&
       !s.migrations.any (fun m => m.vdev == v && m.line == some ga) &&
       !s.nodes.any (fun (p : Nat × Node) => p.2.revokes.any (fun r => r.vdev == v && r.line == some ga))
    then some (v, ga, pa, field (s.wordAt (pa + 8)) 7 4) else none

/-- Takes the bell of a request (R199). -/
def State.takeBell (s : State) (v : VDev) (ga pa : Nat) : Option State :=
  s.onLine v ga pa (fun s => s.setFull (pa + 24) false)

/-- Answers a request (R184, R199): word 0 where something is returned, then the status by STS. None where the status
word is still full, or the line has to wait. -/
def State.answer (s : State) (v : VDev) (ga : Nat) (status : Nat) (ret : Option Word) : Option State :=
  match s.mgmtWalk v ga with
  | .ok l =>
    let pa := l.phys ga
    if s.full (pa + 16) then none
    else s.onLine v ga pa (fun s =>
      let s := match ret with | some w => s.putWord pa w | none => s
      (s.putWord (pa + 16) (toW status)).setFull (pa + 16) true)
  | .migrating => none
  | _ => some s

/-- The reserved bits of a request are zero (R199). -/
def requestOk (w1 : Word) : Bool := field w1 15 8 = 0 && field w1 63 32 = 0

/-- A page request's fields are in order (R199): reserved bits zero, a known kind, an aligned address. -/
def pageReqOk (w0 w1 : Word) : Bool := requestOk w1 && field w1 7 4 ≤ 3 && field w0 54 0 % pageSize (field w1 2 0) = 0

/-- The device's grant in a domain (R192). -/
def State.granted (s : State) (v : VDev) (domain : Nat) : Bool :=
  domain ≠ 0 && match s.vdevs.find? v.toNat with
    | some d => d.rights.get domain 0 != 0
    | none => false

/-- MAP_REQUEST (R199): a map request, or a request of no known kind, which is malformed. -/
def State.mapRequest (s : State) (c x : Nat) : Option State :=
  match s.bell c x with
  | none => none
  | some (v, ga, pa, kind) =>
    let w0 := s.wordAt pa
    let w1 := s.wordAt (pa + 8)
    if !(kind > 3 || (kind = 0 && !bitOf w1.toNat 3)) then none
    else (s.takeBell v ga pa).bind (fun s =>
      if !pageReqOk w0 w1 then s.answer v ga 4 none
      else if !s.granted v (field w1 31 16) then s.answer v ga 5 none
      else match s.mapPage v (field w0 54 0) (field w1 2 0) (field w1 31 16) with
        | .ok s => s.answer v ga 0 none
        | .error (.status n) => s.answer v ga n none
        | .error .wait => none)

/-- MAP_REQUEST (R199). -/
def execMapRequest (core : CoreId) (ctx : Nat) (s : State) : Host.Outcome State Fault Refusal :=
  .next ((s.mapRequest core.toNat ctx).getD s)

/-! ## Migration -/

/-- The entries of a page in a device's table: their addresses (R196). -/
def State.sitesOf (s : State) (v : VDev) (ga size : Nat) : List Nat :=
  match s.vdevs.find? v.toNat with
  | none => []
  | some d => match s.nodeAt ga (leafLevel size) 6 0 d.root with
    | .ok (some base) => leafSites base ga size
    | _ => []

/-- Writes one word into every entry of a page in a device's table (R196). -/
def State.writeSites (s : State) (v : VDev) (ga size : Nat) (w : Word) : State :=
  (s.sitesOf v ga size).foldl (fun s a => s.putWord a w) s

/-- The devices of the module. -/
def State.deviceIds (s : State) : List VDev := s.vdevs.map (fun (p : Nat × Device) => BitVec.ofNat 11 p.1)

/-- The devices whose tables map a page to a frame (R197). -/
def State.mappers (s : State) (ga pa : Nat) : List VDev :=
  s.deviceIds.filter (fun v => match s.mgmtWalk v ga with | .ok l => l.pa = pa | _ => false)

/-- The devices whose entries of a page are migration entries. -/
def State.movers (s : State) (ga : Nat) : List VDev :=
  s.deviceIds.filter (fun v => match s.mgmtWalk v ga with | .migrating => true | _ => false)

/-- Steps 1 and 2 of R201: the page's entries become migration entries in the tables of the devices `vs`, and the page leaves
every miss-translation cache of theirs. -/
def State.migrateFrom (s : State) (v : VDev) (vs : List VDev) (l : Leaf) (frame : Option Nat) (line : Option Nat) : State :=
  let s := vs.foldl (fun s u => s.writeSites u l.ga l.size 2) s
  { s with
    cores := s.cores.map (fun (p : Nat × Core) =>
      (p.1, { p.2 with mtc := p.2.mtc.filter (fun e => !(vs.contains e.vdev && e.ga = l.ga)) }))
    migrations := s.migrations ++ [⟨v, l.ga, l.size, l.pa, l.domain, frame, line⟩] }

/-- The directory lines of a frame. -/
def State.frameLines (s : State) (pa n : Nat) : List Nat :=
  s.cores.flatMap (fun (p : Nat × Core) =>
    (Tbl.keys p.2.dir).filter (fun pl => pa / 64 ≤ pl && pl < (pa + n) / 64))

/-- Step 3 of R201: every copy of every line of the frame is recalled. None while an engine owns one. -/
def State.recallFrame (s : State) (m : Migration) : Option State :=
  let n := pageSize m.size
  (s.frameLines m.pa n).foldl (fun s pl => s.bind (fun s =>
    if (s.dirOf pl).engine.isSome then none else s.recallCopies (m.ga / 64 + (pl - m.pa / 64)) pl true none)) (some s)

/-- Step 4 of R201: both counts are 0, and no chunk that has not committed changes one. -/
def State.unpinned (s : State) (pa : Nat) : Bool :=
  s.pins.get pa ⟨0, 0⟩ == ⟨0, 0⟩ &&
  s.cores.all (fun (p : Nat × Core) => p.2.slots.all (fun q => q.2.chunk.pins.all (fun r => r.1 ≠ pa)))

/-- A frame's bytes and metadata are read for a copy (R131, R282): correctable errors are corrected and counted, and an
uncorrectable line is poisoned and logged. -/
def State.readFrame (s : State) (pa n : Nat) : State :=
  let lines := dedup ((s.soft.map (fun (p : Nat × Bool) => p.1 / 8) ++ s.metaBad).filter (fun pl => pa / 64 ≤ pl && pl < (pa + n) / 64))
  lines.foldl (fun s pl =>
    let s := s.correct pl
    if s.bad pl && !(s.metaOf pl).poison then s.log (homeOf pa) 0 ⟨true, some (64 * pl), 0⟩ else s) s

/-- A frame's bytes and metadata at another base (R201). -/
def State.copyFrame (s : State) (from_ tgt n : Nat) : State :=
  let inside (a : Nat) : Bool := from_ ≤ a && a < from_ + n
  { s with
    mem := (s.mem.filter (fun p => inside p.1)).foldl (fun m p => memSet m (p.1 - from_ + tgt) p.2) s.mem
    metas := (s.metas.filter (fun (p : Nat × Meta) => inside (64 * p.1))).foldl
      (fun (t : Tbl Meta) p => t.put (p.1 - from_ / 64 + tgt / 64) p.2) s.metas }

/-- The new frame's granules take the old frame's entries (R201), which say whose it is and whether it is shared. -/
def State.copyGranules (s : State) (from_ tgt n : Nat) : State :=
  { s with
    granules := (granulesOf tgt n).foldl (fun (t : Tbl Granule) k =>
      t.put k (s.granule (from_ / 4096 + (k - tgt / 4096)))) s.granules }

/-- Units of frames leave every pool: management has put them to use. -/
def State.claimFrame (s : State) (pa n : Nat) : State :=
  { s with vdevs := s.vdevs.map (fun (p : Nat × Device) =>
      (p.1, { p.2 with frames := p.2.frames.filter (fun u => !(pa ≤ u && u < pa + n)) })) }

/-- A frame that no table maps any longer is scrubbed and goes back to its owner's pool (R197, R201). -/
def State.freeFrame (s : State) (pa n : Nat) : State :=
  let v := (s.granule (pa / 4096)).owner
  let s := s.scrubRun pa n
  (if n ≥ 4096 then s.setGranules pa n ⟨0, false, false⟩ else s).returnFrame v pa n

/-- Sync operations that parked on an old frame are sent again (notes/assumptions/28.md). -/
def State.unparkFrame (s : State) (pa n : Nat) : State :=
  let h := homeOf pa
  (s.core h).park.foldl (fun s p =>
    if pa ≤ p.2.pa && p.2.pa < pa + n then
      (s.modCore h (fun k => { k with park := k.park.del p.1 })).modThread p.2.core p.2.slot (fun t => match t.status with
        | .parked op => { t with status := .home op, asked := s.now }
        | _ => t)
    else s) s

/-- Steps 5 and 6 of R201 for a migration: the frame is copied, its ownership entries follow it, the old frame is scrubbed, and
every device that maps the page gets the new leaf (R197). -/
def State.moveFrame (s : State) (m : Migration) (pa : Nat) : State :=
  let n := pageSize m.size
  let s := ((s.unparkFrame m.pa n).readFrame m.pa n).scrubRun pa n
  let s := (((s.copyFrame m.pa pa n).copyGranules m.pa pa n).claimFrame pa n).freeFrame m.pa n
  (s.movers m.ga).foldl (fun s v => s.writeSites v m.ga m.size (leafWord m.size m.domain pa)) s

/-- Steps 5 and 6 of R201 for an unmapping: the page leaves the requester's table only, and the frame is freed when no table
maps it any longer (R197). -/
def State.unmapFrame (s : State) (m : Migration) : State :=
  let n := pageSize m.size
  let s := if (s.mappers m.ga m.pa).isEmpty then (s.unparkFrame m.pa n).freeFrame m.pa n else s
  s.writeSites m.vdev m.ga m.size 0

/-- Steps 3 to 6 of R201. None where something has to be waited for. -/
def State.migrate (s : State) (m : Migration) : Option State :=
  match s.recallFrame m with
  | none => none
  | some s =>
    if !s.unpinned m.pa then none
    else
      let s := match m.frame with
        | some pa => s.moveFrame m pa
        | none => s.unmapFrame m
      let s := { s with migrations := s.migrations.filter (· != m) }
      match m.line with
      | some ga => s.answer m.vdev ga 0 none
      | none => some s

/-- The migration or unmapping of a page that is under way for a device, if any. -/
def State.migrating? (s : State) (v : VDev) (ga : Nat) : Option Migration :=
  s.migrations.find? (fun m => m.vdev == v && m.ga ≤ ga && ga < m.ga + pageSize m.size)

/-- A frame that management may move a page to (R201, R284, R285): aligned, at no dark home, and within the reach of every
device that maps the page. -/
def State.targetOk (s : State) (vs : List VDev) (size pa : Nat) : Bool :=
  pa % pageSize size = 0 && pa < 2 ^ 42 && vs.all (fun v => s.frameOpen v pa)

/-- PAGE_MIGRATION: management migrates a page to a frame, in every table that maps it, or unmaps it for one device (R197,
R201). -/
def State.pageMigrate (s : State) (v : VDev) (ga : Pc) (frame : Option Nat) : State :=
  let i := Instr.pageMigration v ga frame
  match s.migrating? v ga.toNat with
  | some m => s.orAwait i (s.migrate m)
  | none => match s.mgmtWalk v ga.toNat with
    | .ok l =>
      let vs := if frame.isSome then s.mappers l.ga l.pa else [v]
      if s.frameMoving l then s.await i
      else if (match frame with | some pa => s.targetOk vs l.size pa | none => true) then
        let s := s.migrateFrom v vs l frame none
        match s.migrating? v ga.toNat with
        | some m => s.orAwait i (s.migrate m)
        | none => s
      else s.refuse "migration"
    | .migrating => s.await i
    | _ => s.refuse "migration"

/-- PAGE_MIGRATION (R201). -/
def execPageMigration (vdev : VDev) (ga : Pc) (frame : Option Nat) (s : State) : Host.Outcome State Fault Refusal :=
  .next (s.pageMigrate vdev ga frame)

/-- UNMAP_REQUEST (R199, R201). -/
def State.unmapRequest (s : State) (c x : Nat) : Option State :=
  match s.bell c x with
  | none => none
  | some (v, ga, pa, kind) =>
    let w0 := s.wordAt pa
    let w1 := s.wordAt (pa + 8)
    let a := field w0 54 0
    if !(kind = 0 && bitOf w1.toNat 3) then none
    else (s.takeBell v ga pa).bind (fun s =>
      if !pageReqOk w0 w1 then s.answer v ga 4 none
      else match s.mgmtWalk v a with
        | .migrating => none
        | .ok l =>
          if l.ga ≠ a || l.size ≠ field w1 2 0 then s.answer v ga 3 none
          else if s.frameMoving l then none
          else
            let s := s.migrateFrom v [v] l none (some ga)
            match s.migrating? v a with
            | some m => some (s.orAwait (.pageMigration v (BitVec.ofNat 55 a) none) (s.migrate m))
            | none => some s
        | _ => s.answer v ga 3 none)

/-- UNMAP_REQUEST (R199). -/
def execUnmapRequest (core : CoreId) (ctx : Nat) (s : State) : Host.Outcome State Fault Refusal :=
  .next ((s.unmapRequest core.toNat ctx).getD s)

/-! ## Region handles -/

/-- A partition's handle entry; one that nothing has used is free with generation 1 (R184). -/
def Node.handle (k : Node) (i : Nat) : Handle := k.handles.get i ⟨1, 0, false⟩

/-- The next generation (R184). -/
def nextGen (g : Nat) : Nat := if (g + 1) % 2 ^ 16 = 0 then 1 else (g + 1) % 2 ^ 16

/-- Live handles of a device in a partition. -/
def Node.handlesUsed (k : Node) (v : VDev) : Nat :=
  (k.handles.filter (fun (p : Nat × Handle) => p.2.live && p.2.owner == v)).length

/-- HANDLE_CREATE (R184): reserved bits set 4, no free handle 6. -/
def State.handleCreate (s : State) (c x : Nat) : Option State :=
  match s.bell c x, s.partOf c with
  | some (v, ga, pa, 1), some n =>
    let w1 := s.wordAt (pa + 8)
    (s.takeBell v ga pa).bind (fun s =>
      match s.nodes.find? n with
      | none => none
      | some k =>
        if !requestOk w1 then s.answer v ga 4 none
        else match ((List.range 65536).drop 1).find? (fun i => !(k.handle i).live) with
        | some i =>
          if poolOpen 65535 k.owners OwnerEntry.resHandles k.handlesUsed v then
            let g := (k.handle i).gen
            (s.putNode n { k with handles := k.handles.put i ⟨g, v, true⟩ }).answer v ga 0 (some (toW (i + g * 65536)))
          else s.answer v ga 6 none
        | none => s.answer v ga 6 none)
  | _, _ => none

/-- HANDLE_CREATE (R184). -/
def execHandleCreate (core : CoreId) (ctx : Nat) (s : State) : Host.Outcome State Fault Refusal :=
  .next ((s.handleCreate core.toNat ctx).getD s)

/-- The cores that hold a landing of a copy of a partition that names a handle (R184). -/
def State.landingCores (s : State) (n i : Nat) : List Nat :=
  let names (p : LandPkt) : Bool := inNode n p.core && match s.copyOf p with
    | some y => y.hidx = i
    | none => false
  (s.cores.filter (fun (p : Nat × Core) => p.2.landing.any names || match p.2.landRun with
    | some r => names r.pkt
    | none => false)).map Prod.fst

/-- What a revocation answers in word 0 (R184). -/
def Revoke.ret (r : Revoke) : Word := toW (if r.free then r.idx else r.idx + r.gen * 65536)

/-- A revocation that every core has acknowledged ends: a freed entry returns to the pool, and the line is answered
(R184). None where the answer has to wait. -/
def State.endRevoke (s : State) (n : Nat) (r : Revoke) : Option State :=
  if !r.waiting.isEmpty then none
  else
    let s := s.modNode n (fun k => { k with
      revokes := k.revokes.filter (· != r)
      handles := if r.free then k.handles.put r.idx { k.handle r.idx with live := false } else k.handles })
    match r.line with
    | some ga => s.answer r.vdev ga 0 (some r.ret)
    | none => some s

/-- Advances a handle's generation (R183, R184). -/
def State.revoke (s : State) (n i : Nat) (v : VDev) (free : Bool) (line : Option Nat) : State :=
  match s.nodes.find? n with
  | none => s
  | some k =>
    let h := k.handle i
    let g := nextGen h.gen
    let r : Revoke := ⟨i, g, s.landingCores n i, free, line, v⟩
    let s := s.putNode n { k with handles := k.handles.put i { h with gen := g }, revokes := k.revokes ++ [r] }
    (s.endRevoke n r).getD s

/-- A revoke or free request (R184): reserved bits set 4, handle not live or not owned 7. -/
def State.handleChange (s : State) (c x : Nat) (free : Bool) : Option State :=
  match s.bell c x, s.partOf c with
  | some (v, ga, pa, kind), some n =>
    if kind ≠ (if free then 3 else 2) then none
    else
      let i := field (s.wordAt pa) 15 0
      let w1 := s.wordAt (pa + 8)
      (s.takeBell v ga pa).bind (fun s =>
        match s.nodes.find? n with
        | none => none
        | some k =>
          if !requestOk w1 then s.answer v ga 4 none
          else if i ≠ 0 && (k.handle i).live && (k.handle i).owner == v then some (s.revoke n i v free (some ga))
          else s.answer v ga 7 none)
  | _, _ => none

/-- HANDLE_REVOKE (R184). -/
def execHandleRevoke (core : CoreId) (ctx : Nat) (s : State) : Host.Outcome State Fault Refusal :=
  .next ((s.handleChange core.toNat ctx false).getD s)

/-- HANDLE_FREE (R184). -/
def execHandleFree (core : CoreId) (ctx : Nat) (s : State) : Host.Outcome State Fault Refusal :=
  .next ((s.handleChange core.toNat ctx true).getD s)

/-- REVOCATION_ACK: a receiving core acknowledges a handle's new generation (R183): what has not completed landing there is
refused from now on. It waits for a landing handler of such a copy; the last one ends the revocation. -/
def State.revokeAck (s : State) (c n i : Nat) : Option State :=
  match s.nodes.find? n with
  | none => none
  | some k =>
    match k.revokes.find? (fun r => r.idx = i && (r.waiting.contains c || r.waiting.isEmpty)) with
    | none => none
    | some r =>
      let busy := match (s.core c).landRun with
        | some q => (match s.copyOf q.pkt with | some y => inNode n q.pkt.core && y.hidx = i | none => false)
        | none => false
      if r.waiting.isEmpty then s.endRevoke n r
      else if busy then none
      else
        let r' := { r with waiting := r.waiting.filter (· ≠ c) }
        let s := s.putNode n { k with revokes := k.revokes.map (fun q => if q == r then r' else q) }
        some ((s.endRevoke n r').getD s)

/-- REVOCATION_ACK (R183). -/
def execRevocationAck (core : CoreId) (node : Nat) (idx : Nat) (s : State) : Host.Outcome State Fault Refusal :=
  .next ((s.revokeAck core.toNat node idx).getD s)

end Sys2Proof.Machine
end

