-- ==== Sys2Proof/Machine/Ridge.lean ====
section
/-! DEFINITION. The ridge controller and the board: protected state (R28, R276), measurements and reports (R277-R280), boot
(R278, R287), supply (R289), temperature (R290), self-test and failed links (R284, R285), the two services (R286-R288),
breakpoints (R202) and virtual devices (R194, R196, R265). -/

namespace Sys2Proof.Machine

/-! ## Protected state -/

/-- ERATE_WRITE: a grant that would carry the sum past the limit is refused (R28), and so is one for a device that has no
context on the core, a case that R28 leaves open (notes/assumptions/56.md). -/
def State.writeErate (s : State) (c : Nat) (v : VDev) (grant : Half) : State :=
  match s.ctxOf c v with
  | none => s.refuse "ERATE"
  | some x =>
    if s.erateSum - (s.ctx c x).erate.toNat + grant.toNat ≤ Config.energyLimit then
      s.modCtx c x (fun k => { k with erate := grant })
    else s.refuse "ERATE"

/-- ERATE_WRITE (R28). -/
def execErateWrite (core : CoreId) (vdev : VDev) (grant : Half) (s : State) : Host.Outcome State Fault Refusal :=
  .next (s.writeErate core.toNat vdev grant)

/-- A write of one granule's entry (R200, R281, R284, R285): a change of owner scrubs it; a dark core's granules, and ones
that the owner's partition does not reach, are not allotted. -/
def State.writeGranule (s : State) (g : Nat) (e : Granule) : State :=
  let pa := 4096 * g
  if g ≥ 2 ^ 30 || (e.valid && ((s.core (homeOf pa)).dark || !s.frameReach e.owner pa)) then s.refuse "granule"
  else
    let s := if (s.granule g).owner == e.owner then s else s.scrubRun pa 4096
    { s with granules := s.granules.put g e }

/-- The state with a device changed; one that does not exist is refused. -/
def State.writeDevice (s : State) (v : VDev) (f : Device → Device) : State :=
  match s.vdevs.find? v.toNat with
  | some d => { s with vdevs := s.vdevs.put v.toNat (f d) }
  | none => s.refuse "device"

/-- Management gives a context a service line: the words of a page that the device has there take their reset values, words 2 and
3 empty (R199; notes/assumptions/79.md). None where the line has to be waited for. -/
def State.setService (s : State) (c x : Nat) (v : VDev) (ga : Nat) : Option State :=
  match s.mgmtWalk v ga with
  | .ok l =>
    let pa := l.phys ga
    if s.ownerOk (homeOf pa) v pa then
      (s.onLine v ga pa (fun s =>
        (((s.putWord pa 0).putWord (pa + 8) 0).setFull (pa + 16) false).setFull (pa + 24) false)).map
        (fun s => s.modCtx c x (fun k => { k with service := some ga }))
    else some (s.refuse "service line")
  | .migrating => none
  | _ => some (s.refuse "service line")

/-- MANAGEMENT_REGISTER_WRITE (R276). -/
def State.mgmtWrite (s : State) : MgmtWrite → State
  | .capk core part gen => s.modCore core.toNat (fun k => { k with capPart := part, capGen := gen })
  | .occlim core vdev stash slice => match s.ctxOf core.toNat vdev with
    | some x => s.modCtx core.toNat x (fun k => { k with limStash := stash.toNat, limSlice := slice.toNat })
    | none => s.refuse "OCCLIM"
  | .rights vdev domain grant =>
    let s := s.writeDevice vdev (fun d => { d with
      rights := if grant = 0 then d.rights.del domain.toNat else d.rights.put domain.toNat grant })
    { s with cores := s.cores.map (fun (p : Nat × Core) => (p.1, { p.2 with plb := p.2.plb.filter (fun e =>
        !(e.2.1 = domain.toNat && (p.2.ctxs.find? e.1).any (fun x => x.vdev == vdev))) })) }
  | .granule g owner valid shared => s.writeGranule g ⟨owner, valid, shared⟩
  | .pte pa entry => if pa % 8 = 0 && pa < 2 ^ 42 then s.putWord pa entry else s.refuse "page table"
  | .landing core vdev idx entry => match s.ctxOf core.toNat vdev with
    | some x => s.modCtx core.toNat x (fun k => { k with
        landing := if entry = 0 then k.landing.del idx.toNat else k.landing.put idx.toNat entry })
    | none => s.refuse "landing handlers"
  | .service core vdev ga => match s.ctxOf core.toNat vdev with
    | some x =>
      if ga.toNat % 64 = 0 then
        s.orAwait (.managementRegisterWrite (.service core vdev ga)) (s.setService core.toNat x vdev ga.toNat)
      else s.refuse "service line"
    | none => s.refuse "service line"
  | .window core ga => s.modCore core.toNat (fun k => { k with window := some ga.toNat })
  | .frame vdev pa =>
    if pa % 4096 = 0 && pa < 2 ^ 42 && !(s.core (homeOf pa)).dark && (s.vdevs.find? vdev.toNat).isSome then
      s.returnFrame vdev pa 4096
    else s.refuse "frame"
  | .breakpoint core pc set => s.modCore core.toNat (fun k => { k with
      breaks := if set then k.breaks.filter (· != pc) ++ [pc] else k.breaks.filter (· != pc) })
  | .revoke node idx =>
    match s.nodes.find? node with
    | some k => s.revoke node idx.toNat (k.handle idx.toNat).owner false none
    | none => s.refuse "handle"

/-- MANAGEMENT_REGISTER_WRITE (R276). -/
def execManagementRegisterWrite (w : MgmtWrite) (s : State) : Host.Outcome State Fault Refusal := .next (s.mgmtWrite w)

/-! ## Measurements and reports -/

/-- A part of a range that lies in one line, read at its home over the controller's private link (R276, R279): an owner of the
partition maps it, and its granule belongs to one. -/
def State.measureLine (s : State) (devs : List VDev) (a n : Nat) : UeRes (List Byte) :=
  let at_ (v : VDev) : Option (Option Nat) := match s.mgmtWalk v a with
    | .ok l => some (some (l.phys a))
    | .migrating => some none
    | _ => none
  match devs.findSome? at_ with
  | none => .error s
  | some none => .wait
  | some (some pa) =>
    let g := s.granule (pa / 4096)
    if !(g.valid && devs.contains g.owner) then .error s
    else match attempt (homeRead ⟨homeOf pa, 8, g.owner, some 64, toW a, 0, false⟩ (a / 64) pa) s with
      | .ok (img, s) => .ok (slice img (a % 64) n) s
      | .error (.trap _ logs) => .error (s.logs (homeOf pa) g.owner logs)
      | .error _ => .wait

/-- The bytes of a range, part by part (R279). -/
def State.measured (s : State) (devs : List VDev) : List (Nat × Nat) → UeRes (List Byte)
  | [] => .ok [] s
  | (a, n) :: rest =>
    match s.measureLine devs a n with
    | .ok bs s => match s.measured devs rest with
      | .ok r s => .ok (bs ++ r) s
      | r => r
    | r => r

/-- MEASURE_REQUEST (R279): PM is extended with a range's bytes, or the request is refused with PM unchanged; it waits for the
requests that came before it. -/
def State.measure (s : State) (n ga len : Nat) : Option State :=
  match s.nodes.find? n with
  | none => some (s.refuse "measure")
  | some k =>
    if k.st ≠ .part then some (s.refuse "measure")
    else if s.extending n then none
    else match s.measured k.devices (lineCuts ga len) with
      | .wait => none
      | .error s => some (s.refuse "measure")
      | .ok bs s => some (s.modNode n (fun k => { k with pm := extend k.pm bs }))

/-- MEASURE_REQUEST (R279). -/
def execMeasureRequest (node : Nat) (ga : Pc) (n : Nat) (s : State) : Host.Outcome State Fault Refusal :=
  .next (s.orAwait (.measureRequest node ga n) (s.measure node ga.toNat n))

/-- Fenced and dark cores of a node (R280). -/
def State.fencedIn (s : State) (n : Nat) : Nat :=
  (s.cores.filter (fun (p : Nat × Core) => inNode n p.1 && (p.2.fenced || p.2.dark))).length

/-- The device id: the first 16 bytes of SHAKE256 of the module's public key (R277). -/
def State.deviceId (s : State) : List Byte := (Config.shake256 ((s.ridge.keys.map Prod.snd).getD []) 16).toList

/-- The words 0-41 of an attestation report (R280). -/
def State.reportWords (s : State) (n : Nat) (k : Node) (nonce : List Byte) : List Word :=
  let r := s.ridge
  [toW (1 + n * 65536 + (if r.replace then 2 ^ 31 else 0) + s.fencedIn n * 2 ^ 32), toW (r.seq + 1)] ++
  leWords nonce 8 ++ leWords r.fm 8 ++ leWords k.pm 8 ++ leWords s.deviceId 2 ++
  (if k.cfgSeq = 0 then List.replicate 8 0 else leWords (Config.shake256 k.cfg 64).toList 8) ++ [toW k.cfgSeq, 0, 0, 0, 0, 0]

/-- ATTESTATION_REPORT: 57 words (R280). -/
def State.attest (s : State) (n : Nat) (nonce : List Byte) : State :=
  match s.nodes.find? n with
  | none => s.refuse "report"
  | some k =>
    if k.st ≠ .part || nonce.length ≠ 64 then s.refuse "report"
    else
      let b := s.signedReport (s.reportWords n k nonce)
      { s with ridge := { s.ridge with seq := s.ridge.seq + 1, reports := s.ridge.reports ++ [b] } }

/-- ATTESTATION_REPORT (R280). -/
def execAttestationReport (node : Nat) (nonce : List Byte) (s : State) : Host.Outcome State Fault Refusal :=
  .next (s.attest node nonce)

/-- Fenced and dark cores of the module (R286). -/
def State.fencedAll (s : State) : Nat := (s.cores.filter (fun (p : Nat × Core) => p.2.fenced || p.2.dark)).length

/-- The management status word (R286). -/
def State.mgmtStatus (s : State) : Word :=
  let r := s.ridge
  toW (r.service + (if r.replace then 4 else 0) + (if r.throttle then 8 else 0) + r.bootfail * 16 + s.fencedAll * 256 +
    r.bfail.toNat * 2 ^ 29)

/-! ## Boot and supply -/

/-- The core rail's enable is asserted: standby is good, all four stages have run, and neither a thermal stop nor a power-down
holds (R278, R287, R289, R290). -/
def Ridge.mayPower (r : Ridge) : Bool := r.stbyOk && r.stage = 4 && r.bootfail = 0 && !r.hotStop && r.downAt.isNone

/-- BOOT_STAGE: on standby power the next of the four stages is verified, measured and started. The ROM, the first, has no stage
before it to verify it, and derives the identity key pair from the fused secret. A failed signature leaves the module unpowered;
after the last stage the rails come up (R277, R278, R287). -/
def State.boot (s : State) (image : List Byte) (signed : Bool) : State :=
  let r := s.ridge
  if !r.stbyOk || r.stage ≥ 4 || r.bootfail ≠ 0 then s.refuse "boot"
  else if r.stage > 0 && !signed then { s with ridge := { r with bootfail := r.stage + 1 } }
  else
    let pair := Config.keyPair (Config.secret r.fuses).toList
    let r := { r with
      fm := extend r.fm image, stage := r.stage + 1, flash := r.flash.put (r.stage + 1) image
      keys := if r.stage = 0 then some (pair.1.toList, pair.2.toList) else r.keys }
    { s with ridge := { r with coreEn := r.coreEn || r.mayPower } }

/-- BOOT_STAGE (R278). -/
def execBootStage (image : List Byte) (signed : Bool) (s : State) : Host.Outcome State Fault Refusal :=
  .next (s.boot image signed)

/-- STBY_OK: standby power is good, and the controller runs; CORE_EN follows once the boot stages have run (R278, R287, R289). -/
def State.standby (s : State) : State :=
  let r := { s.ridge with stbyOk := true }
  { s with ridge := { r with coreEn := r.coreEn || r.mayPower } }

/-- STBY_OK (R289). -/
def execStbyOk (s : State) : Host.Outcome State Fault Refusal := .next s.standby

/-- The cores of stacks leave the self-test of power-on (R25, R284, R287; notes/assumptions/54.md). -/
def State.leaveSelfTest (s : State) (ks : List Nat) : State :=
  { s with selfTested := ks.foldl (fun (t : Tbl Nat) k => t.put k s.now) s.selfTested }

/-- CORE_OK: MEM_EN is asserted (R289). -/
def State.coreGood (s : State) : State :=
  if s.ridge.coreEn && s.ridge.downAt.isNone then { s with ridge := { s.ridge with coreOk := true, memEn := true } } else s

/-- CORE_OK (R289). -/
def execCoreOk (s : State) : Host.Outcome State Fault Refusal := .next s.coreGood

/-- MEM_OK: both rails are up, and the stacks, which the board powers together, pass through self-test (R287, R289;
notes/assumptions/54.md). -/
def State.memGood (s : State) : State :=
  if s.ridge.memEn && !s.ridge.memOk then
    ({ s with ridge := { s.ridge with memOk := true } } : State).leaveSelfTest (List.range 16)
  else s

/-- MEM_OK (R289). -/
def execMemOk (s : State) : Host.Outcome State Fault Refusal := .next s.memGood

/-- POWER_OK_TIMEOUT: a missing OK drops every enable (R289). -/
def State.okTimeout (s : State) : State :=
  let r := s.ridge
  if (r.coreEn && !r.coreOk) || (r.memEn && !r.memOk) then { s with ridge := { r with coreEn := false, memEn := false } } else s

/-- POWER_OK_TIMEOUT (R289). -/
def execPowerOkTimeout (s : State) : Host.Outcome State Fault Refusal := .next s.okTimeout

/-- A module without core and memory rails: cores, DRAM and what runs on them are lost (R290). The controller keeps what is
its own: devices, partitions and queue pairs without launches, measurements (R276). -/
def State.dark (s : State) : State :=
  { State.reset with
    now := s.now, inputs := s.inputs, vdevs := s.vdevs, qps := s.qps.map (fun (p : Nat × QueuePair) => (p.1, { p.2 with held := [] }))
    nodes := s.nodes.map (fun (p : Nat × Node) => (p.1, { p.2 with
      owners := p.2.owners.map (fun o => { o with queue := [], idleFrom := some (o.idleFrom.getD s.now) }) }))
    nextLaunch := s.nextLaunch, bloom := s.bloom, nextCmd := s.nextCmd, ridge := { s.ridge with underway := [], trained := [] } }

/-- Standby goes, and the module is as at power-on; failed links and boundaries stay, and with them a request for replacement
(R285, R289). -/
def State.powerOff (s : State) : State :=
  { State.reset with
    now := s.now, bloom := s.bloom, ridge := { Ridge.reset with
      fuses := s.ridge.fuses, certificate := s.ridge.certificate, flash := s.ridge.flash, cool := some s.now
      links := s.ridge.links, bfail := s.ridge.bfail, replace := s.ridge.bfail != 0 } }

/-- The cycles of 10 ms (R24, R289). -/
def railCycles : Nat := 12500000

/-- POWER_DOWN: the steps of power-up in reverse, at least 10 ms apart (R289): MEM_EN drops, and what runs on the rails is
lost; then CORE_EN; then standby. -/
def State.powerDown (s : State) : State :=
  let r := s.ridge
  if r.downAt.any (fun t => s.now < t + railCycles) then s.await .powerDown
  else if r.memEn then
    let s := s.dark
    ({ s with ridge := { s.ridge with memEn := false, memOk := false, service := 0, downAt := some s.now } } : State).await .powerDown
  else if r.coreEn then
    ({ s with ridge := { r with coreEn := false, coreOk := false, downAt := some s.now } } : State).await .powerDown
  else s.powerOff

/-- POWER_DOWN (R289). -/
def execPowerDown (s : State) : Host.Outcome State Fault Refusal := .next s.powerDown

/-! ## Temperature -/

/-- THERMAL_SAMPLE (R290): 95 degrees set throttle, 110 stop the module. -/
def State.sample (s : State) (stack : Nat) (t : Int) : State :=
  let r := s.ridge
  let sensors := r.sensors.put stack t
  let cool := if sensors.all (fun p => p.2 ≤ 90) then some (r.cool.getD s.now) else none
  let s := { s with ridge := { r with sensors := sensors, cool := cool, throttle := r.throttle || t ≥ 95 } }
  if t ≥ 110 then
    let s := s.dark
    { s with ridge := { s.ridge with
        hotStop := true, coreEn := false, memEn := false, coreOk := false, memOk := false, service := 3 } }
  else s

/-- THERMAL_SAMPLE (R290). -/
def execThermalSample (stack : Nat) (celsius : Int) (s : State) : Host.Outcome State Fault Refusal :=
  .next (s.sample stack celsius)

/-- The cycles of 1 ms (R24). -/
def State.millisecond (s : State) : Nat := if s.ridge.service = 1 then 625000 else 1250000

/-- THROTTLE_RELEASE: every sensor has read 90 degrees or less for 1 ms (R290). None where that does not hold. -/
def State.release (s : State) : Option State :=
  match s.ridge.cool with
  | some t =>
    if s.ridge.throttle && t + s.millisecond ≤ s.now then some { s with ridge := { s.ridge with throttle := false } } else none
  | none => none

/-- THROTTLE_RELEASE (R290). -/
def execThrottleRelease (s : State) : Host.Outcome State Fault Refusal := .next (s.release.getD s)

/-! ## Failed parts -/

/-- Fenced and dark cores of a stack (R285). -/
def State.fencedStack (s : State) (st : Nat) : Nat :=
  (s.cores.filter (fun (p : Nat × Core) => p.1 / 65536 = st && (p.2.fenced || p.2.dark))).length

/-- Replacement is requested where a stack has more than 655 failed cores or a boundary has failed (R285). -/
def State.checkReplace (s : State) : State :=
  if (List.range 16).any (fun st => s.fencedStack st > 655) || s.ridge.bfail != 0 then
    { s with ridge := { s.ridge with replace := true } }
  else s

/-- A self-test has failed the core (R284). -/
def testFailed : TestResult → Bool
  | .fenced | .dark => true
  | .pass | .repaired _ => false

/-- The register entries that programs' windows may use after a self-test of a core that had `old` (R262, R284). -/
def testUsable (r : TestResult) (old : Nat) : Nat :=
  match r with
  | .repaired n => min n Config.riddleBase
  | _ => old

/-- A core as it leaves self-test (R25, R78, R127, R158, R284; notes/assumptions/41.md): what serves as a home, what management
wrote and what waits for dispatch stays. -/
def Core.tested (k : Core) (now : Nat) (r : TestResult) : Core :=
  { Core.reset with
    cycBase := now, slice := k.slice, sliceFill := k.sliceFill, dir := k.dir, overflowWork := k.overflowWork, park := k.park
    refusals := k.refusals, capPart := k.capPart, capGen := k.capGen, breaks := k.breaks, window := k.window
    tasks := k.tasks, queue := k.queue, spill := k.spill, mail := k.mail, ends := k.ends, arrStamp := k.arrStamp, lent := k.lent
    corrected := k.corrected, gens := k.gens, fenced := testFailed r, dark := r == .dark, usable := testUsable r k.usable }

/-- A core that fails its self-test hosts no more (R284): what waits for dispatch there, or is on its way there, goes to the
cores of the partition that dispatch names now (R260). -/
def State.hostsNoMore (s : State) (c : Nat) : State :=
  let s := s.modCore c (fun k => { k with fenced := true })
  match s.partOf c with
  | some n => (s.moveOut n c).redirect n (· = c)
  | none => s

/-- The result of a core's self-test (R284), once no thread stands on it and its engines are idle: its contexts leave it first,
and a dark core's granules become invalid. None where something has to be waited for. -/
def State.tested (s : State) (c : Nat) (r : TestResult) : Option State :=
  if !(s.core c).slots.isEmpty || !s.enginesIdle c then none
  else
    let s := if testFailed r then s.hostsNoMore c else s
    (s.leaveAll c (Tbl.keys (s.core c).ctxs)).map (fun s =>
      let s := s.modCore c (fun k => k.tested s.now r)
      let s := if r == .dark then
          { s with granules := s.granules.map (fun (p : Nat × Granule) =>
              if p.1 / 1024 = c then (p.1, { p.2 with valid := false }) else p) }
        else s
      s.checkReplace)

/-- SELF_TEST of a core that management names (R284): the core dispatches no more, its threads are evicted and its engines
finish, and then the test runs (notes/assumptions/41.md). -/
def State.test (s : State) (c : Nat) (r : TestResult) : State :=
  let s := (s.modCore c (fun k => { k with closed := true })).clearOut c
  s.orAwait (.selfTest (BitVec.ofNat 20 c) r) (s.tested c r)

/-- SELF_TEST (R284). -/
def execSelfTest (core : CoreId) (result : TestResult) (s : State) : Host.Outcome State Fault Refusal :=
  .next (s.test core.toNat result)

/-- BOUNDARY_LINK_FAILURE: 8 spares a layer; a ninth failed link fails the boundary (R285). -/
def State.linkFails (s : State) (b : Nat) (cacheLayer : Bool) : State :=
  if b ≥ 24 then s
  else
    let i := 2 * b + (if cacheLayer then 1 else 0)
    let n := s.ridge.links.get i 0 + 1
    let r := { s.ridge with links := s.ridge.links.put i n }
    ({ s with ridge := if n > 8 then { r with bfail := r.bfail ||| (1#24 <<< b) } else r } : State).checkReplace

/-- BOUNDARY_LINK_FAILURE (R285). -/
def execBoundaryLinkFailure (boundary : Nat) (cacheLayer : Bool) (s : State) : Host.Outcome State Fault Refusal :=
  .next (s.linkFails boundary cacheLayer)

/-! ## Services -/

/-- The DRAM of the stacks that have left self-test is trained while the rails are up, and its frames are scrubbed (R281, R287;
notes/assumptions/54.md). -/
def State.train (s : State) : State :=
  let r := s.ridge
  let ks := (Tbl.keys s.selfTested).filter (fun k => !r.trained.contains k)
  if !(r.coreOk && r.memOk) || ks.isEmpty then s
  else
    let old (pa : Nat) : Bool := !ks.contains (homeOf pa / 65536)
    { s with
      ridge := { r with trained := r.trained ++ ks }
      mem := s.mem.filter (fun p => old p.1)
      metas := s.metas.filter (fun (p : Nat × Meta) => old (64 * p.1))
      soft := s.soft.filter (fun (p : Nat × Bool) => old (8 * p.1))
      metaBad := s.metaBad.filter (fun pl => old (64 * pl)) }

/-- EARLY_SERVICE_START: the boot stages are done, the rails are up, and stack 0, out of self-test with its DRAM trained, serves
(R278, R284, R287, R289). It waits for the training. -/
def State.startEarly (s : State) : State :=
  let r := s.ridge
  if r.service = 0 && r.stage = 4 && r.bootfail = 0 && r.coreOk && r.memOk then
    if r.trained.contains 0 then { s with ridge := { r with service := 1 } } else s.await .earlyServiceStart
  else s.refuse "service"

/-- EARLY_SERVICE_START (R287). -/
def execEarlyServiceStart (s : State) : Host.Outcome State Fault Refusal := .next s.startEarly

/-- A rotation of stack 0 ends in this cycle (R288). -/
def State.atRotation (s : State) : Bool := (s.now - s.selfTested.get 0 0) % 64 = 0

/-- FULL_SERVICE_SWITCH: at a rotation boundary; stacks 1-15, out of self-test with their DRAM trained, join (R284, R287,
R288). -/
def State.goFull (s : State) : State :=
  if s.ridge.service ≠ 1 then s.refuse "service"
  else if s.atRotation && (List.range 16).all s.ridge.trained.contains then { s with ridge := { s.ridge with service := 2 } }
  else s.await .fullServiceSwitch

/-- FULL_SERVICE_SWITCH (R288). -/
def execFullServiceSwitch (s : State) : Host.Outcome State Fault Refusal := .next s.goFull

/-! ## Breakpoints and virtual devices -/

/-- A thread stands at a breakpoint of its core and may issue (R202). -/
def State.atBreak (s : State) (c i : Nat) : Bool :=
  match s.thread? c i with
  | some t => i ≠ 63 && (s.core c).breaks.contains t.pc && !(s.core c).stopped.contains i && s.active c i
  | none => false

/-- DEBUG_BREAKPOINT: the slot stops as HALTD stops it (R158, R202). None where the thread is at no breakpoint. -/
def State.breakpoint (s : State) (c i : Nat) : Option State :=
  if s.atBreak c i then some ((s.squash c i).modCore c (fun k => { k with stopped := k.stopped ++ [i] })) else none

/-- DEBUG_BREAKPOINT (R202). -/
def execDebugBreakpoint (core : CoreId) (slot : Nat) (s : State) : Host.Outcome State Fault Refusal :=
  .next ((s.breakpoint core.toNat slot).getD s)

/-- VIRTUAL_DEVICE_CREATE: a device with its page-table root, a node of 2 KiB (R196). -/
def State.createDevice (s : State) (v : VDev) (root : Nat) : State :=
  if (s.vdevs.find? v.toNat).isSome || root % 2048 ≠ 0 || root ≥ 2 ^ 42 then s.refuse "device"
  else { s with vdevs := s.vdevs.put v.toNat ⟨root, [], []⟩ }

/-- VIRTUAL_DEVICE_CREATE (R196). -/
def execVirtualDeviceCreate (vdev : VDev) (root : Nat) (s : State) : Host.Outcome State Fault Refusal :=
  .next (s.createDevice vdev root)

/-- VIRTUAL_DEVICE_DESTROY: a device that owns no partition and has no context on a core goes, with its queue pairs, its
caches' leaves and the program pin counts of its frames (R194, R195). -/
def State.destroyDevice (s : State) (v : VDev) : State :=
  if (s.vdevs.find? v.toNat).isNone || (s.partitionOf v).isSome ||
     s.cores.any (fun (p : Nat × Core) => p.2.ctxs.any (fun x => x.2.vdev == v)) then s.refuse "device"
  else
    { s with
      vdevs := s.vdevs.del v.toNat
      qps := s.qps.filter (fun (p : Nat × QueuePair) => p.2.vdev != v)
      cores := s.cores.map (fun (p : Nat × Core) => (p.1, { p.2 with mtc := p.2.mtc.filter (fun e => e.vdev != v) }))
      pins := s.pins.map (fun (p : Nat × PinCount) =>
        if (s.granule (p.1 / 4096)).owner == v then (p.1, { p.2 with program := 0 }) else p) }

/-- VIRTUAL_DEVICE_DESTROY (R194). -/
def execVirtualDeviceDestroy (vdev : VDev) (s : State) : Host.Outcome State Fault Refusal := .next (s.destroyDevice vdev)

end Sys2Proof.Machine
end

