-- ==== Sys2Proof/Machine/Dispatch.lean ====
section
/-! DEFINITION. The meaning of every step: one arm per constructor of `Instr`. -/

namespace Sys2Proof.Machine

/-- The meaning of a step (spec/opcode_table.json). -/
def exec (i : Instr) (s : State) : Host.Outcome State Fault Refusal :=
  match i with
  | .nop g => Sys2Proof.Machine.execNop g s
  | .br g off => Sys2Proof.Machine.execBr g off s
  | .brl g d off => Sys2Proof.Machine.execBrl g d off s
  | .jmp g a => Sys2Proof.Machine.execJmp g a s
  | .jmpl g d a => Sys2Proof.Machine.execJmpl g d a s
  | .loop g d off => Sys2Proof.Machine.execLoop g d off s
  | .chunk g => Sys2Proof.Machine.execChunk g s
  | .fence g sc => Sys2Proof.Machine.execFence g sc s
  | .ifence g => Sys2Proof.Machine.execIfence g s
  | .flushi g a b => Sys2Proof.Machine.execFlushi g a b s
  | .trap g n => Sys2Proof.Machine.execTrap g n s
  | .uret g => Sys2Proof.Machine.execUret g s
  | .eret g => Sys2Proof.Machine.execEret g s
  | .exit g => Sys2Proof.Machine.execExit g s
  | .taskend g => Sys2Proof.Machine.execTaskend g s
  | .yield g => Sys2Proof.Machine.execYield g s
  | .haltd g a drain => Sys2Proof.Machine.execHaltd g a drain s
  | .tick g n => Sys2Proof.Machine.execTick g n s
  | .level g on => Sys2Proof.Machine.execLevel g on s
  | .csrr g d csr => Sys2Proof.Machine.execCsrr g d csr s
  | .csrw g a csr => Sys2Proof.Machine.execCsrw g a csr s
  | .csrs g a csr => Sys2Proof.Machine.execCsrs g a csr s
  | .csrc g a csr => Sys2Proof.Machine.execCsrc g a csr s
  | .plbw g a b => Sys2Proof.Machine.execPlbw g a b s
  | .pinc g a => Sys2Proof.Machine.execPinc g a s
  | .pdec g a => Sys2Proof.Machine.execPdec g a s
  | .add g d a b sat => Sys2Proof.Machine.execAdd g d a b sat s
  | .sub g d a b sat => Sys2Proof.Machine.execSub g d a b sat s
  | .mul g d a b sat => Sys2Proof.Machine.execMul g d a b sat s
  | .mulh g d a b => Sys2Proof.Machine.execMulh g d a b s
  | .mulhu g d a b => Sys2Proof.Machine.execMulhu g d a b s
  | .div g d a b => Sys2Proof.Machine.execDiv g d a b s
  | .divu g d a b => Sys2Proof.Machine.execDivu g d a b s
  | .rem g d a b => Sys2Proof.Machine.execRem g d a b s
  | .remu g d a b => Sys2Proof.Machine.execRemu g d a b s
  | .and g d a b => Sys2Proof.Machine.execAnd g d a b s
  | .or g d a b => Sys2Proof.Machine.execOr g d a b s
  | .xor g d a b => Sys2Proof.Machine.execXor g d a b s
  | .andn g d a b => Sys2Proof.Machine.execAndn g d a b s
  | .shl g d a b => Sys2Proof.Machine.execShl g d a b s
  | .shr g d a b => Sys2Proof.Machine.execShr g d a b s
  | .sar g d a b => Sys2Proof.Machine.execSar g d a b s
  | .rol g d a b => Sys2Proof.Machine.execRol g d a b s
  | .ror g d a b => Sys2Proof.Machine.execRor g d a b s
  | .min g d a b => Sys2Proof.Machine.execMin g d a b s
  | .max g d a b => Sys2Proof.Machine.execMax g d a b s
  | .minu g d a b => Sys2Proof.Machine.execMinu g d a b s
  | .maxu g d a b => Sys2Proof.Machine.execMaxu g d a b s
  | .neg g d a sat => Sys2Proof.Machine.execNeg g d a sat s
  | .abs g d a sat => Sys2Proof.Machine.execAbs g d a sat s
  | .clz g d a => Sys2Proof.Machine.execClz g d a s
  | .popc g d a => Sys2Proof.Machine.execPopc g d a s
  | .sel g d k a b => Sys2Proof.Machine.execSel g d k a b s
  | .cmp g pd c a b => Sys2Proof.Machine.execCmp g pd c a b s
  | .mov g d a => Sys2Proof.Machine.execMov g d a s
  | .pand g pd pa pb => Sys2Proof.Machine.execPand g pd pa pb s
  | .por g pd pa pb => Sys2Proof.Machine.execPor g pd pa pb s
  | .pxor g pd pa pb => Sys2Proof.Machine.execPxor g pd pa pb s
  | .pnot g pd pa => Sys2Proof.Machine.execPnot g pd pa s
  | .pmov g pd pa => Sys2Proof.Machine.execPmov g pd pa s
  | .addi g d a imm sat => Sys2Proof.Machine.execAddi g d a imm sat s
  | .andi g d a imm => Sys2Proof.Machine.execAndi g d a imm s
  | .ori g d a imm => Sys2Proof.Machine.execOri g d a imm s
  | .xori g d a imm => Sys2Proof.Machine.execXori g d a imm s
  | .shli g d a n => Sys2Proof.Machine.execShli g d a n s
  | .shri g d a n => Sys2Proof.Machine.execShri g d a n s
  | .sari g d a n => Sys2Proof.Machine.execSari g d a n s
  | .cmpi g pd c a imm => Sys2Proof.Machine.execCmpi g pd c a imm s
  | .movi g d imm => Sys2Proof.Machine.execMovi g d imm s
  | .movhi g d imm => Sys2Proof.Machine.execMovhi g d imm s
  | .paddReg g d a b => Sys2Proof.Machine.execPaddReg g d a b s
  | .paddImm g d a imm => Sys2Proof.Machine.execPaddImm g d a imm s
  | .pfmt g d a code l => Sys2Proof.Machine.execPfmt g d a code l s
  | .ptag g d a => Sys2Proof.Machine.execPtag g d a s
  | .contid g d n => Sys2Proof.Machine.execContid g d n s
  | .fadd g d a b m => Sys2Proof.Machine.execFadd g d a b m s
  | .fsub g d a b m => Sys2Proof.Machine.execFsub g d a b m s
  | .fmul g d a b m => Sys2Proof.Machine.execFmul g d a b m s
  | .fdiv g d a b m => Sys2Proof.Machine.execFdiv g d a b m s
  | .fsqrt g d a m => Sys2Proof.Machine.execFsqrt g d a m s
  | .fma g d a b c m => Sys2Proof.Machine.execFma g d a b c m s
  | .fpma g d a b c r => Sys2Proof.Machine.execFpma g d a b c r s
  | .fmin g d a b f => Sys2Proof.Machine.execFmin g d a b f s
  | .fmax g d a b f => Sys2Proof.Machine.execFmax g d a b f s
  | .fabs g d a f => Sys2Proof.Machine.execFabs g d a f s
  | .fneg g d a f => Sys2Proof.Machine.execFneg g d a f s
  | .fcmp g pd c f a b => Sys2Proof.Machine.execFcmp g pd c f a b s
  | .fcvt g d a r tgt src => Sys2Proof.Machine.execFcvt g d a r tgt src s
  | .fclass g d a f => Sys2Proof.Machine.execFclass g d a f s
  | .bdot g d a b r => Sys2Proof.Machine.execBdot g d a b r s
  | .bdq g d a m => Sys2Proof.Machine.execBdq g d a m s
  | .bqnt g d a spread => Sys2Proof.Machine.execBqnt g d a spread s
  | .vargmax g d a b f => Sys2Proof.Machine.execVargmax g d a b f s
  | .vperm g d a b f => Sys2Proof.Machine.execVperm g d a b f s
  | .vsum g d a b m => Sys2Proof.Machine.execVsum g d a b m s
  | .ld g d b m nu off => Sys2Proof.Machine.execLd g d b m nu off s
  | .st g d b m nu off => Sys2Proof.Machine.execSt g d b m nu off s
  | .ldp g d b nu off => Sys2Proof.Machine.execLdp g d b nu off s
  | .stp g d b nu off => Sys2Proof.Machine.execStp g d b nu off s
  | .pref g b nu off => Sys2Proof.Machine.execPref g b nu off s
  | .smap g b d sc nu => Sys2Proof.Machine.execSmap g d b sc nu s
  | .swb g a b sc => Sys2Proof.Machine.execSwb g a b sc s
  | .sdrop g a b => Sys2Proof.Machine.execSdrop g a b s
  | .aadd g d b v off => Sys2Proof.Machine.execAadd g d b v off s
  | .aaddc g d b v off => Sys2Proof.Machine.execAaddc g d b v off s
  | .aand g d b v off => Sys2Proof.Machine.execAand g d b v off s
  | .aor g d b v off => Sys2Proof.Machine.execAor g d b v off s
  | .axor g d b v off => Sys2Proof.Machine.execAxor g d b v off s
  | .amin g d b v off => Sys2Proof.Machine.execAmin g d b v off s
  | .amax g d b v off => Sys2Proof.Machine.execAmax g d b v off s
  | .aswap g d b v off => Sys2Proof.Machine.execAswap g d b v off s
  | .acas g d b v off => Sys2Proof.Machine.execAcas g d b v off s
  | .lds g d b nu off => Sys2Proof.Machine.execLds g d b nu off s
  | .sts g d b nu off => Sys2Proof.Machine.execSts g d b nu off s
  | .ldf g d b nu off => Sys2Proof.Machine.execLdf g d b nu off s
  | .fec g b nu off => Sys2Proof.Machine.execFec g b nu off s
  | .fef g b nu off => Sys2Proof.Machine.execFef g b nu off s
  | .join g pd a => Sys2Proof.Machine.execJoin g pd a s
  | .spawn g pd a b => Sys2Proof.Machine.execSpawn g pd a b s
  | .post g a => Sys2Proof.Machine.execPost g a s
  | .hop g a => Sys2Proof.Machine.execHop g a s
  | .susp g => Sys2Proof.Machine.execSusp g s
  | .send g a b nm1 => Sys2Proof.Machine.execSend g a b nm1 s
  | .waitm g => Sys2Proof.Machine.execWaitm g s
  | .mbxpop g a => Sys2Proof.Machine.execMbxpop g a s
  | .alt g d mask fair => Sys2Proof.Machine.execAlt g d mask fair s
  | .chopen g n a b => Sys2Proof.Machine.execChopen g n a b s
  | .chgrant g n a => Sys2Proof.Machine.execChgrant g n a s
  | .chsend g n a => Sys2Proof.Machine.execChsend g n a s
  | .chrecv g d n => Sys2Proof.Machine.execChrecv g d n s
  | .chclose g n => Sys2Proof.Machine.execChclose g n s
  | .cpyq g blk ec pin nu => Sys2Proof.Machine.execCpyq g blk ec pin nu s
  | .cpyst g d a => Sys2Proof.Machine.execCpyst g d a s
  | .cpycan g a => Sys2Proof.Machine.execCpycan g a s
  | .waitc g a b => Sys2Proof.Machine.execWaitc g a b s
  | .landst g d b m nu off => Sys2Proof.Machine.execLandst g d b m nu off s
  | .landend g => Sys2Proof.Machine.execLandend g s
  | .mma g blk t => Sys2Proof.Machine.execMma g blk t s
  | .mmr g blk t => Sys2Proof.Machine.execMmr g blk t s
  | .mq g blk t => Sys2Proof.Machine.execMq g blk t s
  | .mcmd g blk t core => Sys2Proof.Machine.execMcmd g blk t core s
  | .mwait g hi => Sys2Proof.Machine.execMwait g hi s
  | .walk g d blk ec resume nu => Sys2Proof.Machine.execWalk g d blk ec resume nu s
  | .forest g d blk ec nu => Sys2Proof.Machine.execForest g d blk ec nu s
  | .gbfac g blk ec nu => Sys2Proof.Machine.execGbfac g blk ec nu s
  | .gbvar g blk ec nu => Sys2Proof.Machine.execGbvar g blk ec nu s
  | .gbpop g a => Sys2Proof.Machine.execGbpop g a s
  | .gbwr g blk ec nu => Sys2Proof.Machine.execGbwr g blk ec nu s
  | .dispatch core => Sys2Proof.Machine.execDispatch core s
  | .taskRecordArrival k => Sys2Proof.Machine.execTaskRecordArrival k s
  | .hopArrival k => Sys2Proof.Machine.execHopArrival k s
  | .arrivalRefill core => Sys2Proof.Machine.execArrivalRefill core s
  | .messageArrival k => Sys2Proof.Machine.execMessageArrival k s
  | .refusalResend w => Sys2Proof.Machine.execRefusalResend w s
  | .portWordArrival k => Sys2Proof.Machine.execPortWordArrival k s
  | .channelWordArrival k => Sys2Proof.Machine.execChannelWordArrival k s
  | .channelGrantArrival k => Sys2Proof.Machine.execChannelGrantArrival k s
  | .rakeSample core => Sys2Proof.Machine.execRakeSample core s
  | .userHandlerEntry core => Sys2Proof.Machine.execUserHandlerEntry core s
  | .memoryReply core slot => Sys2Proof.Machine.execMemoryReply core slot s
  | .homeAccess k => Sys2Proof.Machine.execHomeAccess k s
  | .sliceFill pa => Sys2Proof.Machine.execSliceFill pa s
  | .syncAtHome k => Sys2Proof.Machine.execSyncAtHome k s
  | .atomicAtHome k => Sys2Proof.Machine.execAtomicAtHome k s
  | .joinAtHome k => Sys2Proof.Machine.execJoinAtHome k s
  | .parkRetry core idx => Sys2Proof.Machine.execParkRetry core idx s
  | .chunkCommit core slot => Sys2Proof.Machine.execChunkCommit core slot s
  | .stashRecall pa write => Sys2Proof.Machine.execStashRecall pa write s
  | .directoryOverflowHandler core => Sys2Proof.Machine.execDirectoryOverflowHandler core s
  | .sliceTick core => Sys2Proof.Machine.execSliceTick core s
  | .credenceNotice k => Sys2Proof.Machine.execCredenceNotice k s
  | .engineOwnershipGrant cmd => Sys2Proof.Machine.execEngineOwnershipGrant cmd s
  | .barrowAccept core => Sys2Proof.Machine.execBarrowAccept core s
  | .copyLineRead core => Sys2Proof.Machine.execCopyLineRead core s
  | .landingPacket core => Sys2Proof.Machine.execLandingPacket core s
  | .copyCompletion core reg => Sys2Proof.Machine.execCopyCompletion core reg s
  | .revocationAck core node idx => Sys2Proof.Machine.execRevocationAck core node idx s
  | .tileStep core => Sys2Proof.Machine.execTileStep core s
  | .triggerRead core hi => Sys2Proof.Machine.execTriggerRead core hi s
  | .raggedRead core hi => Sys2Proof.Machine.execRaggedRead core hi s
  | .ringTileArrival k => Sys2Proof.Machine.execRingTileArrival k s
  | .mcmdArrival k => Sys2Proof.Machine.execMcmdArrival k s
  | .matrixCompletion core hi => Sys2Proof.Machine.execMatrixCompletion core hi s
  | .energyReplenish core => Sys2Proof.Machine.execEnergyReplenish core s
  | .walkStep core => Sys2Proof.Machine.execWalkStep core s
  | .walkRetire core => Sys2Proof.Machine.execWalkRetire core s
  | .forestRetire core => Sys2Proof.Machine.execForestRetire core s
  | .gaussCommandDone core => Sys2Proof.Machine.execGaussCommandDone core s
  | .gaussDelivery core => Sys2Proof.Machine.execGaussDelivery core s
  | .translationWalk core vdev ga => Sys2Proof.Machine.execTranslationWalk core vdev ga s
  | .migrationRetry k => Sys2Proof.Machine.execMigrationRetry k s
  | .mapRequest core ctx => Sys2Proof.Machine.execMapRequest core ctx s
  | .unmapRequest core ctx => Sys2Proof.Machine.execUnmapRequest core ctx s
  | .handleCreate core ctx => Sys2Proof.Machine.execHandleCreate core ctx s
  | .handleRevoke core ctx => Sys2Proof.Machine.execHandleRevoke core ctx s
  | .handleFree core ctx => Sys2Proof.Machine.execHandleFree core ctx s
  | .pageMigration vdev ga frame => Sys2Proof.Machine.execPageMigration vdev ga frame s
  | .debugBreakpoint core slot => Sys2Proof.Machine.execDebugBreakpoint core slot s
  | .launchRecord qp bytes => Sys2Proof.Machine.execLaunchRecord qp bytes s
  | .launchStart node => Sys2Proof.Machine.execLaunchStart node s
  | .launchCompletion launch => Sys2Proof.Machine.execLaunchCompletion launch s
  | .completionCoalesceExpiry qp => Sys2Proof.Machine.execCompletionCoalesceExpiry qp s
  | .ueSend qp bytes => Sys2Proof.Machine.execUeSend qp bytes s
  | .ueWrite qp ga bytes => Sys2Proof.Machine.execUeWrite qp ga bytes s
  | .ueRead qp ga n => Sys2Proof.Machine.execUeRead qp ga n s
  | .ueFetchAdd qp ga v => Sys2Proof.Machine.execUeFetchAdd qp ga v s
  | .ueSwap qp ga v => Sys2Proof.Machine.execUeSwap qp ga v s
  | .ueCompareSwap qp ga expect v => Sys2Proof.Machine.execUeCompareSwap qp ga expect v s
  | .queuePairCreate vdev port kind => Sys2Proof.Machine.execQueuePairCreate vdev port kind s
  | .partitionAllot node owners => Sys2Proof.Machine.execPartitionAllot node owners s
  | .partitionSplit node => Sys2Proof.Machine.execPartitionSplit node s
  | .partitionMerge node => Sys2Proof.Machine.execPartitionMerge node s
  | .partitionFree node => Sys2Proof.Machine.execPartitionFree node s
  | .partitionShrink node keepFirst => Sys2Proof.Machine.execPartitionShrink node keepFirst s
  | .threadEviction core slot => Sys2Proof.Machine.execThreadEviction core slot s
  | .evictedReentry k => Sys2Proof.Machine.execEvictedReentry k s
  | .rotationHandover core slots vdev => Sys2Proof.Machine.execRotationHandover core slots vdev s
  | .lendSlots core lender borrower slots => Sys2Proof.Machine.execLendSlots core lender borrower slots s
  | .lendRecall core lender => Sys2Proof.Machine.execLendRecall core lender s
  | .accountingWindow => Sys2Proof.Machine.execAccountingWindow s
  | .usageSnapshot node vdev => Sys2Proof.Machine.execUsageSnapshot node vdev s
  | .ownerConfiguration node cfg => Sys2Proof.Machine.execOwnerConfiguration node cfg s
  | .erateWrite core vdev grant => Sys2Proof.Machine.execErateWrite core vdev grant s
  | .managementRegisterWrite w => Sys2Proof.Machine.execManagementRegisterWrite w s
  | .measureRequest node ga n => Sys2Proof.Machine.execMeasureRequest node ga n s
  | .attestationReport node nonce => Sys2Proof.Machine.execAttestationReport node nonce s
  | .bootStage image signed => Sys2Proof.Machine.execBootStage image signed s
  | .stbyOk => Sys2Proof.Machine.execStbyOk s
  | .coreOk => Sys2Proof.Machine.execCoreOk s
  | .memOk => Sys2Proof.Machine.execMemOk s
  | .powerOkTimeout => Sys2Proof.Machine.execPowerOkTimeout s
  | .powerDown => Sys2Proof.Machine.execPowerDown s
  | .thermalSample stack celsius => Sys2Proof.Machine.execThermalSample stack celsius s
  | .throttleRelease => Sys2Proof.Machine.execThrottleRelease s
  | .selfTest core result => Sys2Proof.Machine.execSelfTest core result s
  | .boundaryLinkFailure boundary cacheLayer => Sys2Proof.Machine.execBoundaryLinkFailure boundary cacheLayer s
  | .fullServiceSwitch => Sys2Proof.Machine.execFullServiceSwitch s
  | .patrolScrub core => Sys2Proof.Machine.execPatrolScrub core s
  | .launchAbort launch => Sys2Proof.Machine.execLaunchAbort launch s
  | .virtualDeviceCreate vdev root => Sys2Proof.Machine.execVirtualDeviceCreate vdev root s
  | .virtualDeviceDestroy vdev => Sys2Proof.Machine.execVirtualDeviceDestroy vdev s
  | .earlyServiceStart => Sys2Proof.Machine.execEarlyServiceStart s

end Sys2Proof.Machine
end

