-- ==== Sys2Proof/Machine/Turns.lean ====
section
/-! DEFINITION. Turns: what a slot does at its turn (R53, R56, R103, R104, R156, R225), which of the part's own steps may come
about (notes/assumptions/1.md), and what a new cycle brings. -/

namespace Sys2Proof.Machine

/-! ## Issue -/

/-- The instructions that carry an energy class (R116). -/
def hasEnergy : Instr → Bool
  | .mma .. | .mmr .. | .mq .. | .mcmd .. | .walk .. | .forest .. | .gbfac .. | .gbvar .. | .gbwr .. | .cpyq .. => true
  | _ => false

/-- A thread takes part in its slot's turns (R64, R158, R202): its dispatch is over, and neither its core nor its slot is
halted. -/
def State.takesTurns (s : State) (c i : Nat) (t : Thread) : Bool :=
  i = 63 || (t.starts ≤ s.now && !(s.core c).halted && !(s.core c).stopped.contains i)

/-- An instruction that has issued and waits tries again at its thread's turns (R53). -/
def Status.again : Status → Bool
  | .poll w => w.issued
  | _ => false

/-- A thread may issue at its turn (R47, R53, R82, R146, R158). -/
def State.mayIssue (s : State) (c i : Nat) (t : Thread) : Bool :=
  (match t.status with
    | .ready | .poll _ => true
    | _ => false) &&
  t.owed = 0 && (t.issued.isNone || t.status.again) && !t.chunk.closing && t.saved.isNone && (t.handler || t.pending.isEmpty) && s.takesTurns c i t

/-- The trap of an encoding (R104, R117, R118, R202). -/
def encTrap (pc : Pc) : LineAt → Option Trap
  | .trap .illegalOp h => some ⟨1, toW h, 0, 0⟩
  | .trap (.illegalOperand n) _ => some ⟨2, n.setWidth 64, 0, 0⟩
  | .overrun => some ⟨4, toW (bitsOf pc.toNat 5 1), 0, 0⟩
  | .noHead v => some ⟨1, toW v, 0, 0⟩
  | .ins _ | .lineEnd => none

/-- What a thread does at a turn at which it may issue. -/
inductive Act1 where
  /-- The instruction at its PC, in a state whose fetch buffer holds its line. -/
  | run (i : Instr) (s : State)
  /-- Its slot stops at a breakpoint (R202). -/
  | stop (s : State)
  /-- A change of its state that is no step of the table: a fetch that waits, an encoding trap, a stall. -/
  | other (s : State)
  deriving DecidableEq, Repr

/-- The next step of a thread that may issue (R53, R103, R104, R116, R156). A line that its fetch buffer lacks is read at
its home, and a line-end head leads to the next line, within the turn (notes/assumptions/15.md); `fuel` bounds the lines
that one turn passes. -/
def State.issue (s : State) (c i : Nat) : Nat → Act1
  | 0 => .other s
  | fuel + 1 =>
    match s.thread? c i with
    | none => .other s
    | some t =>
      if s.atBreak c i then .stop s
      else match t.image? (t.pc.toNat / 64) with
        | none =>
          match attempt (fetchHome c t.ctx t.vdev t.pc) s with
          | .ok (img, s) =>
            (s.modThread c i (fun t => { t with fetch := fetchPut t.fetch (t.pc.toNat / 64) img })).issue c i fuel
          | .error (.trap tr logs) => .other (s.takeTrap c i tr logs)
          | .error _ => .other s
        | some img =>
          match lineAt img (bitsOf t.pc.toNat 5 1) with
          | .ins x => if hasEnergy x && (s.ctx c t.ctx).ebud ≤ 0 then .other s else .run x s
          | .lineEnd =>
            (s.modThread c i (fun t => { t with pc := BitVec.ofNat 55 ((t.pc.toNat / 64 + 1) * 64) })).issue c i fuel
          | l => match encTrap t.pc l with
            | some tr => .other (s.takeTrap c i tr [])
            | none => .other s

/-- Steps of `State.issue` in one turn: a turn passes at most 32 lines. -/
def issueFuel : Nat := 64

/-- A turn that a thread forfeits (R47, R53, R373). -/
def State.forfeit (s : State) (c i : Nat) : State :=
  s.modThread c i (fun t =>
    if t.owed > 0 then { t with owed := t.owed - 1 }
    else match t.status with
      | .turns n => { t with status := if n ≤ 1 then .ready else .turns (n - 1) }
      | _ => t)

/-- The key of the thread that issues in the turns of a slot (R263). -/
def State.threadAt (s : State) (c slot : Nat) : Option Nat :=
  ((s.core c).slots.find? slot).elim
    ((List.find? (fun p => p.1 % 64 = slot && p.1 ≠ slot && s.active c p.1) (s.core c).slots).map Prod.fst)
    (fun _ => if s.active c slot then some slot
      else (List.find? (fun p => p.1 % 64 = slot && p.1 ≠ slot && s.active c p.1) (s.core c).slots).map Prod.fst)

/-- A turn of a slot is charged to the owner and the launch of the thread that holds it (R268, R274, R275). -/
def State.charge (s : State) (c : Nat) (t : Thread) : State :=
  let s := s.modOwner c t.vdev (fun o => { o with turns := o.turns + 1, used := o.used + 1 })
  { s with launches := s.launches.mod t.launch (fun l => { l with turns := l.turns + 1 }) }

/-- The thread holds the turn: its instruction is about to execute (R103, R264). -/
def State.begin (s : State) (c i : Nat) : State :=
  match s.thread? c i with
  | some t => (s.modCtx c t.ctx (fun x => { x with issued := s.now })).atTurn c i t
  | none => s

/-- A load's word goes to its port, once the chunk that the load ends has committed and the neighbour's FIFO has room (R107,
R145, R337). -/
def State.portTurn (s : State) (c i : Nat) (t : Thread) (d : Dir) (w : Word) : State :=
  match neighbour c d with
  | some n =>
    if t.chunk.closing || (s.portAccept n (oppDir d) t.vdev 0).isNone then s
    else
      let h := { t with status := .engine, chunk := { t.chunk with closing := true } }
      ((s.setThread c i h).send (.port n (oppDir d) t.vdev w) c t.id true).retire (s.turnOf c i t t.following)
  | none => s

/-- What a thread that cannot issue does with its turn (R53, R173, R204, R215, R337): an upcall that waits for its save area is
made again, a copy, a matrix command or a port's word that waits for its place takes it; else the turn is forfeited. -/
def State.idleTurn (s : State) (c i : Nat) (t : Thread) : State :=
  if !s.takesTurns c i t then s
  else match t.raised, t.status with
    | some tr, _ => s.upcall c i tr
    | none, .copy y => s.placeCopy c i y
    | none, .matrix hi m => s.placeCmd c i hi m
    | none, .port d w => s.portTurn c i t d w
    | none, _ => s.forfeit c i

/-- The step of a thread at its turn: an instruction with the state it executes in, or a state. One whose handler's store has been
refused ends at the boundary (R204, R208). -/
def State.threadTurn (s : State) (c i : Nat) : Instr × State ⊕ State :=
  match s.thread? c i with
  | none => .inr s
  | some t =>
    let s := if i = 63 then s else s.charge c t
    if t.doomed.isSome && t.settled && s.takesTurns c i t then .inr (s.endThread c i t.doomed)
    else if s.mayIssue c i t && t.raised.isNone then
      match s.issue c i issueFuel with
      | .run x s => .inl (x, s.begin c i)
      | .stop s => .inl (.debugBreakpoint (BitVec.ofNat 20 c) i, s)
      | .other s => .inr s
    else .inr (s.idleTurn c i t)

/-- The riddle's work (R56): a landing handler that runs goes on; else the overflow handler, a refill or spill of the arrival
queue, the next landing packet. -/
def State.riddleTurn (s : State) (c : Nat) : Instr × State ⊕ State :=
  let core : CoreId := BitVec.ofNat 20 c
  if (s.core c).landRun.isSome then s.threadTurn c 63
  else if !(s.core c).overflowWork.isEmpty then .inl (.directoryOverflowHandler core, s)
  else if (s.refill c).isSome then .inl (.arrivalRefill core, s)
  else if !(s.core c).landing.isEmpty then .inl (.landingPacket core, s)
  else .inr s

/-- The barrow's turn (R55, R174): it accepts a request. -/
def State.barrowTurn (s : State) (c : Nat) : State :=
  { s with agenda := s.agenda ++ (if (s.core c).barrow.isEmpty then [] else [.barrowAccept (BitVec.ofNat 20 c)]) }

/-- The turn of a core: that of the slot which its CYC names (R24, R25). A slot that a hand-over passes on is the outgoing
thread's for this turn (R263). -/
def State.coreTurn (s : State) (c : Nat) : Instr × State ⊕ State :=
  match s.cyc c % 64 with
  | 62 => .inr (s.barrowTurn c)
  | 63 => s.riddleTurn c
  | slot => match s.threadAt c slot with
    | some i => match s.threadTurn c i with
      | .inl (x, s) => .inl (x, s.passSlot c slot)
      | .inr s => .inr (s.passSlot c slot)
    | none => .inr (s.passSlot c slot)

/-- An instruction that has issued and waited goes on, without a turn of its own, once its chunk's other instructions have
committed (R145), or the work of the message-update unit that it waits for is finished (R249). -/
def State.resumeAt (s : State) (c i : Nat) (t : Thread) : Option (Instr × State) :=
  match t.issued with
  | none => none
  | some u =>
    let due := match u.work with
      | some n => (s.core c).gaussPast s.now n
      | none => true
    if t.chunk.closing || t.status != .ready || !due then none
    else match (t.image? (t.pc.toNat / 64)).map (fun img => lineAt img (bitsOf t.pc.toNat 5 1)) with
      | some (.ins x) => some (x, s.begin c i)
      | _ => none

/-- The first instruction of the module that may go on. -/
def State.resume (s : State) : Option (Instr × State) :=
  s.cores.findSome? (fun (p : Nat × Core) => p.2.slots.findSome? (fun q => s.resumeAt p.1 q.1 q.2))

/-! ## The part's own steps -/

/-- What a step of the part's own units makes of the state; none where it cannot come about now. -/
def State.tryEvent (s : State) : Instr → Option State
  | .taskRecordArrival k => s.recordArrives k
  | .hopArrival k => s.hopArrives k
  | .messageArrival k => s.messageArrives k
  | .portWordArrival k => s.portArrives k
  | .channelWordArrival k => s.channelArrives k
  | .channelGrantArrival k => s.grantArrives k
  | .ringTileArrival k => s.tileArrives k
  | .mcmdArrival k => s.mcmdArrives k
  | .credenceNotice k => s.noticeArrives k
  | .gaussDelivery c => s.gaussDelivery c.toNat
  | .userHandlerEntry c => s.handlerEntry c.toNat
  | .chunkCommit c i => s.commit c.toNat i
  | .memoryReply c i => s.replyIn c.toNat i
  | .homeAccess k => s.homeAccess k
  | .syncAtHome k => s.serveHome (k / 1024) (k % 1024) MemOp.isSync
  | .atomicAtHome k => s.serveHome (k / 1024) (k % 1024) MemOp.isAtomic
  | .joinAtHome k => s.serveHome (k / 1024) (k % 1024) MemOp.isJoin
  | .dispatch c => s.dispatch c.toNat
  | .landingPacket c => s.landPacket c.toNat
  | .copyCompletion c r => s.copyDone c.toNat r
  | .engineOwnershipGrant n => s.grantCmd n
  | .triggerRead c hi => s.triggerRead c.toNat hi
  | .raggedRead c hi => s.raggedRead c.toNat hi
  | .tileStep c => s.tileStep c.toNat
  | .matrixCompletion c hi => s.matrixDone c.toNat hi
  | .walkStep c => s.walkStep c.toNat
  | .walkRetire c => s.walkRetire c.toNat
  | .forestRetire c => s.forestRetire c.toNat
  | .gaussCommandDone c => s.gaussDone c.toNat
  | .parkRetry c i => s.parkRetry c.toNat i
  | .refusalResend w => s.resendNow w
  | .evictedReentry k => s.reenter k
  | .revocationAck c n i => s.revokeAck c.toNat n i
  | .launchStart n => s.launchStart n
  | .launchCompletion l => s.launchDone l
  | .mapRequest c x => s.mapRequest c.toNat x
  | .unmapRequest c x => s.unmapRequest c.toNat x
  | .handleCreate c x => s.handleCreate c.toNat x
  | .handleRevoke c x => s.handleChange c.toNat x false
  | .handleFree c x => s.handleChange c.toNat x true
  | .completionCoalesceExpiry q => s.expire q
  | .throttleRelease => s.release
  | _ => none

/-- The step that a packet's arrival is. -/
def arrivalOf (k : Nat) (f : Flight) : Instr :=
  match f.pkt with
  | .context .. => .hopArrival k
  | .task .. => .taskRecordArrival k
  | .message .. | .mail .. => .messageArrival k
  | .port .. => .portWordArrival k
  | .channel .. => .channelWordArrival k
  | .grant .. => .channelGrantArrival k
  | .credence .. => .credenceNotice k
  | .gauss d => .gaussDelivery (BitVec.ofNat 20 d.target)
  | .tile .. => .ringTileArrival k
  | .mcmd .. => .mcmdArrival k

/-- Steps that a thread's state may ask for. -/
def threadEvents (c i : Nat) (t : Thread) : List Instr :=
  (if t.chunk.closing then [.chunkCommit (BitVec.ofNat 20 c) i] else []) ++
  match t.status with
  | .reply _ _ => [.memoryReply (BitVec.ofNat 20 c) i]
  | .home op => [match op with
      | .load .. | .pair .. => .homeAccess (threadNo c i)
      | .sync .. => .syncAtHome (threadNo c i)
      | .atomic .. => .atomicAtHome (threadNo c i)
      | .join .. => .joinAtHome (threadNo c i)]
  | .refused _ _ => [.refusalResend (.sync (BitVec.ofNat 20 c) i)]
  | _ => []

/-- The commands of a core's matrix queues. -/
def Core.cmds (k : Core) : List MCmd :=
  k.hi.active.toList ++ k.hi.shadow.toList ++ k.lo.active.toList ++ k.lo.shadow.toList

/-- The oldest landing packet is written directly, or does not land: the riddle is not needed for it (R176). -/
def State.landsDirectly (s : State) (c : Nat) : Bool :=
  match (s.core c).landing with
  | [] => false
  | p :: _ => match s.copyOf p with
    | some y => y.land = 0
    | none => true

/-- Steps that a core's units and contexts may ask for. Of a matrix unit's: a step that ends, completions with the shadow sets
that follow them, the counters' reads, and then the unit's choice (R215, R216). -/
def State.coreEvents (s : State) (c : Nat) (k : Core) : List Instr :=
  let id : CoreId := BitVec.ofNat 20 c
  List.flatten [
    k.slots.flatMap (fun p => threadEvents c p.1 p.2),
    if k.wanting.isEmpty then [] else [.userHandlerEntry id],
    if k.prefs.isEmpty then [] else [.homeAccess (threadNo c prefSlot)],
    [.dispatch id],
    if s.landsDirectly c then [.landingPacket id] else [],
    (Tbl.keys k.barrow).map (.copyCompletion id),
    k.cmds.map (fun m => .engineOwnershipGrant m.id),
    if k.cmds.any MCmd.run then [.tileStep id] else [],
    if k.cmds.isEmpty then []
    else [.matrixCompletion id true, .matrixCompletion id false, .triggerRead id true, .triggerRead id false,
      .raggedRead id true, .raggedRead id false, .tileStep id],
    if k.trellis.isNone then [] else [.walkStep id, .walkRetire id, .forestRetire id],
    if k.gauss.isEmpty then [] else [.gaussCommandDone id, .gaussDelivery id],
    (Tbl.keys k.park).map (.parkRetry id),
    (Tbl.keys k.ctxs).flatMap (fun x =>
      [.mapRequest id x, .unmapRequest id x, .handleCreate id x, .handleRevoke id x, .handleFree id x])]

/-- Steps that the mesh, the partitions, the launches and the queue pairs may ask for. -/
def State.moduleEvents (s : State) : List Instr :=
  List.flatten [
    ((List.range s.wire.length).zip s.wire).map (fun p =>
      if p.2.resend.isSome then .refusalResend (.wire p.1) else arrivalOf p.1 p.2),
    (List.range s.evicted.length).map .evictedReentry,
    s.nodes.flatMap (fun (p : Nat × Node) => if p.2.st == .part then [.launchStart p.1] else []),
    s.nodes.flatMap (fun (p : Nat × Node) => p.2.revokes.flatMap (fun r => match r.waiting with
      | [] => [.revocationAck 0 p.1 r.idx]
      | ws => ws.map (fun c => .revocationAck (BitVec.ofNat 20 c) p.1 r.idx))),
    (Tbl.keys s.launches).map .launchCompletion,
    (s.qps.filter (fun (p : Nat × QueuePair) => !p.2.held.isEmpty)).map (fun p => .completionCoalesceExpiry p.1),
    [.throttleRelease]]

/-- Where a waiting operation's port stands in its home's order (R127): N, E, S, W and the own core, from the round-robin
pointer on. -/
def State.portRank (s : State) (c : Nat) (t : Thread) (op : MemOp) : Nat :=
  match s.translate c t.vdev (ptrAddr op.ptr) with
  | .ok l =>
    let h := homeOf (l.phys (ptrAddr op.ptr))
    (portInto h c + 5 - (s.core h).pointer s.now) % 5
  | _ => 0

/-- The requests that wait at homes, in the order of the ports that they came in by, those of one port in the order of their
arrival (R127). -/
def State.homeEvents (s : State) : List Instr :=
  let all := s.cores.flatMap (fun (p : Nat × Core) => p.2.slots.flatMap (fun q => match q.2.status with
    | .home op => (threadEvents p.1 q.1 q.2).map (fun i => (s.portRank p.1 q.2 op, q.2.asked, i))
    | _ => []))
  (List.range 5).flatMap (fun r =>
    ((all.filter (fun p => p.1 == r)).mergeSort (fun a b => a.2.1 ≤ b.2.1)).map (fun p => p.2.2))

/-- The next of the part's own steps that can come about (notes/assumptions/1.md, 52.md). -/
def State.nextEvent (s : State) : Option Instr :=
  (s.moduleEvents ++ s.homeEvents ++ s.cores.flatMap (fun (p : Nat × Core) => s.coreEvents p.1 p.2)).find?
    (fun i => (s.tryEvent i).isSome)

/-! ## Steps from outside -/

/-- A request to the ridge controller, which takes it only where it is signed (R276). A boot stage is verified by the stage before
it (R278), and an owner's configuration carries its own signature too (R270). -/
def ofController : Instr → Bool
  | .partitionAllot .. | .partitionSplit .. | .partitionMerge .. | .partitionFree .. | .partitionShrink .. | .threadEviction ..
  | .rotationHandover .. | .lendSlots .. | .lendRecall .. | .usageSnapshot .. | .ownerConfiguration .. | .erateWrite ..
  | .managementRegisterWrite .. | .measureRequest .. | .attestationReport .. | .pageMigration .. | .launchAbort ..
  | .virtualDeviceCreate .. | .virtualDeviceDestroy .. | .queuePairCreate .. | .selfTest .. => true
  | _ => false

/-- A step that comes from the host, the board or the part's own faults; and a walk, a fill or a recall, which the model's units
otherwise make as part of an access (notes/assumptions/1.md). -/
def fromOutside (i : Instr) : Bool :=
  ofController i || match i with
    | .launchRecord .. | .ueSend .. | .ueWrite .. | .ueRead .. | .ueFetchAdd .. | .ueSwap .. | .ueCompareSwap .. | .bootStage ..
    | .stbyOk | .coreOk | .memOk | .powerOkTimeout | .powerDown | .thermalSample .. | .boundaryLinkFailure ..
    | .earlyServiceStart | .fullServiceSwitch | .translationWalk .. | .sliceFill .. | .stashRecall .. => true
    | _ => false

/-! ## Cycles -/

/-- The steps that a core's clock brings in a cycle (R80, R139, R174, R225, R282): the copy datapath moves up to 64 bytes
in every cycle. -/
def State.clockEvents (s : State) (c : Nat) : List Instr :=
  let n := s.cyc c
  let id : CoreId := BitVec.ofNat 20 c
  List.flatten [
    if (s.core c).barrow.any (fun (p : Nat × Copy) => p.2.st == .reading) then [.copyLineRead id] else [],
    if n % 64 = 0 then [.sliceTick id] else [],
    if n % 1024 = 0 then [.energyReplenish id] else [],
    if n % 4096 = 0 then [.rakeSample id] else [],
    if n % Config.patrolCycles = 0 then [.patrolScrub id] else []]

/-- Requests whose walk met a migration entry are tried again every 256 cycles (R198). -/
def State.retries (s : State) : List Instr :=
  s.cores.flatMap (fun (p : Nat × Core) => p.2.slots.filterMap (fun q => match q.2.status with
    | .home _ => some (.migrationRetry (threadNo p.1 q.1))
    | _ => none))

/-- The cores at their state at reset whose DRAM the patrol scrubber finds an error in: their counters run too (R282). -/
def State.patrolled (s : State) : List Nat :=
  (dedup (s.soft.map (fun (p : Nat × Bool) => homeOf (8 * p.1)))).filter (fun c =>
    (s.cores.find? c).isNone && s.cyc c % Config.patrolCycles = 0)

/-- The next cycle begins: every core takes a turn in it, and the steps that clocks bring are due. -/
def State.nextCycle (s : State) : State :=
  let s := { s with now := s.now + 1 }.train
  let cs := Tbl.keys s.cores
  let due := s.now % 64 = 0
  { s with
    turns := cs
    agenda := List.flatten [
      cs.flatMap s.clockEvents,
      s.patrolled.map (fun c => .patrolScrub (BitVec.ofNat 20 c)),
      if s.now % Config.accountingCycles = 0 then [.accountingWindow] else [],
      if s.now % 256 = 0 then s.retries else [],
      if due then s.ridge.underway else []]
    ridge := if due then { s.ridge with underway := [] } else s.ridge }

/-- The module serves (R286). -/
def State.serving (s : State) : Bool := s.ridge.service = 1 || s.ridge.service = 2

end Sys2Proof.Machine
end

