-- ==== Sys2Proof/Machine/Step.lean ====
section
/-! DEFINITION. One step of the module, and how the host places an instruction. -/

namespace Sys2Proof.Machine

/-- One step: what a clock made due; else what has arrived from outside; else the turn of the next core of this cycle; else
what the part's own units can do, an instruction that has waited for its chunk's commit first; else the next cycle begins
(notes/assumptions/1.md). -/
def step (s : State) : Host.Outcome State Fault Refusal :=
  match s.agenda, s.inputs, s.turns with
  | i :: rest, _, _ => exec i { s with agenda := rest }
  | [], r :: rest, _ =>
    if ofController r.step && !r.signed then .next (({ s with inputs := rest } : State).refuse "unsigned")
    else if fromOutside r.step then exec r.step { s with inputs := rest }
    else .next { s with inputs := rest }
  | [], [], c :: rest =>
    if s.serving then
      match ({ s with turns := rest } : State).coreTurn c with
      | .inl (i, s) => exec i s
      | .inr s => .next s
    else .next { s with turns := rest }
  | [], [], [] =>
    if s.serving then
      match s.resume with
      | some (i, s) => exec i s
      | none => match s.nextEvent with
        | some i => exec i s
        | none => .next s.nextCycle
    else .next s.nextCycle

/-- The thread that `withFetchWord` places: a window of 128 registers, its PC at a line that its fetch buffer holds. -/
def placedThread (id : Nat) (img : List Byte) : Thread :=
  let t := { Thread.blank with id := id, base := 0, size := 128, fetch := [⟨0, img⟩] }
  { t with chunk := Chunk.fresh t (List.replicate 128 0) }

/-- `s` with the instruction of `nbits` bits `w` placed for its very next step (notes/assumptions/2.md): full service; core
0 takes its turn now, at slot 0, where a thread of a context of device 0 stands with the instruction's line in its fetch
buffer and energy to issue it (R225). -/
def State.withFetchWord (s : State) (nbits w : Nat) : State :=
  let w := w % 2 ^ nbits
  let img := lineOf (w % 65536) (leBytes ((tailBytes (bitsOf w 6 4)).getD 0) (w / 65536))
  let k := s.core 0
  { s with
    inputs := [], agenda := [], turns := [0], turn := none, ridge := { s.ridge with service := 2 }, nextId := s.nextId + 2
    cores := s.cores.put 0 { k with
      cycBase := s.now, slots := [(0, placedThread s.nextId img)], ctxs := [(0, { Context.fresh 0 16 with ebud := 1 })]
      tasks := [(0, Task.fresh (s.nextId + 1) 0 0)], halted := false, stopped := [], breaks := [], handing := [] } }

end Sys2Proof.Machine
end

