-- ==== Sys2Proof/Safety.lean ====
section
/-! DEFINITION. What counts as a safe run of the module, and the terms in which claims about one instruction are made. -/

namespace Sys2Proof

/-- A step that ends in a state: it neither faults nor is refused. -/
def Safety.completes (o : Host.Outcome Machine.State Machine.Fault Machine.Refusal) : Prop := ∃ s, o = .next s

/-- The states that a machine's steps lead to from one. -/
inductive Safety.Reaches : Machine.State → Machine.State → Prop where
  | refl (s : Machine.State) : Safety.Reaches s s
  | tail {s t u : Machine.State} : Safety.Reaches s t → Machine.step t = .next u → Safety.Reaches s u

/-- Every state that a run reaches takes a further step. -/
def Safety.NeverStops (s : Machine.State) : Prop := ∀ t, Safety.Reaches s t → Safety.completes (Machine.step t)

end Sys2Proof

namespace Sys2Proof.Machine

/-- The thread `h` of slot `t.slot` of core `t.core` holds the turn, and its instruction has read nothing yet: every turn begins
so (`State.turnOf`). -/
structure Running (s : State) (t : Turn) (h : Thread) : Prop where
  turn : s.turn = some t
  thread : s.thread? t.core t.slot = some h
  clean : t.poison = none

/-- The state in which the instruction of a running thread begins: the thread waits for nothing any more. -/
def State.readied (s : State) (t : Turn) (h : Thread) : State :=
  s.setThread t.core t.slot { h with status := .ready, issued := none }

/-- A value source that takes nothing from the core's queues and reads as `v` for the thread `h` of core `c`: a window
register without error, `zr`, or `h0`-`h7` inside a handler (R82, R105, R282, R283). -/
def State.reads (s : State) (c : Nat) (h : Thread) (r : Reg) (v : Word) : Prop :=
  match r with
  | .x n => n.toNat < h.size ∧ h.base + n.toNat ∉ (s.core c).regPoison ∧ h.base + n.toNat ∉ (s.core c).regSoft ∧
    v = s.reg c (h.base + n.toNat)
  | .zr => v = 0
  | .h n => h.handler = true ∧ v = (s.core c).shadow.h.getD n.toNat 0
  | .port _ | .mbx => False

/-- A value destination that sends nothing: a window register, `zr`, or `h0`-`h7` inside a handler (R82, R105). -/
def Thread.takes (h : Thread) (r : Reg) : Prop :=
  match r with
  | .x n => n.toNat < h.size
  | .zr => True
  | .h _ => h.handler = true
  | .port _ | .mbx => False

/-- The state with a value written to such a destination; `zr` discards it (R105). -/
def State.put (s : State) (c : Nat) (h : Thread) (r : Reg) (v : Word) : State :=
  match r with
  | .x n => s.setReg c (h.base + n.toNat) v
  | .h n => s.modCore c (fun k => { k with shadow := { k.shadow with h := k.shadow.h.set n.toNat v } })
  | .zr | .port _ | .mbx => s

/-- A thread whose instruction has raised flags and costs `n` further turns of the normaliser (R47, R291). -/
def Thread.flagged (h : Thread) (f : Flags) (n : Nat) : Thread :=
  { h with status := .ready, issued := none, owed := if n = 0 then h.owed else n, flags := h.flags ||| f }

/-- The state after an instruction that writes `v` to its destination and nothing else but flags: the flags are ORed in,
and the thread goes on at `t.next` (R103, R291). -/
def State.result (s : State) (t : Turn) (h : Thread) (d : Reg) (v : Word) (f : Flags) (n : Nat := 0) : State :=
  ((s.setThread t.core t.slot (h.flagged f n)).put t.core h d v).retire t

/-- The state after an instruction that writes a predicate and nothing else but flags (R58, R291). -/
def State.decided (s : State) (t : Turn) (h : Thread) (p : BitVec 4) (b : Bool) (f : Flags) (n : Nat := 0) : State :=
  (s.setThread t.core t.slot ((h.flagged f n).setPred p b)).retire t

/-- The state after an instruction that changes nothing but its thread (R103). -/
def State.stepped (s : State) (t : Turn) (h : Thread) : State := (s.readied t h).retire t

/-- The state in which an instruction that ends its chunk performs its effect: the chunk's pin counts and stores to
private entries have taken effect, and the chunk is over with this instruction (R145). -/
def State.ended (s : State) (t : Turn) : State :=
  (s.commitQuiet t.core t.slot).modThread t.core t.slot (fun h => { h with chunk := { h.chunk with closing := true } })

/-- The running thread goes on at `pc` instead of the next instruction (R104). -/
def State.jump (s : State) (t : Turn) (pc : Pc) : State :=
  State.retire { s with turn := some { t with next := pc } } { t with next := pc }

/-- The invariant that every step keeps: memory has its canonical form, and every core's table of threads is in key
order. -/
def State.wf (s : State) : Prop := memWf s.mem = true ∧ ∀ p ∈ s.cores, p.2.slots.wf = true

/-- A field of an instruction that a thread has, and that waits for nothing (R106): a register of its window, a group or
a number within its bounds, `zr` or a handler's `h0`-`h7` where the kind accepts it. -/
def Thread.field (h : Thread) (f : Fld) : Prop :=
  match f with
  | .src r | .dst r | .late r | .base r | .noPort r => h.takes r
  | .group r n => ∃ k, r = .x k ∧ k.toNat + n ≤ h.size
  | .win r => ∃ k, r = .x k ∧ k.toNat < h.size
  | .num v b => v < b

end Sys2Proof.Machine
end

