-- ==== Sys2Proof/Certificates/Slice0/Obligations.lean ====
section
/-! DEFINITION. The statements about the model, by chapter of the spec, in the terms of Safety.lean. -/

open Sys2Proof Sys2Proof.Machine

/-! ## Encoding and fetch -/

/-- Every well-formed encoded instruction, alone in a line, is what the decoder finds at the line's first head
(R97-R118). -/
def Obligations.EncodedInstructionDecodes : Prop :=
  ∀ (i : Instr) (head : Nat) (tail : List Byte), i.wellFormed = true → encode i = some (head, tail) →
    head < 2 ^ 16 ∧ tail.length ≤ 16 ∧ lineAt (lineOf head tail) 0 = .ins i

/-- Words written out from the spec's encodings, one or more of each family, decode to the instructions that they stand
for (R98, R99, R104-R116). -/
def Obligations.SpecWordsDecode : Prop :=
  lineAt (lineOf 0x0080 []) 0 = .ins (.nop ⟨false, 0⟩) ∧
  lineAt (lineOf 0x2020 [1, 227, 227, 0]) 0 = .ins (.add ⟨false, 0⟩ (.x 1) (.port .w) (.port .w) false) ∧
  lineAt (lineOf 0x40C0 [0x16, 0x16, 0, 0, 0xFF, 0xFF, 0, 0]) 0 = .ins (.andi ⟨false, 0⟩ (.x 22) (.x 22) 0xFFFF) ∧
  lineAt (lineOf 0x2DA0 [2, 4, 5, 2]) 0 = .ins (.cmp ⟨false, 0⟩ 2 .lt (.x 4) (.x 5)) ∧
  lineAt (lineOf 0x2D20 [6, 4, 5, 2]) 0 = .ins (.sel ⟨false, 0⟩ (.x 6) 2 (.x 4) (.x 5)) ∧
  lineAt (lineOf 0x45C0 [9, 8, 0, 0, 6, 10, 0, 0]) 0 = .ins (.pfmt ⟨false, 0⟩ (.x 9) (.x 8) 6 10) ∧
  lineAt (lineOf 0x62B0 [4, 5, 6, 7, 0, 0]) 0 = .ins (.fma ⟨false, 0⟩ (.x 4) (.x 5) (.x 6) (.x 7) ⟨.ne, false, .fp32⟩) ∧
  lineAt (lineOf 0x6630 [4, 5, 0, 0, 2, 0x41]) 0 =
    .ins (.fcvt ⟨false, 0⟩ (.x 4) (.x 5) ⟨.ru, false⟩ .e4m3 .fp32) ∧
  lineAt (lineOf 0x69A0 [9, 5, 6, 0x30]) 0 = .ins (.vsum ⟨false, 0⟩ (.x 9) (.x 5) (.x 6) ⟨.ne, false, .fp16⟩) ∧
  lineAt (lineOf 0x2B20 [4, 4, 0, 8]) 0 = .ins (.neg ⟨false, 0⟩ (.x 4) (.x 4) true)

/-- A head whose guard field is 0b1000 is ILLEGAL_OP, and so is an opcode with a tail of a length with which no instruction
has that opcode: an opcode without a row, with any tail, and one whose format has another length; whatever does decode has the
opcode, the guard and the length of its encoding (R98, R110, R114, R117). -/
def Obligations.ReservedEncodingsRefused : Prop :=
  (∀ (h : Nat) (t : List Byte), h % 16 = 8 → decodeHead h t = .error .illegalOp) ∧
  (∀ (op : Nat) (g : Guard) (t : List Byte), 0x1CB ≤ op → decodeOp op g t = .error .illegalOp) ∧
  (∀ (op : Nat) (g : Guard) (t : List Byte),
    (∀ (i : Instr) (bs : List Byte), encodeParts i = some (op, bs) → bs.length ≠ t.length) →
    decodeOp op g t = .error .illegalOp) ∧
  (∀ (op : Nat) (g : Guard) (t : List Byte) (i : Instr), decodeOp op g t = .ok i →
    i.guard? = some g ∧ (encodeParts i).map (fun p => (p.1, p.2.length)) = some (op, t.length))

/-- A thread that may issue, and whose fetch buffer holds the line of its PC, runs exactly the instruction that the line
holds there: the step is `exec` of it in the state in which the slot's turn has been charged and the thread holds the
turn (R52, R53, R103, R116, R156); where a hand-over waits for the slot's turn, the slot passes on with it (R263). An
instruction that has issued and has waited for its chunk's commit, or for work of the message-update unit, goes on in a step of
its own, as `exec` of what its line holds, with what it found at its issue (R134, R145, R249).
Model's own readings that it rests on: notes/assumptions, 1, 15. -/
def Obligations.StepRunsDecodedInstruction : Prop :=
  (∀ (s : State) (c : Nat) (rest : List Nat) (slot i : Nat) (h : Thread) (img : List Byte) (x : Instr),
    s.inputs = [] → s.agenda = [] → s.turns = c :: rest → s.serving = true →
    s.cyc c % 64 = slot → slot < 62 → s.threadAt c slot = some i → i ≠ 63 → s.thread? c i = some h →
    s.mayIssue c i h = true → h.raised = none → h.doomed = none → s.atBreak c i = false →
    h.image? (h.pc.toNat / 64) = some img → lineAt img (bitsOf h.pc.toNat 5 1) = .ins x →
    (hasEnergy x = true → 0 < (s.ctx c h.ctx).ebud) →
    step s = exec x (((({ s with turns := rest } : State).charge c h).begin c i).passSlot c slot) ∧
    ∃ t, t.core = c ∧ t.slot = i ∧ Running ((({ s with turns := rest } : State).charge c h).begin c i) t h) ∧
  (∀ (s u : State) (x : Instr), s.inputs = [] → s.agenda = [] → s.turns = [] → s.serving = true →
    s.resume = some (x, u) →
    step s = exec x u ∧ ∃ t h a, Running u t h ∧ s.thread? t.core t.slot = some h ∧ h.issued = some a ∧ t.at_ = a ∧
      h.chunk.closing = false ∧
      ∃ img, h.image? (h.pc.toNat / 64) = some img ∧ lineAt img (bitsOf h.pc.toNat 5 1) = .ins x)

/-- What is placed for the next step is fetched and run by it: the step after `withFetchWord` is `exec` of the
instruction that the word decodes to, with the turn at core 0, slot 0 (the model's own placement:
notes/assumptions/2.md). -/
def Obligations.PlacedWordRuns : Prop :=
  ∀ (s : State) (nbits w : Nat) (i : Instr), decodeTableWord nbits w = some i →
    ∃ u t h, step (s.withFetchWord nbits w) = exec i u ∧ Running u t h ∧ t.core = 0 ∧ t.slot = 0 ∧ t.next = 64 ∧
      h.pc = 0 ∧ h.base = 0 ∧ h.size = 128 ∧ u.mem = s.mem

/-- A false guard of any encoded instruction only takes the turn: nothing is read, written, sent or raised, and the
thread goes on (R58). -/
def Obligations.FalseGuardOnlyTakesTheTurn : Prop :=
  ∀ (i : Instr) (g : Guard) (s : State) (t : Turn) (h : Thread),
    i.guard? = some g → Running s t h → h.guard g = false → exec i s = .next (s.stepped t h)

/-! ## Integer, predicate and pointer instructions -/

/-- A signed integer in 64 bits: modulo 2^64, or with `.sat` the nearest value of −2^63 … 2^63 − 1 and IS (R33). -/
def Spec.signedResult (sat : Bool) (i : Int) : Word × Flags :=
  if sat && decide (2 ^ 63 - 1 < i) then (BitVec.ofInt 64 (2 ^ 63 - 1), 0x20)
  else if sat && decide (i < -2 ^ 63) then (BitVec.ofInt 64 (-2 ^ 63), 0x20)
  else (BitVec.ofInt 64 i, 0)

/-- The value and the flags of the instructions `xd := f(xa, xb)`, in the words of R33, R297, R340, R345, R349, R356 and
R344. -/
def Spec.binary : Instr → Option (Guard × Reg × Reg × Reg × (Word → Word → Word × Flags))
  | .add g d a b sat => some (g, d, a, b, fun x y => Spec.signedResult sat (x.toInt + y.toInt))
  | .sub g d a b sat => some (g, d, a, b, fun x y => Spec.signedResult sat (x.toInt - y.toInt))
  | .mul g d a b sat => some (g, d, a, b, fun x y => Spec.signedResult sat (x.toInt * y.toInt))
  | .mulh g d a b => some (g, d, a, b, fun x y => (BitVec.ofInt 64 (x.toInt * y.toInt / 2 ^ 64), 0))
  | .mulhu g d a b => some (g, d, a, b, fun x y => (BitVec.ofNat 64 (x.toNat * y.toNat / 2 ^ 64), 0))
  | .div g d a b => some (g, d, a, b, fun x y => (if y = 0 then BitVec.allOnes 64 else x.sdiv y, 0))
  | .divu g d a b => some (g, d, a, b, fun x y => (if y = 0 then BitVec.allOnes 64 else x / y, 0))
  | .rem g d a b => some (g, d, a, b, fun x y => (if y = 0 then x else x.srem y, 0))
  | .remu g d a b => some (g, d, a, b, fun x y => (if y = 0 then x else x % y, 0))
  | .and g d a b => some (g, d, a, b, fun x y => (x &&& y, 0))
  | .or g d a b => some (g, d, a, b, fun x y => (x ||| y, 0))
  | .xor g d a b => some (g, d, a, b, fun x y => (x ^^^ y, 0))
  | .andn g d a b => some (g, d, a, b, fun x y => (x &&& ~~~y, 0))
  | .shl g d a b => some (g, d, a, b, fun x y => (BitVec.ofNat 64 (x.toNat * 2 ^ (y.toNat % 64)), 0))
  | .shr g d a b => some (g, d, a, b, fun x y => (BitVec.ofNat 64 (x.toNat / 2 ^ (y.toNat % 64)), 0))
  | .sar g d a b => some (g, d, a, b, fun x y => (BitVec.ofInt 64 (x.toInt / 2 ^ (y.toNat % 64)), 0))
  | .rol g d a b => some (g, d, a, b, fun x y =>
      (x <<< (y.toNat % 64) ||| x >>> (64 - y.toNat % 64), 0))
  | .ror g d a b => some (g, d, a, b, fun x y =>
      (x >>> (y.toNat % 64) ||| x <<< (64 - y.toNat % 64), 0))
  | .min g d a b => some (g, d, a, b, fun x y => (if x.toInt ≤ y.toInt then x else y, 0))
  | .max g d a b => some (g, d, a, b, fun x y => (if y.toInt ≤ x.toInt then x else y, 0))
  | .minu g d a b => some (g, d, a, b, fun x y => (if x.toNat ≤ y.toNat then x else y, 0))
  | .maxu g d a b => some (g, d, a, b, fun x y => (if y.toNat ≤ x.toNat then x else y, 0))
  | _ => none

/-- The value and the flags of the instructions `xd := f(xa)`, in the words of R295, R298, R344, R347, R350, R353 and
R357. -/
def Spec.unary : Instr → Option (Guard × Reg × Reg × (Word → Word × Flags))
  | .neg g d a sat => some (g, d, a, fun x => Spec.signedResult sat (0 - x.toInt))
  | .abs g d a sat => some (g, d, a, fun x => Spec.signedResult sat (max x.toInt (0 - x.toInt)))
  | .mov g d a => some (g, d, a, fun x => (x, 0))
  | .addi g d a imm sat => some (g, d, a, fun x => Spec.signedResult sat (x.toInt + imm.toInt))
  | .andi g d a imm => some (g, d, a, fun x => (x &&& imm.signExtend 64, 0))
  | .ori g d a imm => some (g, d, a, fun x => (x ||| imm.signExtend 64, 0))
  | .xori g d a imm => some (g, d, a, fun x => (x ^^^ imm.signExtend 64, 0))
  | .shli g d a n => some (g, d, a, fun x => (BitVec.ofNat 64 (x.toNat * 2 ^ n.toNat), 0))
  | .shri g d a n => some (g, d, a, fun x => (BitVec.ofNat 64 (x.toNat / 2 ^ n.toNat), 0))
  | .sari g d a n => some (g, d, a, fun x => (BitVec.ofInt 64 (x.toInt / 2 ^ n.toNat), 0))
  | .ptag g d a => some (g, d, a, fun x =>
      (BitVec.ofNat 64 (x.toNat / 2 ^ 59 + x.toNat / 2 ^ 55 % 2 ^ 4 * 2 ^ 8), 0))
  | _ => none

/-- The conditions of R309. -/
def Spec.holds (c : Cond) (x y : Word) : Bool :=
  match c with
  | .eq => x == y
  | .ne => x != y
  | .lt => x.slt y
  | .le => x.sle y
  | .gt => y.slt x
  | .ge => y.sle x
  | .ltu => x.ult y
  | .leu => x.ule y
  | .gtu => y.ult x
  | .geu => y.ule x

/-- The head of an instruction of `Spec.binary` without its guard, as its entry lists it, and its modifier byte where that
has a sat bit (R297, R340, R345, R349, R356). -/
def Spec.binaryHead : Instr → Nat × Option Byte
  | .add _ _ _ _ sat => (0x2020, some (if sat then 8 else 0))
  | .sub _ _ _ _ sat => (0x20A0, some (if sat then 8 else 0))
  | .mul _ _ _ _ sat => (0x2120, some (if sat then 8 else 0))
  | .mulh .. => (0x21A0, none)
  | .mulhu .. => (0x2220, none)
  | .div .. => (0x22A0, none)
  | .divu .. => (0x2320, none)
  | .rem .. => (0x23A0, none)
  | .remu .. => (0x2420, none)
  | .and .. => (0x24A0, none)
  | .or .. => (0x2520, none)
  | .xor .. => (0x25A0, none)
  | .andn .. => (0x2620, none)
  | .shl .. => (0x26A0, none)
  | .shr .. => (0x2720, none)
  | .sar .. => (0x27A0, none)
  | .rol .. => (0x2820, none)
  | .ror .. => (0x28A0, none)
  | .min .. => (0x2920, none)
  | .max .. => (0x29A0, none)
  | .minu .. => (0x2A20, none)
  | .maxu .. => (0x2AA0, none)
  | _ => (0, none)

/-- ADD, SUB, MUL, MULH, MULHU, DIV, DIVU, REM, REMU, AND, OR, XOR, ANDN, SHL, SHR, SAR, ROL, ROR, MIN, MAX, MINU and MAXU
have the heads of their entries and the four bytes d, a, b and m, where another m is ILLEGAL_OP; and they complete with
the value and the flags of their entries, for every register operand that sends and takes nothing (R297, R340, R345,
R349, R356). -/
def Obligations.BinaryIntegerResults : Prop :=
  ∀ (i : Instr) (g : Guard) (d a b : Reg) (f : Word → Word → Word × Flags), Spec.binary i = some (g, d, a, b, f) →
    (g.wf = true →
      let head := (Spec.binaryHead i).1 + (if g.neg then 8 else 0) + g.p.toNat
      let m := (Spec.binaryHead i).2
      decodeHead head [d.num, a.num, b.num, m.getD 0] = .ok i ∧
      ∀ n : Byte, n ≠ 0 → (n ≠ 8 ∨ m = none) → decodeHead head [d.num, a.num, b.num, n] = .error .illegalOp) ∧
    (∀ (s : State) (t : Turn) (h : Thread) (x y : Word), Running s t h → h.guard g = true →
      h.takes d → s.reads t.core h a x → s.reads t.core h b y →
      exec i s = .next (s.result t h d (f x y).1 (f x y).2))

/-- NEG, ABS, MOV, ADDI, ANDI, ORI, XORI, SHLI, SHRI, SARI and PTAG complete with the value and the flags of their entries
(R295, R298, R344, R347, R350, R353, R357); CLZ gives the number of zero bits above the highest 1 bit, 64 for 0, and POPC
the number of 1 bits (R295, R347). -/
def Obligations.UnaryIntegerResults : Prop :=
  (∀ (i : Instr) (g : Guard) (d a : Reg) (f : Word → Word × Flags) (s : State) (t : Turn) (h : Thread) (x : Word),
    Spec.unary i = some (g, d, a, f) → Running s t h → h.guard g = true → h.takes d → s.reads t.core h a x →
    exec i s = .next (s.result t h d (f x).1 (f x).2)) ∧
  (∀ (g : Guard) (d a : Reg) (s : State) (t : Turn) (h : Thread) (x : Word),
    Running s t h → h.guard g = true → h.takes d → s.reads t.core h a x →
    ∃ n : Nat, exec (.clz g d a) s = .next (s.result t h d (BitVec.ofNat 64 n) 0) ∧ n ≤ 64 ∧ x.toNat < 2 ^ (64 - n) ∧
      (n < 64 → 2 ^ (63 - n) ≤ x.toNat)) ∧
  (∀ (g : Guard) (d a : Reg) (s : State) (t : Turn) (h : Thread) (x : Word),
    Running s t h → h.guard g = true → h.takes d → s.reads t.core h a x →
    exec (.popc g d a) s =
      .next (s.result t h d (BitVec.ofNat 64 ((List.range 64).countP (fun k => x.toNat / 2 ^ k % 2 = 1))) 0))

/-- MOVI, MOVHI, SEL, PFMT and CONTID complete with the value of their entries (R71, R310, R344, R353, R358). -/
def Obligations.MoveResults : Prop :=
  ∀ (g : Guard) (d : Reg) (s : State) (t : Turn) (h : Thread), Running s t h → h.guard g = true → h.takes d →
    (∀ imm : BitVec 32, exec (.movi g d imm) s = .next (s.result t h d (imm.signExtend 64) 0)) ∧
    (∀ (imm : BitVec 32) (x : Word), s.reads t.core h d x →
      exec (.movhi g d imm) s = .next (s.result t h d (BitVec.ofNat 64 (imm.toNat * 2 ^ 32 + x.toNat % 2 ^ 32)) 0)) ∧
    (∀ (k : BitVec 4) (a b : Reg) (x y : Word), s.reads t.core h a x → s.reads t.core h b y →
      exec (.sel g d k a b) s = .next (s.result t h d (if h.preds.getLsbD k.toNat then x else y) 0)) ∧
    (∀ (a : Reg) (code : BitVec 5) (l : BitVec 4) (x : Word), s.reads t.core h a x → code.toNat < 16 →
      exec (.pfmt g d a code l) s =
        .next (s.result t h d (BitVec.ofNat 64 (code.toNat * 2 ^ 59 + l.toNat * 2 ^ 55 + x.toNat % 2 ^ 55)) 0)) ∧
    (∀ n : BitVec 8, t.slot ≠ 63 → t.core < 2 ^ 20 → n.toNat < 128 →
      exec (.contid g d n) s = .next (s.result t h d (BitVec.ofNat 64 (t.core * 2 ^ 44 + t.slot % 64 * 2 ^ 38 +
        n.toNat * 2 ^ 31 + (s.gen t.core t.slot).toNat * 2 ^ 16)) 0))

/-- PADD of a pointer whose format is no BFP format adds its count in elements to the address, modulo 2^55, and keeps the
tag; a reserved format, or format 6 or 7 with L below 10, raises PTR_FORMAT with the pointer; and a pointer to a BFP
element moves over element areas only, in the chunk grid, while one to a chunk's exponents raises MISALIGN (R51, R351). That
MISALIGN's detail is the address without its tag is the model's choice.
Model's own readings that it rests on: notes/assumptions, 30. -/
def Obligations.PaddResults : Prop :=
  ∀ (g : Guard) (d a b : Reg) (imm : BitVec 32) (s : State) (t : Turn) (h : Thread) (x y : Word),
    Running s t h → h.guard g = true → h.takes d → s.reads t.core h a x → s.reads t.core h b y →
    (ptrFmt x < 16 → ptrFmt x ≠ 6 → ptrFmt x ≠ 7 →
      exec (.paddReg g d a b) s = .next (s.result t h d
        (mkPtr (ptrFmt x) (ptrL x) (((ptrAddr x : Int) + y.toInt * elemSize (ptrFmt x)) % 2 ^ 55).toNat) 0) ∧
      exec (.paddImm g d a imm) s = .next (s.result t h d
        (mkPtr (ptrFmt x) (ptrL x) (((ptrAddr x : Int) + imm.toInt * elemSize (ptrFmt x)) % 2 ^ 55).toNat) 0)) ∧
    (ptrFmt x ≥ 16 ∨ (ptrFmt x = 6 ∨ ptrFmt x = 7) ∧ ptrL x < 10 →
      exec (.paddReg g d a b) s = .next ((s.readied t h).takeTrap t.core t.slot ⟨5, x, 0, 0⟩ []) ∧
      exec (.paddImm g d a imm) s = .next ((s.readied t h).takeTrap t.core t.slot ⟨5, x, 0, 0⟩ [])) ∧
    ((ptrFmt x = 6 ∨ ptrFmt x = 7) → 10 ≤ ptrL x →
      chunkElems (ptrL x) ≤ ptrAddr x % chunkSize (ptrFmt x == 6) (ptrL x) →
      exec (.paddReg g d a b) s = .next ((s.readied t h).takeTrap t.core t.slot
        ⟨6, BitVec.ofNat 64 (ptrAddr x), 0, 0⟩ []) ∧
      exec (.paddImm g d a imm) s = .next ((s.readied t h).takeTrap t.core t.slot
        ⟨6, BitVec.ofNat 64 (ptrAddr x), 0, 0⟩ [])) ∧
    (∀ e : Int, (ptrFmt x = 6 ∨ ptrFmt x = 7) → 10 ≤ ptrL x →
      ptrAddr x % chunkSize (ptrFmt x == 6) (ptrL x) < chunkElems (ptrL x) →
      e = (ptrAddr x / chunkSize (ptrFmt x == 6) (ptrL x) * chunkElems (ptrL x) +
        ptrAddr x % chunkSize (ptrFmt x == 6) (ptrL x) : Nat) + y.toInt →
      exec (.paddReg g d a b) s = .next (s.result t h d (mkPtr (ptrFmt x) (ptrL x)
        ((e / chunkElems (ptrL x) * chunkSize (ptrFmt x == 6) (ptrL x) + e % chunkElems (ptrL x)) % 2 ^ 55).toNat) 0)) ∧
    (∀ e : Int, (ptrFmt x = 6 ∨ ptrFmt x = 7) → 10 ≤ ptrL x →
      ptrAddr x % chunkSize (ptrFmt x == 6) (ptrL x) < chunkElems (ptrL x) →
      e = (ptrAddr x / chunkSize (ptrFmt x == 6) (ptrL x) * chunkElems (ptrL x) +
        ptrAddr x % chunkSize (ptrFmt x == 6) (ptrL x) : Nat) + imm.toInt →
      exec (.paddImm g d a imm) s = .next (s.result t h d (mkPtr (ptrFmt x) (ptrL x)
        ((e / chunkElems (ptrL x) * chunkSize (ptrFmt x == 6) (ptrL x) + e % chunkElems (ptrL x)) % 2 ^ 55).toNat) 0))

/-- PAND, POR, PXOR, PNOT and PMOV have the heads of their entries, where an m or an unused b that is not 0 is ILLEGAL_OP;
they, CMP and CMPI complete with the predicate of their entries; a write to p0 is discarded, and p0 reads 1 (R58, R309,
R352). -/
def Obligations.PredicateResults : Prop :=
  (∀ (g : Guard) (pd pa pb : BitVec 4) (n : Byte), g.wf = true →
    let gn := (if g.neg then 8 else 0) + g.p.toNat
    let d : Byte := pd.setWidth 8
    let a : Byte := pa.setWidth 8
    let b : Byte := pb.setWidth 8
    (∀ p ∈ ([(0x2EA0, .pand g pd pa pb), (0x2F20, .por g pd pa pb), (0x2FA0, .pxor g pd pa pb)] : List (Nat × Instr)),
      decodeHead (p.1 + gn) [d, a, b, 0] = .ok p.2 ∧ (n ≠ 0 → decodeHead (p.1 + gn) [d, a, b, n] = .error .illegalOp)) ∧
    (∀ p ∈ ([(0x3020, .pnot g pd pa), (0x30A0, .pmov g pd pa)] : List (Nat × Instr)),
      decodeHead (p.1 + gn) [d, a, 0, 0] = .ok p.2 ∧ (n ≠ 0 → decodeHead (p.1 + gn) [d, a, n, 0] = .error .illegalOp ∧
        decodeHead (p.1 + gn) [d, a, 0, n] = .error .illegalOp))) ∧
  (∀ (g : Guard) (pd pa pb : BitVec 4) (s : State) (t : Turn) (h : Thread), Running s t h → h.guard g = true →
    (∀ (c : Cond) (a b : Reg) (x y : Word), s.reads t.core h a x → s.reads t.core h b y →
      exec (.cmp g pd c a b) s = .next (s.decided t h pd (Spec.holds c x y) 0)) ∧
    (∀ (c : Cond) (a : Reg) (imm : BitVec 32) (x : Word), s.reads t.core h a x →
      exec (.cmpi g pd c a imm) s = .next (s.decided t h pd (Spec.holds c x (imm.signExtend 64)) 0)) ∧
    exec (.pand g pd pa pb) s = .next (s.decided t h pd (h.pred pa && h.pred pb) 0) ∧
    exec (.por g pd pa pb) s = .next (s.decided t h pd (h.pred pa || h.pred pb) 0) ∧
    exec (.pxor g pd pa pb) s = .next (s.decided t h pd (xor (h.pred pa) (h.pred pb)) 0) ∧
    exec (.pnot g pd pa) s = .next (s.decided t h pd (!h.pred pa) 0) ∧
    exec (.pmov g pd pa) s = .next (s.decided t h pd (h.pred pa) 0) ∧
    (∀ b : Bool, (h.preds.getLsbD 0 = true → h.pred 0 = true ∧ (h.setPred pd b).pred 0 = true) ∧
      (pd ≠ 0 → (h.setPred pd b).pred pd = b) ∧ (pa ≠ pd → (h.setPred pd b).pred pa = h.pred pa)))

/-- Ports and mbx as operands: a port gives up its oldest word, in the order a, b; mbx gives up its head entry and reads
as that entry's header; a port as destination sends the word to the neighbour's opposite FIFO; and an instruction that
names an empty port, or a port whose neighbour takes no word, waits, an interrupt waking it, and takes nothing (R74, R76,
R77, R105, R107). A squash keeps the words that a thread has taken, its next turn finds those of its instruction, and an
execution that finds them takes them, and none anew (R107, R146): that is the model's choice.
Stated of ADD of two words of one port, of MOV from mbx, and of MOV from and to a port.
Model's own readings that it rests on: notes/assumptions, 10. -/
def Obligations.PortAndMailboxOperands : Prop :=
  ∀ (g : Guard) (d a : Reg) (p : Dir) (x y : Word) (s : State) (t : Turn) (h : Thread), Running s t h →
    h.guard g = true → t.slot ≠ 63 → h.chunk.quiet = true →
    ((∃ k, (s.squash t.core t.slot).thread? t.core t.slot = some k ∧ k.taken = h.taken) ∧
      (s.turnOf t.core t.slot h t.next).again =
        (h.taken.filter (fun p => p.1 == h.pc && p.2.1 == h.handler)).map (fun p => p.2.2.word)) ∧
    (h.takes d → s.portDead t.core t.slot h p = false → t.again = [x, y] →
      ∃ u, exec (.add g d (.port p) (.port p) false) s = .next u ∧
        (u.core t.core).fifo p = (s.core t.core).fifo p ∧ (∀ n, d = .x n → u.reg t.core (h.base + n.toNat) = x + y)) ∧
    (h.takes d → t.again = [x] →
      ∃ u, exec (.mov g d .mbx) s = .next u ∧ (u.core t.core).mail = (s.core t.core).mail ∧
        (∀ n, d = .x n → u.reg t.core (h.base + n.toNat) = x)) ∧
    (t.again = [] →
    (∀ rest : List Word, h.takes d → s.portDead t.core t.slot h p = false → (s.core t.core).fifo p = x :: y :: rest →
      ∃ u, exec (.add g d (.port p) (.port p) false) s = .next u ∧ (u.core t.core).fifo p = rest ∧
        (∀ n, d = .x n → u.reg t.core (h.base + n.toNat) = x + y)) ∧
    (∀ m : Mail, h.takes d → (s.mailFor t.core h.vdev).head? = some m → 1 ≤ s.mailFree t.core t.slot h.vdev →
      ∃ u, exec (.mov g d .mbx) s = .next u ∧ (u.core t.core).mail = popMail h.vdev (s.core t.core).mail ∧
        (∀ n, d = .x n → u.reg t.core (h.base + n.toNat) = m.header)) ∧
    (∀ n : Nat, s.reads t.core h a x → s.portDead t.core t.slot h p = false → neighbour t.core p = some n →
      (s.portAccept n (oppDir p) h.vdev 0).isSome = true → s.routeOk t.core n = true →
      ∃ u f, exec (.mov g (.port p) a) s = .next u ∧ u.wire = s.wire ++ [f] ∧
        f.pkt = .port n (oppDir p) h.vdev x ∧ f.core = t.core ∧ f.thread = h.id ∧ f.waits = true) ∧
    (h.takes d → s.portDead t.core t.slot h p = false → (s.core t.core).fifo p = [] →
      exec (.mov g d (.port p)) s = .next (s.setThread t.core t.slot { h with status := .poll .irq, issued := none })) ∧
    (∀ n : Nat, h.takes a → s.portDead t.core t.slot h p = false → neighbour t.core p = some n →
      s.portAccept n (oppDir p) h.vdev 0 = none →
      exec (.mov g (.port p) a) s = .next (s.setThread t.core t.slot { h with status := .poll .irq, issued := none })))

/-- A register beyond the window raises WINDOW with its number and the window's size, a window register named by h0-h7
outside a handler ILLEGAL_OPERAND with its number, and a register that holds poisoned data POISON with its number; none has
any other effect than the exception's (R57, R82, R106, R203, R283). Stated of every integer instruction of one or two sources
and a destination.
Model's own readings that it rests on: notes/assumptions, 5. -/
def Obligations.RegisterFieldTraps : Prop :=
  ∀ (i : Instr) (g : Guard) (d a b : Reg) (s : State) (t : Turn) (h : Thread),
    (∃ f, Spec.binary i = some (g, d, a, b, f)) ∨
      (b = a ∧ ((∃ f, Spec.unary i = some (g, d, a, f)) ∨ i = .clz g d a ∨ i = .popc g d a)) →
    Running s t h → h.guard g = true →
    (∀ n, d = .x n → h.size ≤ n.toNat →
      exec i s = .next ((s.readied t h).takeTrap t.core t.slot ⟨3, BitVec.ofNat 64 n.toNat, BitVec.ofNat 64 h.size, 0⟩ [])) ∧
    (∀ n, h.takes d → a = .x n → h.size ≤ n.toNat →
      exec i s = .next ((s.readied t h).takeTrap t.core t.slot ⟨3, BitVec.ofNat 64 n.toNat, BitVec.ofNat 64 h.size, 0⟩ [])) ∧
    (∀ n, h.takes d → h.takes b ∨ b = a → a = .h n → h.handler = false →
      exec i s = .next ((s.readied t h).takeTrap t.core t.slot ⟨2, BitVec.ofNat 64 (230 + n.toNat), 0, 0⟩ [])) ∧
    (∀ n, h.takes d → h.takes b ∨ b = a → a = .x n → n.toNat < h.size → h.base + n.toNat ∈ (s.core t.core).regPoison →
      exec i s = .next ((s.readied t h).takeTrap t.core t.slot ⟨9, BitVec.ofNat 64 (2 ^ 63 + n.toNat), 0, 0⟩ []))

/-- What the integer instructions of one or two sources leave alone where they complete: memory, every line's metadata,
every register but the destination, every other core and thread, what the module holds beside, and of their own thread
everything but its PC, its FLAGS and its chunk (R291). -/
def Obligations.IntegerInstructionFrame : Prop :=
  ∀ (i : Instr) (g : Guard) (d a b : Reg) (s u : State) (t : Turn) (h : Thread) (x y : Word),
    (∃ f, Spec.binary i = some (g, d, a, b, f)) ∨ (∃ f, Spec.unary i = some (g, d, a, f)) →
    Running s t h → h.guard g = true → t.slot ≠ 63 → h.takes d → s.reads t.core h a x → s.reads t.core h b y →
    exec i s = .next u →
    (u.mem = s.mem ∧ u.metas = s.metas ∧ u.wire = s.wire ∧ u.vdevs = s.vdevs ∧ u.nodes = s.nodes ∧
      u.granules = s.granules ∧ u.launches = s.launches ∧ u.qps = s.qps ∧ u.ridge = s.ridge ∧ u.now = s.now) ∧
    (∀ c, c ≠ t.core → u.core c = s.core c) ∧
    (∀ e, (∀ k, d = .x k → e ≠ h.base + k.toNat) → u.reg t.core e = s.reg t.core e) ∧
    (∀ j, j ≠ t.slot → u.thread? t.core j = s.thread? t.core j) ∧
    ((u.core t.core).ctxs = (s.core t.core).ctxs ∧ (u.core t.core).tasks = (s.core t.core).tasks ∧
      (u.core t.core).queue = (s.core t.core).queue ∧ (u.core t.core).mail = (s.core t.core).mail ∧
      (u.core t.core).fifos = (s.core t.core).fifos ∧ (u.core t.core).ends = (s.core t.core).ends) ∧
    (∀ n, (∀ k, d = .h k → n ≠ k.toNat) →
      (u.core t.core).shadow.h.getD n 0 = (s.core t.core).shadow.h.getD n 0) ∧
    ((u.core t.core).shadow.spc = (s.core t.core).shadow.spc ∧
      (u.core t.core).shadow.spreds = (s.core t.core).shadow.spreds) ∧
    (∃ k, u.thread? t.core t.slot = some k ∧ k.pc = t.next ∧ k.preds = h.preds ∧ k.fsave = h.fsave ∧ k.base = h.base ∧
      k.size = h.size ∧ k.level = h.level ∧ k.wake = h.wake ∧ k.handler = h.handler ∧ k.ctx = h.ctx ∧ k.task = h.task)

/-! ## Float instructions -/

/-- The turns that the normaliser costs (R47): c subnormal values cost ceil(c / 8) further turns. -/
def Spec.normaliserTurns (f : FloatFmt) (lanes : List Nat) : Nat :=
  (lanes.countP (fun x => x / 2 ^ f.fbits % 2 ^ f.ebits = 0 ∧ x % 2 ^ f.fbits ≠ 0) + 7) / 8

/-- The format and the encoding with its flags that the scalar float instructions of two operands give: FADD, FSUB, FMUL
and FDIV round once (R318), FMIN and FMAX do not (R319). -/
def Spec.floatBinary : Instr → Option (Guard × Reg × Reg × Reg × FloatFmt × (Nat → Nat → Nat × Flags))
  | .fadd g d a b m => some (g, d, a, b, ffFmt m.ff, fun x y =>
      sumRound (ffFmt m.ff) m.rnd m.sat [unpack (ffFmt m.ff) x, unpack (ffFmt m.ff) y])
  | .fsub g d a b m => some (g, d, a, b, ffFmt m.ff, fun x y =>
      sumRound (ffFmt m.ff) m.rnd m.sat [unpack (ffFmt m.ff) x, (unpack (ffFmt m.ff) y).negate])
  | .fmul g d a b m => some (g, d, a, b, ffFmt m.ff, fun x y =>
      let p := mulVal (unpack (ffFmt m.ff) x) (unpack (ffFmt m.ff) y)
      let r := roundVal (ffFmt m.ff) m.rnd m.sat p.1
      (r.1, p.2 ||| r.2))
  | .fdiv g d a b m => some (g, d, a, b, ffFmt m.ff, fun x y =>
      let p := fdivVal (unpack (ffFmt m.ff) x) (unpack (ffFmt m.ff) y)
      let r := roundVal (ffFmt m.ff) m.rnd m.sat p.1
      (r.1, p.2 ||| r.2))
  | .fmin g d a b f => some (g, d, a, b, ffFmt f, fminmax (ffFmt f) false)
  | .fmax g d a b f => some (g, d, a, b, ffFmt f, fminmax (ffFmt f) true)
  | _ => none

/-- The scalar, packed and lane float instructions complete: the encoding in the low bits of the destination, the bits
above zero, the flags ORed into FLAGS, and the normaliser's turns forfeited (R47, R291, R292, R317-R324, R370). -/
def Obligations.FloatResults : Prop :=
  ∀ (s : State) (t : Turn) (h : Thread) (g : Guard) (d a b c : Reg) (x y z : Word),
    Running s t h → h.guard g = true → h.takes d → s.reads t.core h a x → s.reads t.core h b y → s.reads t.core h c z →
    (∀ (i : Instr) (f : FloatFmt) (op : Nat → Nat → Nat × Flags), Spec.floatBinary i = some (g, d, a, b, f, op) →
      let p := x.toNat % 2 ^ f.width
      let q := y.toNat % 2 ^ f.width
      exec i s = .next (s.result t h d (BitVec.ofNat 64 (op p q).1) (op p q).2
        (Spec.normaliserTurns f [p, q, (op p q).1]))) ∧
    (∀ m : FMod,
      let f := ffFmt m.ff
      let p := x.toNat % 2 ^ f.width
      let r := fsqrt f m.rnd m.sat p
      exec (.fsqrt g d a m) s = .next (s.result t h d (BitVec.ofNat 64 r.1) r.2 (Spec.normaliserTurns f [p, r.1]))) ∧
    (∀ m : FMod,
      let f := ffFmt m.ff
      let p := x.toNat % 2 ^ f.width
      let q := y.toNat % 2 ^ f.width
      let u := z.toNat % 2 ^ f.width
      let v := mulVal (unpack f p) (unpack f q)
      let r := sumRound f m.rnd m.sat [v.1, unpack f u]
      exec (.fma g d a b c m) s = .next (s.result t h d (BitVec.ofNat 64 r.1) (v.2 ||| r.2)
        (Spec.normaliserTurns f [p, q, u, r.1]))) ∧
    (∀ m : RMod,
      let lo := ffma .fp32 m.rnd m.sat (x.toNat % 2 ^ 32) (y.toNat % 2 ^ 32) (z.toNat % 2 ^ 32)
      let hi := ffma .fp32 m.rnd m.sat (x.toNat / 2 ^ 32) (y.toNat / 2 ^ 32) (z.toNat / 2 ^ 32)
      exec (.fpma g d a b c m) s = .next (s.result t h d (BitVec.ofNat 64 (lo.1 + hi.1 * 2 ^ 32)) (lo.2 ||| hi.2)
        (Spec.normaliserTurns .fp32 (lanes .fp32 x ++ lanes .fp32 y ++ lanes .fp32 z ++ [lo.1, hi.1])))) ∧
    (∀ f : FF,
      let p := x.toNat % 2 ^ (ffFmt f).width
      let half := 2 ^ ((ffFmt f).width - 1)
      ((unpack (ffFmt f) p).isNan = false →
        exec (.fabs g d a f) s = .next (s.result t h d (BitVec.ofNat 64 (p % half)) 0
          (Spec.normaliserTurns (ffFmt f) [p, p % half])) ∧
        exec (.fneg g d a f) s = .next (s.result t h d (BitVec.ofNat 64 ((p + half) % (2 * half))) 0
          (Spec.normaliserTurns (ffFmt f) [p, (p + half) % (2 * half)]))) ∧
      ((unpack (ffFmt f) p).isNan = true → ∀ i, i = .fabs g d a f ∨ i = .fneg g d a f →
        exec i s = .next (s.result t h d (BitVec.ofNat 64 (ffFmt f).qnan)
          (if (unpack (ffFmt f) p).isSig then 1 else 0)))) ∧
    (∀ f : FF,
      let p := x.toNat % 2 ^ (ffFmt f).width
      exec (.fclass g d a f) s = .next (s.result t h d (BitVec.ofNat 64 (fclass (ffFmt f) p)) 0
        (Spec.normaliserTurns (ffFmt f) [p]))) ∧
    (∀ (m : RMod) (tgt src : CvtFmt),
      let r := fcvt m.rnd m.sat tgt src x
      let n := (if src.isInt then 0 else [x.toNat % 2 ^ (cvtFloat src).width].countP (isSubnormal (cvtFloat src))) +
        (if tgt.isInt then 0 else [r.1.toNat % 2 ^ (cvtFloat tgt).width].countP (isSubnormal (cvtFloat tgt)))
      exec (.fcvt g d a m tgt src) s = .next (s.result t h d r.1 r.2 (if n = 0 then 0 else 1))) ∧
    (∀ f : FF,
      let ls := lanes (ffFmt f) x ++ lanes (ffFmt f) y
      let vs := ls.map (unpack (ffFmt f))
      exec (.vargmax g d a b f) s = .next (s.result t h d
        (match argmax vs with | some k => BitVec.ofNat 64 k | none => BitVec.allOnes 64)
        (if vs.any FVal.isSig then 1 else 0) (Spec.normaliserTurns (ffFmt f) ls))) ∧
    (∀ (f : FF) (k : Nat), k < 64 / (ffFmt f).width → ∃ v : Word,
      exec (.vperm g d a b f) s = .next (s.result t h d v 0) ∧
      v.toNat / 2 ^ ((ffFmt f).width * k) % 2 ^ (ffFmt f).width =
        (if y.toNat / 2 ^ (4 * k + 3) % 2 = 0 ∧ y.toNat / 2 ^ (4 * k) % 8 < 64 / (ffFmt f).width then
          x.toNat / 2 ^ ((ffFmt f).width * (y.toNat / 2 ^ (4 * k) % 8)) % 2 ^ (ffFmt f).width
        else 0)) ∧
    (∀ m : FMod,
      let f := ffFmt m.ff
      let ls := lanes f x ++ lanes f y
      let r := sumRound f m.rnd m.sat (ls.map (unpack f))
      exec (.vsum g d a b m) s = .next (s.result t h d (BitVec.ofNat 64 r.1) r.2
        (Spec.normaliserTurns f (ls ++ [r.1]))))

/-- FCMP has the head and the compare layout of its entry, a condition code of 6 to 15 being ILLEGAL_OP; it completes with
the condition: with a NaN operand only `.ne` holds; NV is set by a signalling NaN, and by any NaN where the condition
orders; the two zeros are equal (R321). -/
def Obligations.FloatCompareResults : Prop :=
  (∀ (g : Guard) (pd : BitVec 4) (k : FCond) (f : FF) (a b : Reg) (n : Byte), g.wf = true →
    let head := 0x65A0 + (if g.neg then 8 else 0) + g.p.toNat
    decodeHead head [pd.setWidth 8, a.num, b.num, BitVec.ofNat 8 (k.num + 16 * f.num)] = .ok (.fcmp g pd k f a b) ∧
    (6 ≤ n.toNat % 16 → decodeHead head [pd.setWidth 8, a.num, b.num, n] = .error .illegalOp)) ∧
  (∀ (s : State) (t : Turn) (h : Thread) (g : Guard) (pd : BitVec 4) (k : FCond) (f : FF) (a b : Reg) (x y : Word),
    Running s t h → h.guard g = true → s.reads t.core h a x → s.reads t.core h b y →
    let p := x.toNat % 2 ^ (ffFmt f).width
    let q := y.toNat % 2 ^ (ffFmt f).width
    let u := unpack (ffFmt f) p
    let v := unpack (ffFmt f) q
    let nan := u.isNan || v.isNan
    let orders := k != .eq && k != .ne
    exec (.fcmp g pd k f a b) s = .next (s.decided t h pd
      (if nan then k == .ne else
        match k with
        | .eq => !u.lt v && !v.lt u
        | .ne => u.lt v || v.lt u
        | .lt => u.lt v
        | .le => !v.lt u
        | .gt => v.lt u
        | .ge => !u.lt v)
      (if u.isSig || v.isSig || (nan && orders) then 1 else 0)
      (Spec.normaliserTurns (ffFmt f) [p, q]))) ∧
  (∀ e e' n n', FVal.lt (.num n 0 e) (.num n' 0 e') = false)

/-- A rounding to a multiple of 2^q is by the mode (R39): to nearest, ties to even, it is no more than half a step away,
and an exact tie goes to the even multiple; towards zero it is the greatest multiple not beyond the magnitude; `.ru` and
`.rd` go away from zero exactly for the sign that the mode names; and it is inexact exactly where it differs.
A NaN operand of an arithmetic float instruction gives the canonical NaN of the format, and a signalling one sets NV;
so do ∞ − ∞, 0 × ∞, 0 / 0, ∞ / ∞ and the root of a negative number; a finite non-zero value over zero gives, in a format
that has infinities, one of the product's sign and sets DZ (R31, R40, R317, R318). -/
def Obligations.RoundingAndInvalidOperations : Prop :=
  (∀ (rm : Rnd) (neg : Bool) (m k : Nat) (e : Int), 0 < k →
    let n := (roundAt rm neg m e (e + k)).1
    let nx := (roundAt rm neg m e (e + k)).2
    (nx = true ↔ m % 2 ^ k ≠ 0) ∧ (m % 2 ^ k = 0 → n = m / 2 ^ k) ∧
    (rm = .ne → 2 * (n * 2 ^ k) ≤ 2 * m + 2 ^ k ∧ 2 * m ≤ 2 * (n * 2 ^ k) + 2 ^ k ∧
      (2 * (m % 2 ^ k) = 2 ^ k → n % 2 = 0)) ∧
    (rm = .rz → n = m / 2 ^ k) ∧
    (rm = .ru → n = if neg then m / 2 ^ k else (m + 2 ^ k - 1) / 2 ^ k) ∧
    (rm = .rd → n = if neg then (m + 2 ^ k - 1) / 2 ^ k else m / 2 ^ k)) ∧
  (∀ (f : FloatFmt) (rm : Rnd) (sat : Bool) (vs : List FVal), vs.any FVal.isNan = true →
    sumRound f rm sat vs = (f.qnan, if vs.any FVal.isSig then 1 else 0)) ∧
  (∀ (f : FloatFmt) (rm : Rnd) (sat : Bool) (x y z : Nat),
    let vs := [unpack f x, unpack f y, unpack f z]
    vs.any FVal.isNan = true → (ffma f rm sat x y z).1 = f.qnan ∧
      (vs.any FVal.isSig = true → (ffma f rm sat x y z).2.getLsbD 0 = true)) ∧
  (∀ (f : FloatFmt) (rm : Rnd) (sat : Bool) (x y : Nat),
    let u := unpack f x
    let v := unpack f y
    let nv : Flags := if u.isSig || v.isSig then 1 else 0
    ((u.isNan || v.isNan) = true →
      fadd f rm sat x y = (f.qnan, nv) ∧ fsub f rm sat x y = (f.qnan, nv) ∧ fmul f rm sat x y = (f.qnan, nv) ∧
      fdiv f rm sat x y = (f.qnan, nv) ∧ fminmax f true x y = (f.qnan, nv) ∧ fminmax f false x y = (f.qnan, nv)) ∧
    (u.isNan = true → fsqrt f rm sat x = (f.qnan, if u.isSig then 1 else 0)) ∧
    (∀ s, u = .inf s → v = .inf (!s) → fadd f rm sat x y = (f.qnan, 1)) ∧
    (∀ s, u = .inf s → v = .inf s → fsub f rm sat x y = (f.qnan, 1)) ∧
    (∀ s, u = .inf s → v.isZero = true → fmul f rm sat x y = (f.qnan, 1) ∧ fmul f rm sat y x = (f.qnan, 1)) ∧
    (u.isZero = true → v.isZero = true → fdiv f rm sat x y = (f.qnan, 1)) ∧
    (∀ s s', u = .inf s → v = .inf s' → fdiv f rm sat x y = (f.qnan, 1)) ∧
    (u = .inf true ∨ (∃ m e, u = .num true (m + 1) e) → fsqrt f rm sat x = (f.qnan, 1)) ∧
    (∀ n n' m e e', u = .num n (m + 1) e → v = .num n' 0 e' → f ≠ .e4m3 →
      fdiv f rm sat x y = (withSign f (n != n') f.infBits, 2)))

/-- What an access of a running instruction declares (R134, R141): on the riddle, its context's DIST0. -/
def Spec.use (s : State) (t : Turn) (nu : Nat) : Use := if t.slot = 63 then s.riddleUse t.core nu else t.at_.use nu

/-- BDOT completes with the exact sum of the 32 products of its blocks, rounded once to FP32; BDQ writes the 32 elements
of its block, each rounded to its target, and BQNT the 32 quantised elements and both exponent bytes, both as stores of the
chunk (R37, R38, R300-R303). -/
def Obligations.BlockInstructionResults : Prop :=
  ∀ (s s1 : State) (t : Turn) (h h1 : Thread) (g : Guard) (d a b : Reg) (x y : Word),
    Running s t h → Running s1 t h1 → h.guard g = true →
    (∀ (m : RMod) (p q : BfpPlace) (bs : List (List Byte)), h.takes d → h1.takes d → s.reads t.core h a x →
      s.reads t.core h b y → (ptrFmt x = 6 ∨ ptrFmt x = 7) → (ptrFmt y = 6 ∨ ptrFmt y = 7) → 10 ≤ ptrL x → 10 ≤ ptrL y →
      bfpPlace (ptrFmt x == 6) (ptrL x) (ptrAddr x) = some p → p.j % 32 = 0 →
      bfpPlace (ptrFmt y == 6) (ptrL y) (ptrAddr y) = some q → q.j % 32 = 0 →
      (loadSpans [(x, p.byte, if ptrFmt x = 6 then 32 else 16), (x, p.e0, 2),
        (y, q.byte, if ptrFmt y = 6 then 32 else 16), (y, q.e0, 2)] (Spec.use s t 255)).run (s.readied t h) = .ok (bs, s1) →
      let us := blockVals (ptrFmt x == 6) (bs.getD 0 []) (bs.getD 1 [])
      let vs := blockVals (ptrFmt y == 6) (bs.getD 2 []) (bs.getD 3 [])
      let r := roundVal .fp32 m.rnd m.sat (exactSum false ((us.zip vs).map (fun z => (mulVal z.1 z.2).1))).1
      exec (.bdot g d a b m) s = .next (s1.result t h1 d (BitVec.ofNat 64 r.1) r.2
        (Spec.normaliserTurns .fp32 [r.1]))) ∧
    (∀ (m : FMod) (p : BfpPlace) (bs : List (List Byte)) (sa sb : State),
      s.reads t.core h d x → s.reads t.core h a y → ptrFmt x < 16 → (ptrFmt x = 0 ∨ ptrFmt x = ffCode m.ff) →
      (ptrFmt y = 6 ∨ ptrFmt y = 7) → 10 ≤ ptrL y → ptrAddr x % ((ffFmt m.ff).width / 8) = 0 →
      bfpPlace (ptrFmt y == 6) (ptrL y) (ptrAddr y) = some p → p.j % 32 = 0 → t.slot ≠ 63 →
      let src := [(p.byte, if ptrFmt y = 6 then 32 else 16), (p.e0, 2)]
      let size := (ffFmt m.ff).width / 8
      let rs := (blockVals (ptrFmt y == 6) (bs.getD 0 []) (bs.getD 1 [])).map (roundVal (ffFmt m.ff) m.rnd m.sat)
      (checkMoves y src x [(ptrAddr x, 32 * size)]).run (s.readied t h) = .ok ((), sa) →
      (loadRanges y src (t.at_.use 255)).run sa = .ok (bs, sb) →
      (holdStores x [(ptrAddr x, whole (rs.flatMap (fun r => leBytes size r.1)))] 255).run sb = .ok ((), s1) →
      h1.status = .ready →
      exec (.bdq g d a m) s = .next ((s1.setThread t.core t.slot (h1.flagged (rs.foldl (fun f r => f ||| r.2) 0)
        (Spec.normaliserTurns (ffFmt m.ff) (rs.map Prod.fst)))).retire t)) ∧
    (∀ (D : BitVec 4) (p : BfpPlace) (bs : List Byte) (sa sb : State),
      s.reads t.core h d x → s.reads t.core h a y → (ptrFmt x = 6 ∨ ptrFmt x = 7) → 10 ≤ ptrL x →
      1 ≤ ptrFmt y → ptrFmt y ≤ 5 → ptrAddr y % elemSize (ptrFmt y) = 0 →
      bfpPlace (ptrFmt x == 6) (ptrL x) (ptrAddr x) = some p → p.j % 32 = 0 → t.slot ≠ 63 →
      let size := elemSize (ptrFmt y)
      let bits := (List.range 32).map (fun k => leNat (slice bs (size * k) size))
      let q := quantise (ptrFmt x == 6) D.toNat (codeFmt (ptrFmt y)) (bits.map (unpack (codeFmt (ptrFmt y))))
      (checkMoves y [(ptrAddr y, 32 * size)] x [(p.byte, if ptrFmt x = 6 then 32 else 16), (p.e0, 2)]).run (s.readied t h) =
        .ok ((), sa) →
      (loadBytes y (ptrAddr y) (32 * size) (t.at_.use 255)).run sa = .ok (bs, sb) →
      (holdStores x [(p.byte, whole (packCodes (ptrFmt x == 6) q.elems)),
        (p.e0, whole [BitVec.ofNat 8 q.e0, BitVec.ofNat 8 q.e1])] 255).run sb = .ok ((), s1) →
      h1.status = .ready →
      exec (.bqnt g d a D) s = .next ((s1.setThread t.core t.slot (h1.flagged q.flags
        (if ptrFmt y ≤ 3 then Spec.normaliserTurns (codeFmt (ptrFmt y)) bits else 0))).retire t))

/-! ## Control and system instructions -/

/-- NOP, BR, BRL, JMP, JMPL and LOOP complete: the link is a code pointer to the instruction that follows, JMPL reads xa
before it writes xd, and LOOP transfers while its counter is not 0 (R104, R304, R305, R332, R339, R348). A transfer
through a register traps on another format and on an odd address (R104); that the detail of an odd address is the address
without its tag is the model's choice.
Model's own readings that it rests on: notes/assumptions, 30. -/
def Obligations.TransferResults : Prop :=
  ∀ (g : Guard) (d a : Reg) (off : BitVec 32) (x : Word) (s : State) (t : Turn) (h : Thread),
    Running s t h → h.guard g = true →
    let link : Word := BitVec.ofNat 64 (15 * 2 ^ 59 + t.next.toNat)
    let branch : Pc := h.pc + off.signExtend 55
    let addr : Pc := BitVec.ofNat 55 (x.toNat % 2 ^ 55)
    exec (.nop g) s = .next (s.stepped t h) ∧
    exec (.br g off) s = .next ((s.readied t h).jump t branch) ∧
    (h.takes d → exec (.brl g d off) s = .next (((s.readied t h).put t.core h d link).jump t branch)) ∧
    (s.reads t.core h a x → (ptrFmt x = 0 ∨ ptrFmt x = 15) → x.toNat % 2 = 0 →
      exec (.jmp g a) s = .next ((s.readied t h).jump t addr) ∧
      (h.takes d → exec (.jmpl g d a) s = .next (((s.readied t h).put t.core h d link).jump t addr))) ∧
    (∀ n : BitVec 7, n.toNat < h.size → s.reads t.core h (.x n) x →
      exec (.loop g (.x n) off) s =
        .next (let u := (s.readied t h).put t.core h (.x n) (x - 1)
               if x = 1 then u.retire t else u.jump t branch)) ∧
    (∀ i, i = .jmp g a ∨ (i = .jmpl g d a ∧ h.takes d) → s.reads t.core h a x → ptrFmt x ≠ 0 → ptrFmt x ≠ 15 →
      exec i s = .next ((s.readied t h).takeTrap t.core t.slot ⟨5, x, 0, 0⟩ [])) ∧
    (∀ i, i = .jmp g a ∨ (i = .jmpl g d a ∧ h.takes d) → s.reads t.core h a x → (ptrFmt x = 0 ∨ ptrFmt x = 15) →
        x.toNat % 2 = 1 →
      exec i s = .next ((s.readied t h).takeTrap t.core t.slot
        ⟨6, BitVec.ofNat 64 (x.toNat % 2 ^ 55), 0, 0⟩ []))

/-- CHUNK, FENCE, IFENCE and FLUSHI end the chunk; FENCE waits while a packet of the thread to its scope has not been
accepted, and from `.plot` on writes the context's dirty private entries back; IFENCE empties the fetch buffer; FLUSHI
writes the range's lines back and drops them from the fetch buffer. Where the chunk has read or written, each of them has
issued and waits while the chunk's other instructions commit (R145, R154, R157).
Model's own readings that it rests on: notes/assumptions, 9, 19. -/
def Obligations.ChunkEndings : Prop :=
  ∀ (g : Guard) (s : State) (t : Turn) (h : Thread), Running s t h → h.guard g = true →
    let e := (s.readied t h).ended t
    (h.chunk.quiet = true →
      exec (.chunk g) s = .next (e.retire t) ∧
      exec (.ifence g) s = .next ((e.modThread t.core t.slot (fun k => { k with fetch := [] })).retire t) ∧
      (∀ sc, (sc = .thread ∨ sc = .core) → e.unaccepted sc t.core h.id = false →
        exec (.fence g sc) s = .next (e.retire t)) ∧
      (∀ sc u, sc ≠ .thread → sc ≠ .core → e.unaccepted sc t.core h.id = false →
        e.flushPrivate t.core h.ctx = some u → u.turn = some t → exec (.fence g sc) s = .next (u.retire t)) ∧
      (∀ sc, e.unaccepted sc t.core h.id = true →
        exec (.fence g sc) s = .next (s.setThread t.core t.slot { h with status := .poll .quiet, issued := some t.at_ })) ∧
      (∀ (a b : Reg) (p n : Word) (u : State) (k : Thread), s.reads t.core h a p → s.reads t.core h b n →
        n.toNat ≤ 512 → ptrFormatBad (ptrFmt p) (ptrL p) = false → ptrFmt p ≠ 7 → ptrAddr p % 64 = 0 →
        (eachEntry (rangeOf (ptrAddr p / 64) n.toNat) (fun c i => orWait (fun s => s.writeBack c i))).run e = .ok ((), u) →
        Running u t k →
        exec (.flushi g a b) s = .next ((u.setThread t.core t.slot { k with
          fetch := k.fetch.filter (fun f => !(rangeOf (ptrAddr p / 64) n.toNat).contains f.line) }).retire t))) ∧
    (h.chunk.quiet = false → ∀ i, (i = .chunk g ∨ i = .ifence g ∨ ∃ sc, i = .fence g sc) →
      exec i s = .next ((s.readied t h).awaitCommit t.core t.slot)) ∧
    (h.chunk.quiet = false → ∀ (a b : Reg) (p n : Word), s.reads t.core h a p → s.reads t.core h b n →
      n.toNat ≤ 512 → ptrFormatBad (ptrFmt p) (ptrL p) = false → ptrFmt p ≠ 7 → ptrAddr p % 64 = 0 →
      exec (.flushi g a b) s = .next ((s.readied t h).awaitCommit t.core t.slot))

/-- TRAP asks for UHV with cause SOFT and its number and goes on after itself; in a handler, and where UHV is 0, the
thread ends with that cause; URET leaves the handler: the predicate word and the PC come back from the shadow set, the PC
of the instruction after it where the cause is SYNC_LIMIT and h2 is not 0, and the set is free; outside a handler it is
ILLEGAL_OP (R202, R207, R208, R368, R369). -/
def Obligations.SoftTrapAndReturn : Prop :=
  ∀ (g : Guard) (n : BitVec 16) (s : State) (t : Turn) (h : Thread),
    Running s t h → h.guard g = true → h.chunk.quiet = true → t.slot ≠ 63 → s.wf →
    let e := (s.readied t h).ended t
    let sh := (e.core t.core).shadow
    (h.handler = false → (s.ctx t.core h.ctx).uhv ≠ 0 →
      exec (.trap g n) s = .next ((e.wantHandler t.core t.slot ⟨17, false, n.setWidth 64, 0, 0, false⟩).retire t)) ∧
    (h.handler = true ∨ (s.ctx t.core h.ctx).uhv = 0 →
      exec (.trap g n) s = .next (e.endThread t.core t.slot (some 17))) ∧
    (h.handler = true →
      exec (.uret g) s = .next (((e.modThread t.core t.slot (fun k => { k with handler := false, preds := sh.spreds })).modCore
        t.core (fun k => { k with shadow := { k.shadow with holder := none } })).jump t
          (if sh.cause = 10 ∧ sh.h.getD 2 0 ≠ 0 then sh.snext else sh.spc))) ∧
    (h.handler = false →
      exec (.uret g) s = .next ((s.readied t h).takeTrap t.core t.slot ⟨1, headValue (.uret g), 0, 0⟩ []))

/-- ERET resumes a fibre: the window, the predicates with p0 set, FLAGS and the PC come from the save area that FSAVE
names, and FSAVE is armed; a saved window beyond TLIM, a bad format and an odd PC trap (R207, R315); that the detail of an odd
PC is the address without its tag is the model's choice.
Model's own readings that it rests on: notes/assumptions, 5, 30. -/
def Obligations.FibreReturn : Prop :=
  ∀ (g : Guard) (s s1 s2 : State) (t : Turn) (h h1 h2 : Thread) (bs cs : List Byte),
    Running s t h → h.guard g = true → h.handler = false → t.slot ≠ 63 →
    let a := h.fsave.toNat / 64 % 2 ^ 49 * 64
    let pcw : Word := BitVec.ofNat 64 (leNat (slice bs 0 8))
    let st := leNat (slice bs 8 8)
    let size := st / 2 ^ 16 % 2 ^ 8
    (loadBytes (BitVec.ofNat 64 a) a 16 (t.at_.use 255)).run (s.readied t h) = .ok (bs, s1) → bs.length = 16 → Running s1 t h1 →
    (size ≤ h.size → (ptrFmt pcw = 0 ∨ ptrFmt pcw = 15) → pcw.toNat % 2 = 0 →
      (loadBytes (BitVec.ofNat 64 (a + 64)) ((a + 64) % 2 ^ 55) (8 * size) (t.at_.use 255)).run s1 = .ok (cs, s2) →
      Running s2 t h2 →
      exec (.eret g) s = .next (((s2.setRegs t.core h.base (leWords cs size)).setThread t.core t.slot { h2 with
        preds := BitVec.ofNat 16 (st % 2 ^ 16) ||| 1, flags := BitVec.ofNat 6 (st / 2 ^ 32 % 2 ^ 6),
        fsave := h2.fsave ||| 1 }).jump t (BitVec.ofNat 55 (pcw.toNat % 2 ^ 55)))) ∧
    (h.size < size →
      exec (.eret g) s = .next ((s.readied t h).takeTrap t.core t.slot
        ⟨3, BitVec.ofNat 64 h.size, BitVec.ofNat 64 h.size, 0⟩ [])) ∧
    (size ≤ h.size → ptrFmt pcw ≠ 0 → ptrFmt pcw ≠ 15 →
      exec (.eret g) s = .next ((s.readied t h).takeTrap t.core t.slot ⟨5, pcw, 0, 0⟩ [])) ∧
    (size ≤ h.size → (ptrFmt pcw = 0 ∨ ptrFmt pcw = 15) → pcw.toNat % 2 = 1 →
      exec (.eret g) s =
        .next ((s.readied t h).takeTrap t.core t.slot ⟨6, BitVec.ofNat 64 (pcw.toNat % 2 ^ 55), 0, 0⟩ []))

/-- EXIT ends the thread; TASKEND ends it and discards the waiting SPAWN records of its task; YIELD forfeits the next seven
turns; LEVEL sets the level bit (R53, R316, R338, R367, R373). -/
def Obligations.ThreadEnds : Prop :=
  ∀ (g : Guard) (on : Bool) (s : State) (t : Turn) (h : Thread), Running s t h → h.guard g = true →
    let e := (s.readied t h).ended t
    (t.slot ≠ 63 → h.chunk.quiet = true → s.wf →
      exec (.exit g) s = .next (e.endThread t.core t.slot none) ∧
      exec (.taskend g) s = .next ((e.dropSpawns t.core h.task).endThread t.core t.slot none) ∧
      (e.endThread t.core t.slot none).thread? t.core t.slot = none ∧
      (∀ r ∈ ((e.dropSpawns t.core h.task).core t.core).queue, r.task ≠ some h.task) ∧
      (∀ r ∈ ((e.dropSpawns t.core h.task).core t.core).spill, r.task ≠ some h.task)) ∧
    (t.slot ≠ 63 →
      exec (.yield g) s = .next ((s.setThread t.core t.slot { h with status := .turns 7, issued := none }).retire t)) ∧
    exec (.level g on) s =
      .next ((s.setThread t.core t.slot { h with status := .ready, issued := none, level := on }).retire t)

/-- HALTD of virtual device 0: a resume lets the target's slots issue again; a halt stops them at their boundaries, and with
`.drain` completes when the target's engines are idle, DRAINED being set; while a slot is not at a boundary, and with `.drain`
while an engine is not idle, the thread waits, and its request stays the one that it has sent: it reads xa no more, and the core
is not halted again. Another device raises PROTECTION, and a target that is the own core, is fenced or has a reserved bit set
ILLEGAL_OPERAND (R158, R328, R329). That a thread goes on whose target has been released meanwhile is the model's choice.
Model's own readings that it rests on: notes/assumptions, 72. -/
def Obligations.HaltResults : Prop :=
  ∀ (g : Guard) (a : Reg) (drain : Bool) (x : Word) (s : State) (t : Turn) (h : Thread),
    Running s t h → h.guard g = true → s.reads t.core h a x →
    let tgt := x.toNat % 2 ^ 20
    let r := s.readied t h
    let halt := r.modCore tgt (fun k => { k with halted := true, draining := k.draining || drain })
    let waits (k : Thread) (y : Word) : Thread := { k with status := .poll .quiet, issued := some { t.at_ with halt := some y } }
    (t.at_.halt = none → x.toNat < 2 ^ 21 → (s.core tgt).fenced = false → tgt ≠ t.core →
      (h.vdev ≠ 0 → (2 ^ 20 ≤ x.toNat → drain = false) →
        exec (.haltd g a drain) s = .next (r.takeTrap t.core t.slot ⟨7, x, 0, 0⟩ [⟨false, none, 0⟩])) ∧
      (h.vdev = 0 → 2 ^ 20 ≤ x.toNat → drain = false →
        exec (.haltd g a drain) s = .next ((r.modCore tgt (fun k => { k with
          halted := false, stopped := [], drained := false, draining := false })).retire t)) ∧
      (h.vdev = 0 → x.toNat < 2 ^ 20 → halt.haltSlots tgt = none → h.chunk.closing = false →
        exec (.haltd g a drain) s = .next (halt.setThread t.core t.slot (waits h x))) ∧
      (∀ u, h.vdev = 0 → x.toNat < 2 ^ 20 → halt.haltSlots tgt = some u → u.turn = some t →
        (drain = false ∨ (u.core tgt).drained = true) → exec (.haltd g a drain) s = .next (u.retire t)) ∧
      (∀ u, h.vdev = 0 → x.toNat < 2 ^ 20 → halt.haltSlots tgt = some u → u.turn = some t → drain = true →
        (u.core tgt).drained = false → u.enginesIdle tgt = true →
        exec (.haltd g a drain) s =
          .next ((u.modCore tgt (fun k => { k with drained := true, draining := false })).retire t)) ∧
      (∀ u k, h.vdev = 0 → x.toNat < 2 ^ 20 → halt.haltSlots tgt = some u → Running u t k → k.chunk.closing = false →
        drain = true → (u.core tgt).drained = false → u.enginesIdle tgt = false →
        exec (.haltd g a drain) s = .next (u.setThread t.core t.slot (waits k x)))) ∧
    (∀ y : Word, t.at_.halt = some y →
      ((s.core (y.toNat % 2 ^ 20)).halted = false → exec (.haltd g a drain) s = .next (r.retire t)) ∧
      ((s.core (y.toNat % 2 ^ 20)).halted = true → r.haltSlots (y.toNat % 2 ^ 20) = none → h.chunk.closing = false →
        exec (.haltd g a drain) s = .next (s.setThread t.core t.slot (waits h y)))) ∧
    (t.at_.halt = none → 2 ^ 21 ≤ x.toNat ∨ (s.core tgt).fenced = true ∨ tgt = t.core ∨ (2 ^ 20 ≤ x.toNat ∧ drain = true) →
      exec (.haltd g a drain) s = .next (r.takeTrap t.core t.slot ⟨2, x, 0, 0⟩ []))

/-- TICK advances the task's clock by its number, modulo 2^32; BPERIOD becomes the cycles per tick over the last 64 pairs, at
least 1; any stash line that the task governs has its due time crossed: one whose due time lies within the advance is reached,
and one whose slack lies within it too is over (R135-R137, R139, R141). That BPERIOD stays where the clock has not moved over
those pairs, and that a landing handler belongs to no task and its TICK advances no clock, is the model's choice.
Model's own readings that it rests on: notes/assumptions, 11, 80. -/
def Obligations.ClockTick : Prop :=
  ∀ (g : Guard) (n : BitVec 16) (s : State) (t : Turn) (h : Thread) (k : Task),
    Running s t h → h.guard g = true → k = s.task t.core h.task →
    (n = 0 ∨ t.slot = 63 → exec (.tick g n) s = .next (s.stepped t h)) ∧
    (n ≠ 0 → t.slot ≠ 63 →
      let v := (s.readied t h).crossStash t.core (fun e => e.reuse.who == h.task && !e.reuse.clk) (k.bclk.toNat % 2 ^ 15) n.toNat
      let q := k.tick (s.cyc t.core) n.toNat
      let ref := if k.hist.length < 64 then k.start else k.hist.headD k.start
      let ticks := (q.bclk.toNat + 2 ^ 32 - ref.2) % 2 ^ 32
      exec (.tick g n) s = .next ((v.modCore t.core (fun c => { c with tasks := c.tasks.put h.task q })).retire t) ∧
      v.turn = some t ∧ v.thread? t.core t.slot = some { h with status := .ready, issued := none } ∧ v.mem = s.mem ∧
      (∀ c, c ≠ t.core → v.core c = s.core c) ∧
      q.bclk.toNat = (k.bclk.toNat + n.toNat) % 2 ^ 32 ∧ q.limit = k.limit ∧ q.count = k.count ∧
      (k.hist.length ≤ 64 → q.hist = ((k.hist ++ [(s.cyc t.core, q.bclk.toNat)]).reverse.take 64).reverse) ∧
      (ticks ≠ 0 → q.bperiod = max 1 (min (2 ^ 32 - 1) ((s.cyc t.core + 2 ^ 64 - ref.1) % 2 ^ 64 / ticks))) ∧
      (ticks = 0 → q.bperiod = k.bperiod) ∧
      (∀ (i : Nat) (e : Entry), (s.core t.core).stash.find? i = some e →
        (∀ p ∈ (s.core t.core).stash, p.1 = i → p.2 = e) → e.reuse.who = h.task → e.reuse.clk = false →
        ∃ e', (v.core t.core).stash.find? i = some e' ∧ e'.data = e.data ∧
          ((e.reuse.due + 2 ^ 16 - k.bclk.toNat % 2 ^ 15) % 2 ^ 15 ≤ n.toNat → e'.reuse.reached = true) ∧
          ((e.reuse.due + e.reuse.slack + 2 ^ 16 - k.bclk.toNat % 2 ^ 15) % 2 ^ 15 ≤ n.toNat → e'.reuse.isOver = true)) ∧
      (∀ i, (∀ p ∈ (s.core t.core).stash, p.1 = i → p.2.reuse.who ≠ h.task ∨ p.2.reuse.clk = true) →
        (v.core t.core).stash.find? i = (s.core t.core).stash.find? i))

/-- CSRR gives the register that its number names (R111, R312), CYC being the count at the instruction's own turn; CAPK raises
PROTECTION and an unlisted number ILLEGAL_OPERAND. -/
def Obligations.CsrReads : Prop :=
  ∀ (g : Guard) (d : Reg) (s : State) (t : Turn) (h : Thread), Running s t h → h.guard g = true → h.takes d →
    let x := s.ctx t.core h.ctx
    let k := s.task t.core h.task
    (∀ p ∈ ([(0x000, h.flags.setWidth 64), (0x001, BitVec.ofNat 64 h.base), (0x002, BitVec.ofNat 64 h.size),
        (0x003, BitVec.ofNat 64 (k.limit + 2 ^ 8 * k.count)), (0x004, k.bclk.setWidth 64), (0x005, BitVec.ofNat 64 k.bperiod),
        (0x006, x.dist0.setWidth 64), (0x007, BitVec.ofNat 64 (x.cred + 2 ^ 8 * ((255 - x.cred) / 32))),
        (0x008, BitVec.ofNat 64 (s.stashCount t.core h.ctx + 2 ^ 16 * s.sliceCount t.core h.vdev)),
        (0x009, BitVec.ofNat 64 (x.limStash + 2 ^ 16 * x.limSlice)), (0x00A, BitVec.ofInt 64 x.ebud),
        (0x00B, x.erate.setWidth 64), (0x00C, x.uhv), (0x00D, x.ufv), (0x00E, h.fsave), (0x00F, x.synclim.setWidth 64),
        (0x010, BitVec.ofNat 64 x.aqd), (0x011, x.nbind.setWidth 64), (0x012, BitVec.ofNat 64 t.at_.cyc),
        (0x013, if (s.core t.core).drained then 1 else 0)] : List (BitVec 12 × Word)),
      exec (.csrr g d p.1) s = .next (s.result t h d p.2 0)) ∧
    (h.issued = none → (s.turnOf t.core t.slot h t.next).at_.cyc = s.cyc t.core) ∧
    exec (.csrr g d 0x014) s = .next ((s.readied t h).takeTrap t.core t.slot ⟨7, 0x14, 0, 0⟩ []) ∧
    (∀ n : BitVec 12, 0x014 < n.toNat →
      exec (.csrr g d n) s = .next ((s.readied t h).takeTrap t.core t.slot ⟨2, n.setWidth 64, 0, 0⟩ []))

/-- CSRW, CSRS and CSRC replace, set and clear the fields of a register that software may write, and change nothing of any
other: UHV, UFV, DIST0, SYNCLIM, SPLIM's limit and FSAVE; on FLAGS, CSRW and CSRC clear the bits written as 1 and CSRS
changes nothing; NBIND's fields change likewise, but a claim on a port that another context holds stays unbound (R76, R111,
R311, R312). -/
def Obligations.CsrWrites : Prop :=
  ∀ (g : Guard) (a : Reg) (v : Word) (s : State) (t : Turn) (h : Thread),
    Running s t h → h.guard g = true → s.reads t.core h a v →
    let r := s.readied t h
    let x := s.ctx t.core h.ctx
    let writers : List ((BitVec 12 → Instr) × (Word → Word)) :=
      [(.csrw g a, fun _ => v), (.csrs g a, fun old => old ||| v), (.csrc g a, fun old => old &&& ~~~v)]
    (∀ w ∈ writers,
      exec (w.1 0x00C) s = .next ((r.modCtx t.core h.ctx (fun y => { y with uhv := w.2 y.uhv })).retire t) ∧
      exec (w.1 0x00D) s = .next ((r.modCtx t.core h.ctx (fun y => { y with ufv := w.2 y.ufv })).retire t) ∧
      exec (w.1 0x00E) s = .next ((r.setThread t.core t.slot { h with
        status := .ready, issued := none, fsave := w.2 h.fsave &&& 0x007FFFFFFFFFFFC1 }).retire t) ∧
      exec (w.1 0x006) s = .next ((r.modCtx t.core h.ctx (fun y => { y with
        dist0 := (w.2 (y.dist0.setWidth 64)).setWidth 8 })).retire t) ∧
      exec (w.1 0x00F) s = .next ((r.modCtx t.core h.ctx (fun y => { y with
        synclim := (w.2 (y.synclim.setWidth 64)).setWidth 16 })).retire t) ∧
      (∀ n : BitVec 12, n.toNat ∈ [1, 2, 4, 5, 7, 8, 9, 10, 11, 16, 18, 19] →
        exec (w.1 n) s = .next (s.stepped t h)) ∧
      exec (w.1 0x014) s = .next (r.takeTrap t.core t.slot ⟨7, 0x14, 1, 0⟩ []) ∧
      (∀ n : BitVec 12, 0x014 < n.toNat → exec (w.1 n) s = .next (r.takeTrap t.core t.slot ⟨2, n.setWidth 64, 0, 0⟩ []))) ∧
    exec (.csrs g a 0x000) s = .next (s.stepped t h) ∧
    (∀ i, i = .csrw g a 0x000 ∨ i = .csrc g a 0x000 →
      exec i s = .next ((r.setThread t.core t.slot { h with
        status := .ready, issued := none, flags := h.flags &&& ~~~(v.setWidth 6) }).retire t)) ∧
    (∀ k, (s.core t.core).tasks.find? h.task = some k → k.limit < 256 → k.count < 256 →
      ∀ w ∈ writers, ∃ (u : State) (q : Task), exec (w.1 0x003) s = .next (u.retire t) ∧
        (u.core t.core).tasks.find? h.task = some q ∧
        q.limit = (w.2 (BitVec.ofNat 64 (k.limit + 256 * k.count))).toNat % 256 ∧ q.count = k.count ∧ q.bclk = k.bclk) ∧
    ((s.core t.core).ctxs.find? h.ctx = some x → h.ctx ≠ 63 → ∀ w ∈ writers,
      let v := w.2 (x.nbind.setWidth 64)
      ∃ u : State, exec (w.1 0x011) s = .next (u.retire t) ∧ ∃ y, (u.core t.core).ctxs.find? h.ctx = some y ∧
        (∀ p ∈ [0, 1, 2, 3],
          y.nbind.toNat / 2 ^ (8 * p) % 2 ^ 6 = v.toNat / 2 ^ (8 * p) % 2 ^ 6 ∧
          (v.toNat / 2 ^ (8 * p + 7) % 2 = 0 → y.nbind.toNat / 2 ^ (8 * p + 7) % 2 = 0) ∧
          (v.toNat / 2 ^ (8 * p + 7) % 2 = 1 →
            (y.nbind.toNat / 2 ^ (8 * p + 7) % 2 = 1 ↔ x.nbind.toNat / 2 ^ (8 * p + 7) % 2 = 1 ∨
              ∀ q ∈ (s.core t.core).ctxs, q.1 ≠ h.ctx → q.2.nbind.toNat / 2 ^ (8 * p + 7) % 2 = 0))))

/-- PLBW sets the context's mask of a domain; PINC and PDEC note a change of the frame's program pin count that takes effect
when the chunk commits, once the read right and the frame's ownership hold; while the frame migrates a PINC waits, and a PDEC
lowers the count that the migration waits for (R201); the count sticks at 65,535 and at 0 (R194). -/
def Obligations.MasksAndPins : Prop :=
  ∀ (g : Guard) (a b : Reg) (x y : Word) (s s1 : State) (t : Turn) (h h1 : Thread),
    Running s t h → h.guard g = true → s.reads t.core h a x → s.reads t.core h b y →
    (x.toNat < 2 ^ 16 → y.toNat < 8 →
      ∃ u : State, exec (.plbw g a b) s = .next (u.retire t) ∧
        (∀ k, (s.core t.core).ctxs.find? h.ctx = some k →
          ∃ q, (u.core t.core).ctxs.find? h.ctx = some q ∧ q.masks.get x.toNat 7 = BitVec.ofNat 3 y.toNat ∧
            ∀ n, n ≠ x.toNat → q.masks.get n 7 = k.masks.get n 7) ∧
        (∀ e ∈ (u.core t.core).plb, e.1 = h.ctx → e.2.1 ≠ x.toNat) ∧ u.mem = s.mem) ∧
    (2 ^ 16 ≤ x.toNat → exec (.plbw g a b) s = .next ((s.readied t h).takeTrap t.core t.slot ⟨2, x, 0, 0⟩ [])) ∧
    (∀ (p : Word) (l : Leaf) (up : Bool), p = x → ptrFormatBad (ptrFmt p) (ptrL p) = false →
      let addr := if ptrFmt p = 7 then ptrAddr p / 2 else ptrAddr p
      let fr := s.granule (l.phys addr / 4096)
      s.translate t.core h.vdev addr = .ok l →
      (checkLines t.core h.ctx h.vdev .r [(addr / 64, p)] true).run (s.readied t h) = .ok ([.home l], s1) →
      Running s1 t h1 → s1.granules = s.granules → fr.valid = true → fr.owner = h.vdev →
      (up = true → s1.frameMoving l = true →
        exec (.pinc g a) s = .next (s.setThread t.core t.slot { h with status := .poll .quiet, issued := some t.at_ })) ∧
      ((up = true → s1.frameMoving l = false) →
      exec (if up then .pinc g a else .pdec g a) s = .next ((s1.setThread t.core t.slot { h1 with
        chunk := { h1.chunk with pins := h1.chunk.pins ++ [(l.pa, up)] } }).retire t))) ∧
    (∀ (p : Word) (l : Leaf), p = x → ptrFormatBad (ptrFmt p) (ptrL p) = false →
      let addr := if ptrFmt p = 7 then ptrAddr p / 2 else ptrAddr p
      let fr := s.granule (l.phys addr / 4096)
      s.translate t.core h.vdev addr = .migrating → s.oldLeaf h.vdev addr = some l →
      exec (.pinc g a) s = .next (s.setThread t.core t.slot { h with status := .poll .quiet, issued := some t.at_ }) ∧
      (Need.ok .r (s.rights t.core h.ctx l.domain) = true → s.ownerOk t.core h.vdev (l.phys addr) = true → fr.valid = true →
        fr.owner = h.vdev →
        exec (.pdec g a) s = .next ((s.setThread t.core t.slot { h with
          status := .ready
          issued := none
          chunk := { h.chunk with pins := h.chunk.pins ++ [(l.pa, false)] } }).retire t))) ∧
    (∀ fr, let n := ((s.pins.get fr ⟨0, 0⟩).program)
      ((s.pinProgram fr true).pins.get fr ⟨0, 0⟩).program = (if n = 65535 then 65535 else n + 1) ∧
      ((s.pinProgram fr false).pins.get fr ⟨0, 0⟩).program = (if n = 65535 then 65535 else n - 1) ∧
      ((s.pinProgram fr true).pins.get fr ⟨0, 0⟩).engine = (s.pins.get fr ⟨0, 0⟩).engine)

/-! ## Exceptions -/

/-- What taking an exception does (R82, R202-R208): the chunk commits first; inside a handler the thread ends with the cause;
PROTECTION, POISON, SYNC_LIMIT and SOFT ask for UHV with their details, the PC staying at the instruction, and end the thread
where UHV is 0; every other cause is an upcall, which ends the thread where UFV is 0 or FSAVE is not armed, and else saves
the fibre, disarms FSAVE, clears FLAGS, gives x0-x2 the area, the cause and detail 1, and goes on at UFV; where its save area
has to wait, the thread holds the trap, and its next turn makes the upcall. That the synchronous cause goes before those that
wait already is the model's choice.
Model's own readings that it rests on: notes/assumptions, 10, 58. -/
def Obligations.TrapsAreTaken : Prop :=
  ∀ (s u : State) (c i cause : Nat) (d1 d2 d3 : Word) (h k : Thread), s.thread? c i = some h → i ≠ 63 →
    let x := s.ctx c h.ctx
    let a := h.fsave.toNat / 64 % 2 ^ 49 * 64
    let uhvCause := cause = 7 ∨ cause = 9 ∨ cause = 10 ∨ cause = 17
    (h.chunk.quiet = false → s.takeTrap c i ⟨cause, d1, d2, d3⟩ [] = s.closeChunk c i) ∧
    (s.wf → h.chunk.quiet = true → h.handler = true ∨ (uhvCause ∧ x.uhv = 0) ∨
        (¬ uhvCause ∧ (x.ufv = 0 ∨ h.fsave.toNat % 2 = 0)) →
      (s.takeTrap c i ⟨cause, d1, d2, d3⟩ []).thread? c i = none) ∧
    (h.chunk.quiet = true → h.handler = false → uhvCause → x.uhv ≠ 0 →
      ∃ q, (s.takeTrap c i ⟨cause, d1, d2, d3⟩ []).thread? c i = some q ∧ q.pc = h.pc ∧ q.preds = h.preds ∧
        q.flags = h.flags ∧ q.pending = ⟨cause, false, d1, d2, d3, true⟩ :: h.pending ∧
        i ∈ ((s.takeTrap c i ⟨cause, d1, d2, d3⟩ []).core c).wanting) ∧
    (h.chunk.quiet = true → h.handler = false → ¬ uhvCause → x.ufv ≠ 0 → h.fsave.toNat % 2 = 1 →
      let e := ((s.giveBack c i).commitQuiet c i).newChunk c i
      (e.thread? c i = some k → (saveArea c i k a ([BitVec.ofNat 64 (15 * 2 ^ 59 + h.pc.toNat),
          BitVec.ofNat 64 (h.preds.toNat + h.size * 2 ^ 16 + cause * 2 ^ 24 + h.flags.toNat * 2 ^ 32), d1, d2, d3, 0, 0, 0] ++
          e.window c k)).run e = .ok ((), u) →
        let k' : Thread := { k with
          fsave := h.fsave - 1, flags := 0, pc := BitVec.ofNat 55 (x.ufv.toNat % 2 ^ 55), status := .ready
          raised := none, issued := none }
        let v := (u.setThread c i k').setRegs c h.base ([BitVec.ofNat 64 a, BitVec.ofNat 64 cause, d1].take h.size)
        v.entryTrap c k' x.ufv = none →
        s.takeTrap c i ⟨cause, d1, d2, d3⟩ [] = v.newChunk c i) ∧
      (e.thread? c i = some k → (∃ w, (saveArea c i k a (saveWords k ⟨cause, d1, d2, d3⟩ (e.window c k))).run e = .error (.wait w)) →
        s.takeTrap c i ⟨cause, d1, d2, d3⟩ [] = e.setThread c i { k with raised := some ⟨cause, d1, d2, d3⟩ } ∧
        ({ k with raised := some ⟨cause, d1, d2, d3⟩ } : Thread).atBoundary = false ∧
        (e.takesTurns c i { k with raised := some ⟨cause, d1, d2, d3⟩ } = true →
          e.idleTurn c i { k with raised := some ⟨cause, d1, d2, d3⟩ } = e.upcall c i ⟨cause, d1, d2, d3⟩)))

/-- USER_HANDLER_ENTRY: the first waiting thread at a boundary enters UHV when the shadow set is free: the set takes its PC,
its predicate word and the cause, h0 the cause with the hand-back bit and h1-h3 the details, h4-h7 zeros where another device
left the set, and the PC is UHV's address; a thread whose chunk has read or written has it commit first; one that an
eviction interrupted in a handler takes the set again (R82, R144, R202, R261). That the first of those at a boundary enters,
whoever asked before it, is the model's choice.
Model's own readings that it rests on: notes/assumptions, 77, 78. -/
def Obligations.HandlersAreEntered : Prop :=
  ∀ (s : State) (core : CoreId) (i : Nat) (h : Thread) (q : Irq) (rest : List Irq),
    let c := core.toNat
    let uhv := (s.ctx c h.ctx).uhv
    (s.core c).shadow.holder = none → (s.core c).halted = false →
    (s.core c).wanting.find? (s.mayEnter c) = some i → s.thread? c i = some h →
    (h.saved = none → h.chunk.quiet = true → h.pending = q :: rest → uhv ≠ 0 →
      let k : Thread := { h with
        handler := true, pending := rest, pc := BitVec.ofNat 55 (uhv.toNat % 2 ^ 55), status := .ready
        after := if q.cause = 10 then none else h.after
        chunk := { h.chunk with held := [], pins := [] } }
      let hs := if (s.core c).shadow.last = some h.vdev then (s.core c).shadow.h else [0, 0, 0, 0, 0, 0, 0, 0]
      let v := ((s.commitQuiet c i).modCore c (fun p => { p with
        shadow := ⟨some i, some h.vdev, [BitVec.ofNat 64 (q.cause % 256 + if q.back then 256 else 0), q.h1, q.h2, q.h3] ++
          hs.drop 4, h.pc, h.after.getD h.following, h.preds, q.cause⟩
        wanting := p.wanting.erase i })).setThread c i k
      v.entryTrap c k uhv = none → exec (.userHandlerEntry core) s = .next (v.newChunk c i)) ∧
    (h.saved = none → h.chunk.quiet = false → exec (.userHandlerEntry core) s = .next (s.closeChunk c i)) ∧
    (∀ sh, h.saved = some sh → ∃ u k, exec (.userHandlerEntry core) s = .next u ∧
      (u.core c).shadow = { sh with holder := some i, last := some h.vdev } ∧ u.thread? c i = some k ∧ k.saved = none ∧
      k.pc = h.pc ∧ k.handler = h.handler ∧ u.mem = s.mem)

/-! ## Loads, stores and the stash -/

/-- A load's value (R50, R335): INT formats sign-extended, UINT formats and no format zero-extended, FP formats below FP32
converted to FP32 exactly, FP32 and `.raw` as they stand, a BFP element its value in FP32. -/
def Spec.loaded (fmt : Nat) (raw odd : Bool) (n e0 e1 : Nat) : Word :=
  if fmt = 6 ∨ fmt = 7 then
    let bits := if fmt = 6 then n else if odd then n / 16 else n % 16
    if raw then BitVec.ofNat 64 bits
    else BitVec.ofNat 64
      (roundVal .fp32 .ne false (bfpVal (fmt == 6) bits (if bfpSel (fmt == 6) bits then e1 else e0))).1
  else if raw then BitVec.ofNat 64 n
  else match fmt with
    | 2 | 3 | 4 | 5 => BitVec.ofNat 64 (convFloat .fp32 (codeFmt fmt) .ne false n).1
    | 8 => (BitVec.ofNat 8 n).signExtend 64
    | 9 => (BitVec.ofNat 16 n).signExtend 64
    | 10 => (BitVec.ofNat 32 n).signExtend 64
    | _ => BitVec.ofNat 64 n

/-- LD completes with the value of the element that its operand names once its lines may be read, LDP with two words; an
element that is not aligned and a reserved format trap; a load whose line has to be waited for leaves the thread waiting for
its home; a load into a port takes its value whether or not the neighbour has room, and the word waits for the chunk's commit and
for that room (R48-R50, R120, R145, R334-R337).
Model's own readings that it rests on: notes/assumptions, 18, 30. -/
def Obligations.LoadResults : Prop :=
  ∀ (g : Guard) (d b : Reg) (m : MMod) (nu : BitVec 8) (off : BitVec 16) (p : Word) (s s1 : State) (t : Turn)
    (h h1 : Thread) (rs : List (Nat × Nat)) (bs : List (List Byte)) (w : List Byte),
    Running s t h → h.guard g = true → s.reads t.core h b p → Running s1 t h1 →
    let r := memRef p off m.fo.toNat
    let use := Spec.use s t nu.toNat
    (h.takes d → ptrFmt p < 16 → ptrFormatBad r.fmt r.l = false → r.ranges m.raw = some rs →
      (loadRanges r.ptr rs use).run (s.readied t h) = .ok (bs, s1) →
      exec (.ld g d b m nu off) s = .next ((s1.put t.core h1 d (Spec.loaded r.fmt m.raw (r.at_ % 2 == 1)
        (leNat (bs.getD 0 [])) ((bs.getD 1 []).getD 0 0).toNat ((bs.getD 1 []).getD 1 0).toNat)).retire t)) ∧
    (h.takes d → ptrFmt p < 16 → ptrFormatBad r.fmt r.l = false → r.ranges m.raw = some rs → h.chunk.closing = false →
      (∃ o, (loadRanges r.ptr rs use).run (s.readied t h) = .error (.wait o)) →
      exec (.ld g d b m nu off) s =
        .next (s.setThread t.core t.slot { h with status := .home (.load d r.ptr r.fmt m.raw use), issued := none, asked := s.now })) ∧
    (∀ q : Dir, d = .port q → s.portDead t.core t.slot h q = false → ptrFmt p < 16 → ptrFormatBad r.fmt r.l = false →
      r.ranges m.raw = some rs → (loadRanges r.ptr rs use).run (s.readied t h) = .ok (bs, s1) →
      exec (.ld g d b m nu off) s = .next ((s1.setThread t.core t.slot { h1 with
        status := .port q (Spec.loaded r.fmt m.raw (r.at_ % 2 == 1) (leNat (bs.getD 0 []))
          ((bs.getD 1 []).getD 0 0).toNat ((bs.getD 1 []).getD 1 0).toNat)
        chunk := { h1.chunk with closing := true } }).chunkOver t.core t.slot)) ∧
    (h.takes d → ptrFmt p ≥ 16 ∨ ptrFormatBad r.fmt r.l = true →
      exec (.ld g d b m nu off) s = .next ((s.readied t h).takeTrap t.core t.slot ⟨5, r.ptr, 0, 0⟩ [])) ∧
    (h.takes d → ptrFmt p < 16 → ptrFormatBad r.fmt r.l = false → r.fmt ≠ 6 → r.fmt ≠ 7 → r.at_ % elemSize r.fmt ≠ 0 →
      exec (.ld g d b m nu off) s = .next ((s.readied t h).takeTrap t.core t.slot
        ⟨6, BitVec.ofNat 64 (r.ptr.toNat % 2 ^ 55), 0, 0⟩ [])) ∧
    (∀ n : BitVec 7, n.toNat + 2 ≤ h.size → d = .x n → ptrFmt p < 16 → ptrFmt p ≠ 6 → ptrFmt p ≠ 7 →
      let q := mkPtr (ptrFmt p) (ptrL p) (((ptrAddr p : Int) + off.toInt) % 2 ^ 55).toNat
      ptrAddr q % 16 = 0 → (loadBytes q (ptrAddr q) 16 use).run (s.readied t h) = .ok (w, s1) → w.length = 16 →
      exec (.ldp g d b nu off) s = .next (((s1.setReg t.core (h1.base + n.toNat) (BitVec.ofNat 64 (leNat (w.take 8)))).setReg
        t.core (h1.base + (n.toNat + 1)) (BitVec.ofNat 64 (leNat (w.drop 8)))).retire t))

/-- A load of lines that the core's stash does not map, whose page is mapped, readable, owned and clean at its home, gives
the home's bytes and leaves every byte of memory as it is (R120, R193, R195, R200): the premises of LoadResults are met by
it. Stated of one line whose home holds no copy elsewhere and whose slice holds the line. -/
def Obligations.HomeLoadBytes : Prop :=
  ∀ (ptr : Word) (a n : Nat) (use : Use) (s : State) (t : Turn) (h : Thread) (l : Leaf),
    Running s t h → t.slot ≠ 63 → h.chunk.held = [] → 0 < n → a % 64 + n ≤ 64 → a < 2 ^ 55 → ptr.toNat % 2 ^ 55 = a →
    (s.core t.core).window = none → s.stashFind t.core (a / 64) = none →
    s.translate t.core h.vdev (64 * (a / 64)) = .ok l → (s.rights t.core h.ctx l.domain).getLsbD 0 = true →
    let pl := l.phys (64 * (a / 64)) / 64
    l.phys (64 * (a / 64)) % 64 = 0 → s.ownerOk t.core h.vdev (64 * pl) = true → (s.dirOf pl) = ⟨[], [], [], false, none⟩ →
    (s.sliceFind pl).isSome = true → s.soft = [] → s.metaBad = [] → (s.metaOf pl).poison = false →
    ∃ u, (loadBytes ptr a n use).run s = .ok (memRead s.mem (64 * pl + a % 64) n, u) ∧ u.mem = s.mem ∧ u.turn = some t ∧
      (∀ e, u.reg t.core e = s.reg t.core e)

/-- ST and STP hold their bytes until the chunk commits, and leave every byte of memory alone: the stored bytes are the
element's low bytes, an FP format below FP32 converted once from FP32 with its flags, a BFP4 nibble one half of its byte
(R144, R146, R362, R363); a BFP format without `.raw` is ILLEGAL_OPERAND. Stated of a store into one line that the core's
stash does not map.
Model's own readings that it rests on: notes/assumptions, 18. -/
def Obligations.StoreResults : Prop :=
  ∀ (g : Guard) (d b : Reg) (m : MMod) (nu : BitVec 8) (off : BitVec 16) (p v : Word) (s s1 : State) (t : Turn)
    (h : Thread) (ws : List Where),
    Running s t h → h.guard g = true → s.reads t.core h b p → t.slot ≠ 63 → (s.core t.core).window = none →
    (let r := memRef p off m.fo.toNat
     let size := if r.fmt = 7 then 1 else elemSize r.fmt
     let f := if 2 ≤ r.fmt ∧ r.fmt ≤ 5 ∧ m.raw = false then
       (convFloat (codeFmt r.fmt) .fp32 .ne false (v.toNat % 2 ^ 32)) else (v.toNat, 0)
     let bytes := if r.fmt = 7 then
         (if r.at_ % 2 = 1 then [(BitVec.ofNat 8 (v.toNat % 16 * 16), 2)] else [(BitVec.ofNat 8 (v.toNat % 16), 1)])
       else (leBytes size f.1).map (fun x => (x, 3))
     s.reads t.core h d v → ptrFmt p < 16 → ptrFormatBad r.fmt r.l = false →
     (∀ rs a k, r.ranges true = some rs → rs = [(a, k)] → ((r.fmt = 6 ∨ r.fmt = 7) → m.raw = true) →
       a < 2 ^ 55 → s.stashFind t.core (a / 64) = none →
       let s0 := s.setThread t.core t.slot { h with status := .ready, issued := none, flags := h.flags ||| f.2 }
       (checkLines t.core h.ctx h.vdev .w [(a / 64, r.ptr)] (held := true)).run s0 = .ok (ws, s1) →
       s.outside t.core (h.chunk.wset ++ (if h.chunk.wset.contains (a / 64) then [] else [a / 64])) ≤ 64 →
       (∀ x ∈ ws, ∃ l, x = .home l) →
       exec (.st g d b m nu off) s = .next ((s1.setThread t.core t.slot { h with
         status := .ready, issued := none, flags := h.flags ||| f.2
         chunk := { h.chunk with
           wset := h.chunk.wset ++ (if h.chunk.wset.contains (a / 64) then [] else [a / 64])
           held := h.chunk.held ++ [⟨a, bytes, t.at_.use nu.toNat, false⟩] } }).retire t) ∧ s1.mem = s.mem) ∧
     ((r.fmt = 6 ∨ r.fmt = 7) → m.raw = false →
       exec (.st g d b m nu off) s = .next ((s.readied t h).takeTrap t.core t.slot ⟨2, BitVec.ofNat 64 r.fmt, 0, 0⟩ []))) ∧
    (∀ n : BitVec 7, n.toNat + 2 ≤ h.size → d = .x n → ptrFmt p < 16 → ptrFmt p ≠ 6 → ptrFmt p ≠ 7 →
      s.reads t.core h (.x n) (s.reg t.core (h.base + n.toNat)) →
      h.base + (n.toNat + 1) ∉ (s.core t.core).regPoison → h.base + (n.toNat + 1) ∉ (s.core t.core).regSoft →
      let q := mkPtr (ptrFmt p) (ptrL p) (((ptrAddr p : Int) + off.toInt) % 2 ^ 55).toNat
      ptrAddr q % 16 = 0 → s.stashFind t.core (ptrAddr q / 64) = none →
      (checkLines t.core h.ctx h.vdev .w [(ptrAddr q / 64, q)] (held := true)).run (s.readied t h) = .ok (ws, s1) →
      s.outside t.core (h.chunk.wset ++
        (if h.chunk.wset.contains (ptrAddr q / 64) then [] else [ptrAddr q / 64])) ≤ 64 →
      (∀ x ∈ ws, ∃ l, x = .home l) →
      exec (.stp g d b nu off) s = .next ((s1.setThread t.core t.slot { h with
        status := .ready, issued := none
        chunk := { h.chunk with
          wset := h.chunk.wset ++ (if h.chunk.wset.contains (ptrAddr q / 64) then [] else [ptrAddr q / 64])
          held := h.chunk.held ++ [⟨ptrAddr q, (leBytes 8 (s.reg t.core (h.base + n.toNat)).toNat ++
            leBytes 8 (s.reg t.core (h.base + (n.toNat + 1))).toNat).map (fun x => (x, 3)),
            t.at_.use nu.toNat, false⟩] } }).retire t) ∧ s1.mem = s.mem)

/-- PREF, SMAP, SWB and SDROP complete (R124, R355): PREF whatever comes of its access, never trapping on its address, and left at
its home where its line cannot be had yet; in a landing handler it traps, which is the model's choice; SMAP
once the read right of every mapped page holds, each line then being mapped, a new one as an unfilled entry, private at
`.core`; SWB and SDROP with the entries that the context may act on written back or freed. A count beyond 512, BFP4 and an
unaligned range trap, the detail of MISALIGN being the address without its tag, which is the model's choice.
Model's own readings that it rests on: notes/assumptions, 11, 30. -/
def Obligations.StashRangeResults : Prop :=
  ∀ (g : Guard) (a b : Reg) (p n : Word) (nu : BitVec 8) (off : BitVec 16) (sc : MapScope) (ws : WbScope) (s u : State)
    (t : Turn) (h : Thread),
    Running s t h → h.guard g = true → s.reads t.core h a p → s.reads t.core h b n →
    let e := (s.readied t h).ended t
    let gls := rangeOf (ptrAddr p / 64) n.toNat
    let ok := n.toNat ≤ 512 ∧ ptrFormatBad (ptrFmt p) (ptrL p) = false ∧ ptrFmt p ≠ 7 ∧ ptrAddr p % 64 = 0
    let use := Spec.use s t nu.toNat
    let used := gls.foldl (fun v gl => match e.translate t.core h.vdev (64 * gl) with
      | .ok x => v.useLeaf t.core x
      | _ => v) e
    let mapped := gls.foldl (fun (v : Option State) gl => v.bind (fun v => match v.stashFind t.core gl with
      | some (i, _) => some (v.rearm t.core i h.task use)
      | none => (v.mapLine t.core gl h.ctx (sc == .core) (match e.translate t.core h.vdev (64 * gl) with
          | .ok x => x.domain
          | _ => 0) use.clock (codeDist use.code) h.task false).map Prod.fst)) (some used)
    (t.slot ≠ 63 → (prefetch p off nu.toNat).run (s.readied t h) = .ok ((), u) → u.turn = some t →
      exec (.pref g a nu off) s = .next (u.retire t)) ∧
    (t.slot ≠ 63 → (∃ o, (prefetch p off nu.toNat).run (s.readied t h) = .error (.wait o)) →
      exec (.pref g a nu off) s = .next (((s.readied t h).modCore t.core (fun k => { k with
        prefs := k.prefs ++ [⟨h.ctx, h.task, h.vdev, (memRef p off 0).ptr, use⟩] })).retire t)) ∧
    (∀ x, t.slot ≠ 63 → (prefetch p off nu.toNat).run (s.readied t h) = .error x → (∀ o, x ≠ .wait o) →
      exec (.pref g a nu off) s = .next (s.stepped t h)) ∧
    (t.slot = 63 → ∃ d1, exec (.pref g a nu off) s = .next ((s.readied t h).takeTrap t.core t.slot ⟨1, d1, 0, 0⟩ [])) ∧
    (h.chunk.quiet = true → ok →
      ((∀ gl ∈ gls, (∃ r, e.translate t.core h.vdev (64 * gl) = .fault r) ∨
          ∃ x, e.translate t.core h.vdev (64 * gl) = .ok x ∧ (s.rights t.core h.ctx x.domain).getLsbD 0 = true) →
        mapped = some u → u.turn = some t → exec (.smap g a b sc nu) s = .next (u.retire t)) ∧
      ((eachEntry gls (fun c i => orWait (fun s => s.writeBack c i))).run e = .ok ((), u) → u.turn = some t →
        exec (.swb g a b ws) s = .next (u.retire t)) ∧
      ((eachEntry gls (fun c i => orWait (fun s => s.freeEntry c i))).run e = .ok ((), u) → u.turn = some t →
        exec (.sdrop g a b) s = .next (u.retire t))) ∧
    (∀ i, i = .smap g a b sc nu ∨ i = .swb g a b ws ∨ i = .sdrop g a b →
      (512 < n.toNat → exec i s = .next ((s.readied t h).takeTrap t.core t.slot ⟨2, n, 0, 0⟩ [])) ∧
      (n.toNat ≤ 512 → ptrFmt p = 7 → exec i s = .next ((s.readied t h).takeTrap t.core t.slot ⟨5, p, 0, 0⟩ [])) ∧
      (n.toNat ≤ 512 → ptrFormatBad (ptrFmt p) (ptrL p) = false → ptrFmt p ≠ 7 → ptrAddr p % 64 ≠ 0 →
        exec i s = .next ((s.readied t h).takeTrap t.core t.slot ⟨6, BitVec.ofNat 64 (p.toNat % 2 ^ 55), 0, 0⟩ []))) ∧
    (∀ (v w : State) (c gl x i dom now who : Nat) (priv clk : Bool) (dd : Option Nat),
      v.mapLine c gl x priv dom now dd who clk = some (w, i) → ∃ y, (w.core c).stash.find? i = some y ∧ y.line = gl ∧
        y.ctx = x ∧ y.priv = priv ∧ y.st = .unfilled ∧ y.domain = dom ∧ y.owner = none)

/-! ## Operations that a home performs -/

/-- The state in which an operation that its home has performed gives its result: its chunk ends with it (R145). -/
def Spec.answered (s : State) (t : Turn) (h : Thread) : State :=
  s.setThread t.core t.slot { h with chunk := { h.chunk with closing := true } }

/-- The atomics (R237, R293, R294, R296): the word at the home becomes the operation's result and the destination takes the
old word; AADDC that would pass its limit changes nothing and returns the old word with bit 63 set. Every byte of memory
outside the word is left alone by the operation itself. -/
def Obligations.AtomicResults : Prop :=
  ∀ (g : Guard) (d b x : Reg) (off : BitVec 16) (p v w : Word) (s s1 s2 : State) (t : Turn) (h k : Thread) (pa : Nat),
    Running s t h → h.guard g = true → h.chunk.quiet = true → h.takes d → s.reads t.core h b p →
    ptrFmt p < 16 → ptrFmt p ≠ 6 → ptrFmt p ≠ 7 →
    let q := mkPtr (ptrFmt p) (ptrL p) (((ptrAddr p : Int) + off.toInt) % 2 ^ 55).toNat
    ptrAddr q % 8 = 0 →
    (homeWord .rw q).run ((s.readied t h).ended t) = .ok (pa, s1) →
    (atHome ((⟨t.core, h.ctx, h.task, h.vdev, Spec.use s t 255⟩ : Who).rq q 0) pa).run s1 = .ok ((), s2) →
    let u := s2.squashMeeting t.core t.slot [ptrAddr q / 64]
    Running u t k →
    let old := u.wordAt pa
    let after (z w : Word) : State := (((Spec.answered ((u.putWord pa z).wrote (pa / 64)) t k).put t.core k d w).retire t)
    (s.reads t.core h x v →
      ∀ o ∈ ([(.aadd g d b x off, old + v), (.aand g d b x off, old &&& v), (.aor g d b x off, old ||| v),
          (.axor g d b x off, old ^^^ v), (.amin g d b x off, if v.toInt < old.toInt then v else old),
          (.amax g d b x off, if old.toInt < v.toInt then v else old), (.aswap g d b x off, v)] : List (Instr × Word)),
        exec o.1 s = .next (after o.2 old)) ∧
    (∀ n : BitVec 7, x = .x n → n.toNat + 2 ≤ h.size → s.reads t.core h x v →
      h.base + (n.toNat + 1) ∉ (s.core t.core).regPoison → h.base + (n.toNat + 1) ∉ (s.core t.core).regSoft →
      w = s.reg t.core (h.base + (n.toNat + 1)) →
      exec (.acas g d b x off) s = .next (after (if old = v then w else old) old) ∧
      exec (.aaddc g d b x off) s =
        .next (if old.toNat + v.toNat ≤ w.toNat then after (old + v) old
          else after old (BitVec.ofNat 64 (old.toNat % 2 ^ 63 + 2 ^ 63)))) ∧
    (∀ z : Word, memWf u.mem = true → (u.putWord pa z).wordAt pa = z ∧
      ∀ a, a < pa ∨ pa + 8 ≤ a → memGet (u.putWord pa z).mem a = memGet u.mem a)

/-- The sync operations and WAITC where their word lets them (R126-R129, R180): LDS takes a full word and empties it, STS
fills an empty one, LDF reads a full one and leaves its destination alone at an empty one, FEC and FEF set the bit, WAITC goes
on at a count that has been reached. Where the word does not let LDS, STS or WAITC, a SYNCLIM of 0 at its issue raises
SYNC_LIMIT with the operation in detail 3, and else the operation parks at the home with the limit of its issue (R168). -/
def Obligations.SyncResults : Prop :=
  ∀ (g : Guard) (d b : Reg) (nu : BitVec 8) (off : BitVec 16) (p v : Word) (s s1 s2 : State) (t : Turn) (h k : Thread)
    (pa : Nat) (o : SyncOp) (i : Instr),
    Running s t h → h.guard g = true → h.chunk.quiet = true → t.slot ≠ 63 → s.reads t.core h b p →
    ptrFmt p < 16 → ptrFmt p ≠ 6 → ptrFmt p ≠ 7 →
    let q := mkPtr (ptrFmt p) (ptrL p) (((ptrAddr p : Int) + off.toInt) % 2 ^ 55).toNat
    ptrAddr q % 8 = 0 →
    (o, i) ∈ [(SyncOp.lds, Instr.lds g d b nu off), (.sts, .sts g d b nu off), (.ldf, .ldf g d b nu off),
      (.fec, .fec g b nu off), (.fef, .fef g b nu off)] ∨
      (off = 0 ∧ nu = 255 ∧ o = .waitc ∧ i = .waitc g b d) →
    ((o = .sts ∨ o = .waitc) → s.reads t.core h d v) → h.takes d →
    (homeWord (match o with | .lds => .rw | .ldf | .waitc => .r | _ => .w) q).run ((s.readied t h).ended t) = .ok (pa, s1) →
    (atHome ((⟨t.core, h.ctx, h.task, h.vdev, t.at_.use nu.toNat⟩ : Who).rq q
      (match o with | .lds | .ldf | .waitc => 0 | _ => 1)) pa).run s1 = .ok ((), s2) →
    Running s2 t k →
    let seen (u : State) : State :=
      (u.unrefuse t.core t.slot).squashMeeting t.core t.slot [ptrAddr q / 64]
    let done (u : State) : State := Spec.answered (seen u) t k
    (o = .lds → s2.full pa = true →
      exec i s = .next (((done ((s2.setFull pa false).wrote (pa / 64))).put t.core k d (s2.wordAt pa)).retire t)) ∧
    (o = .sts → s2.full pa = false →
      exec i s = .next ((done (((s2.putWord pa v).setFull pa true).wrote (pa / 64))).retire t)) ∧
    (o = .ldf → s2.full pa = true → exec i s = .next (((done s2).put t.core k d (s2.wordAt pa)).retire t)) ∧
    (o = .ldf → s2.full pa = false → exec i s = .next ((done s2).retire t)) ∧
    (o = .fec → exec i s = .next ((done ((s2.setFull pa false).wrote (pa / 64))).retire t)) ∧
    (o = .fef → exec i s = .next ((done ((s2.setFull pa true).wrote (pa / 64))).retire t)) ∧
    (o = .waitc → v.toNat ≤ (s2.wordAt pa).toNat → exec i s = .next ((done s2).retire t)) ∧
    ((o = .lds ∧ s2.full pa = false) ∨ (o = .sts ∧ s2.full pa = true) ∨
        (o = .waitc ∧ (s2.wordAt pa).toNat < v.toNat) →
      let limit := t.at_.limit
      (limit = 0 → exec i s = .next ((s.readied t h).takeTrap t.core t.slot
        ⟨10, q, 0, match o with | .sts => 1 | .waitc => 2 | _ => 0⟩ [])) ∧
      (∀ n, limit ≠ 0 → (s2.core (homeOf pa)).refusals = [] → (s2.core (homeOf pa)).park.length < 16 →
        (s2.core (homeOf pa)).park.free 16 = some n →
        ∃ u y, exec i s = .next u ∧ u.thread? t.core t.slot = some y ∧ y.pc = h.pc ∧
          (∃ dd vv, y.status = .parked (.sync o dd q vv limit (t.at_.use nu.toNat))) ∧
          (u.core (homeOf pa)).park.find? n = some ⟨t.core, t.slot, pa, 0, limit, s2.now + 64⟩ ∧ u.mem = s2.mem)) ∧
    (∀ z : State, ∀ bit : Bool, (z.setFull pa bit).full pa = bit ∧ (z.setFull pa bit).mem = z.mem)

/-- JOIN takes 1 from a count above 1 and leaves a count of 0 alone, its predicate 0 in both cases; at 1 it stores 0, gives
predicate 1 and sends the record that follows the count to the dispatch core of its data address (R59, R61, R65, R260,
R333). A record that fails its checks traps with the address of the count, which is given without its tag: that is the model's
choice.
Model's own readings that it rests on: notes/assumptions, 30. -/
def Obligations.JoinResults : Prop :=
  ∀ (g : Guard) (pd : BitVec 4) (a : Reg) (p : Word) (s s1 s2 s3 : State) (t : Turn) (h k : Thread) (pa home : Nat),
    Running s t h → h.guard g = true → h.chunk.quiet = true → s.reads t.core h a p →
    ptrFmt p < 16 → ptrFmt p ≠ 6 → ptrFmt p ≠ 7 → ptrAddr p % 64 = 0 →
    (homeWord .rw p).run ((s.readied t h).ended t) = .ok (pa, s1) →
    (atHome ((⟨t.core, h.ctx, h.task, h.vdev, Spec.use s t 255⟩ : Who).rq p 0) pa).run s1 = .ok ((), s2) →
    let u := s2.squashMeeting t.core t.slot [ptrAddr p / 64]
    Running u t k →
    let n := u.wordAt pa
    let rec_ := leWords (memRead u.mem (pa + 32) 32) 4
    let told (b : Bool) : Thread := ({ k with chunk := { k.chunk with closing := true } } : Thread).setPred pd b
    (2 ≤ n.toNat → exec (.join g pd a) s =
      .next ((((u.putWord pa (n - 1)).wrote (pa / 64)).setThread t.core t.slot (told false)).retire t)) ∧
    (n = 0 → exec (.join g pd a) s = .next ((u.setThread t.core t.slot (told false)).retire t)) ∧
    (n = 1 → recordBad rec_ = none → (homeOfData (rec_.getD 1 0)).run u = .ok (home, s3) → s3.turn = some t →
      let r := recordOf rec_ h.launch h.vdev
      let v := ((s3.putWord pa 0).wrote (pa / 64)).send (.task (s3.recordCore t.core home) { r with movable := r.movable || h.level }) (homeOf pa)
      v.thread? t.core t.slot = some k →
      exec (.join g pd a) s = .next ((v.setThread t.core t.slot (told true)).retire t)) ∧
    (n = 1 → ∀ cause w, recordBad rec_ = some (cause, w) →
      exec (.join g pd a) s = .next ((s.readied t h).takeTrap t.core t.slot ⟨cause, BitVec.ofNat 64 (ptrAddr p), 0, 0⟩ []))

/-! ## Tasks, messages and channels -/

/-- SPAWN below SPLIM's limit puts a high-priority record with the thread's window size and two registers into the core's task
queue, counts it and gives predicate 1, and at the limit gives 0; POST sends a record to the dispatch core of its data
address, movable where the level bit is set, and the thread forfeits its turns until it is accepted; a malformed record traps;
HOP frees the slot and sends the context, with its task's priority, to the home of its address, or puts it into the own arrival
queue (R59-R68, R81, R260, R330, R354, R361). That a window of 8 registers sends 0 for x8 and x9, and that the thread keeps its
model number and what it asks of UHV, is the model's choice.
Model's own readings that it rests on: notes/assumptions, 53, 73. -/
def Obligations.TaskInstructions : Prop :=
  ∀ (g : Guard) (pd : BitVec 4) (a b : Reg) (e : Word) (n : BitVec 7) (s s1 u : State) (t : Turn) (h : Thread) (k : Task)
    (home : Nat) (l : Leaf),
    Running s t h → h.guard g = true → h.chunk.quiet = true → t.slot ≠ 63 →
    let reg (j : Nat) : Word := s.reg t.core (h.base + n.toNat + j)
    let clean (m : Nat) : Prop := n.toNat + m ≤ h.size ∧ ∀ j, j < m →
      h.base + n.toNat + j ∉ (s.core t.core).regPoison ∧ h.base + n.toNat + j ∉ (s.core t.core).regSoft
    let r0 := (s.readied t h).ended t
    (s.reads t.core h a e → (ptrFmt e = 0 ∨ ptrFmt e = 15) → e.toNat % 2 = 0 → b = .x n → clean 2 →
      k = s.task t.core h.task →
      (k.count < k.limit →
        r0.enqueue t.core ⟨BitVec.ofNat 55 (e.toNat % 2 ^ 55), true, false, h.size, [reg 0, reg 1], h.launch, h.vdev,
          some h.task⟩ = some u →
        ∃ (v : State) (y : Thread), exec (.spawn g pd a b) s = .next (v.retire t) ∧ v.thread? t.core t.slot = some y ∧ v.turn = some t ∧
          y.pred pd = (if pd = 0 then h.pred 0 else true) ∧ (v.core t.core).queue = (u.core t.core).queue ∧
          (v.core t.core).tasks.find? h.task = some { k with count := k.count + 1 }) ∧
      (k.limit ≤ k.count →
        ∃ (v : State) (y : Thread), exec (.spawn g pd a b) s = .next (v.retire t) ∧ v.thread? t.core t.slot = some y ∧ v.turn = some t ∧
          y.pred pd = (if pd = 0 then h.pred 0 else false) ∧ (v.core t.core).queue = (s.core t.core).queue)) ∧
    (a = .x n → clean 4 → recordBad [reg 0, reg 1, reg 2, reg 3] = none →
      (homeOfData (reg 1)).run (s.readied t h) = .ok (home, s1) → s1.turn = some t →
      s1.thread? t.core t.slot = some { h with status := .ready, issued := none } →
      let r := recordOf [reg 0, reg 1, reg 2, reg 3] h.launch h.vdev
      exec (.post g a) s = .next ((((s1.ended t).modThread t.core t.slot (fun q => { q with status := .engine })).send
        (.task ((s1.ended t).recordCore t.core home) { r with movable := r.movable || h.level }) t.core h.id
        true).retire t)) ∧
    (a = .x n → clean 4 → ∀ cause d, recordBad [reg 0, reg 1, reg 2, reg 3] = some (cause, d) →
      exec (.post g a) s = .next ((s.readied t h).takeTrap t.core t.slot ⟨cause, d, 0, 0⟩ [])) ∧
    (s.reads t.core h a e → h.handler = false → h.size ≤ 16 → ptrFormatBad (ptrFmt e) (ptrL e) = false →
      let addr := if ptrFmt e = 7 then ptrAddr e / 2 else ptrAddr e
      s.translate t.core h.vdev addr = .ok l →
      let home := homeOf (l.phys addr)
      let tgt := if (s.core home).fenced then s.recordCore t.core home else home
      let tr : Travel := ⟨(s.window t.core h ++ List.replicate 10 0).take 10, (s.windowPoison t.core h).filter (· < 10),
        h.preds, t.next, h.flags, (s.task t.core h.task).prio, h.level, h.vdev, (s.task t.core h.task).bclk, h.launch, addr, h.id,
        h.hops + 1, h.pending⟩
      let left := (((s.readied t h).useLeaf t.core l).ended t).freeSlot t.core t.slot true
      s.wf → s.samePart t.core home = true → s.routeOk t.core home = true →
      (tgt ≠ t.core → exec (.hop g a) s =
        .next (left.send (.context tgt tr) t.core h.id)) ∧
      (tgt = t.core → left.arrive t.core h.ctx (fun n => .travel n tr) = some u →
        exec (.hop g a) s = .next u)) ∧
    (16 < h.size → h.handler = false → h.takes a →
      exec (.hop g a) s = .next ((s.readied t h).takeTrap t.core t.slot ⟨11, BitVec.ofNat 64 h.size, 0, 0⟩ [])) ∧
    (h.handler = true → exec (.hop g a) s = .next ((s.readied t h).takeTrap t.core t.slot ⟨1, headValue (.hop g a), 0, 0⟩ []))

/-- SUSP clears a set wake bit, and else parks the thread at itself; SEND sends one to eight registers to the thread that
its continuation id names; WAITM goes on where an entry waits and is waited at otherwise; MBXPOP takes the oldest entry of the
device into registers, its header first (R54, R72-R75, R341, R359, R360, R365, R366, R371).
Model's own readings that it rests on: notes/assumptions, 5. -/
def Obligations.MessageInstructions : Prop :=
  ∀ (g : Guard) (a b : Reg) (nm1 : BitVec 3) (id : Word) (n : BitVec 7) (m : Mail) (s : State) (t : Turn) (h : Thread),
    Running s t h → h.guard g = true → t.slot ≠ 63 →
    let r0 := (s.readied t h).ended t
    (h.wake = true → exec (.susp g) s = .next ((s.setThread t.core t.slot { h with
      status := .ready, issued := none, wake := false }).retire t)) ∧
    (h.wake = false → h.chunk.closing = false →
      exec (.susp g) s = .next (s.setThread t.core t.slot { h with status := .suspended, issued := none })) ∧
    (h.chunk.quiet = true → s.reads t.core h a id → b = .x n → n.toNat + (nm1.toNat + 1) ≤ h.size →
      (∀ j, j < nm1.toNat + 1 →
        h.base + (n.toNat + j) ∉ (s.core t.core).regPoison ∧ h.base + (n.toNat + j) ∉ (s.core t.core).regSoft) →
      id.toNat % 2 ^ 16 = 0 → id.toNat / 2 ^ 38 % 2 ^ 6 ≠ 62 →
      let tgt := id.toNat / 2 ^ 44
      (s.core tgt).fenced = false → s.samePart t.core tgt = true →
      exec (.send g a b nm1) s = .next (((r0.modThread t.core t.slot (fun q => { q with status := .engine })).send
        (.message tgt t.core h.vdev id ((List.range (nm1.toNat + 1)).map (fun j => s.reg t.core (h.base + (n.toNat + j)))))
        t.core h.id true).retire t)) ∧
    (s.reads t.core h a id → b = .x n → n.toNat + (nm1.toNat + 1) ≤ h.size →
      (id.toNat % 2 ^ 16 ≠ 0 ∨ id.toNat / 2 ^ 38 % 2 ^ 6 = 62 ∨ (s.core (id.toNat / 2 ^ 44)).fenced = true →
        exec (.send g a b nm1) s = .next ((s.readied t h).takeTrap t.core t.slot ⟨2, id, 0, 0⟩ [])) ∧
      (id.toNat % 2 ^ 16 = 0 → id.toNat / 2 ^ 38 % 2 ^ 6 ≠ 62 → (s.core (id.toNat / 2 ^ 44)).fenced = false →
        s.samePart t.core (id.toNat / 2 ^ 44) = false →
        exec (.send g a b nm1) s = .next ((s.readied t h).takeTrap t.core t.slot ⟨7, id, 1, 0⟩ []))) ∧
    (h.chunk.quiet = true →
      (s.mailFor t.core h.vdev ≠ [] → exec (.waitm g) s = .next (r0.retire t)) ∧
      (s.mailFor t.core h.vdev = [] →
        exec (.waitm g) s = .next (s.setThread t.core t.slot { h with status := .poll .irq, issued := none }))) ∧
    (h.chunk.quiet = true → a = .x n → n.toNat + 1 ≤ h.size →
      ((s.mailFor t.core h.vdev).head? = some m → s.mailFree t.core t.slot h.vdev ≠ 0 →
        (n.toNat + 1 + m.payload.length ≤ h.size →
          exec (.mbxpop g a) s = .next (((r0.modCore t.core (fun k => { k with mail := popMail h.vdev k.mail })).setRegs
            t.core (h.base + n.toNat) (BitVec.ofNat 64 (m.kind % 16 + m.payload.length % 16 * 2 ^ 4 + m.src % 2 ^ 20 * 2 ^ 8 +
              m.tag.toNat * 2 ^ 32) :: m.payload)).retire t)) ∧
        (h.size < n.toNat + 1 + m.payload.length →
          exec (.mbxpop g a) s = .next ((s.readied t h).takeTrap t.core t.slot
            ⟨3, BitVec.ofNat 64 h.size, BitVec.ofNat 64 h.size, 0⟩ []))) ∧
      (s.mailFree t.core t.slot h.vdev = 0 →
        exec (.mbxpop g a) s = .next (s.setThread t.core t.slot { h with status := .poll .mail, issued := none })))

/-- CHOPEN binds a free end; CHGRANT sends an allowance to the peer, but none for a count of 0; CHSEND uses one unit of the
allowance and sends a word, and waits without one; CHRECV takes the oldest word, and waits for one; CHCLOSE frees the end;
ALT selects the first ready alternative, from the one after the last selected with `.fair`, and waits without one; an end that
is not bound to the slot in the role needed is ILLEGAL_OPERAND for each of CHGRANT, CHSEND, CHRECV, CHCLOSE (any role) and ALT (the
first such end that its mask selects) (R78, R79, R299, R307). -/
def Obligations.ChannelInstructions : Prop :=
  ∀ (g : Guard) (d a b : Reg) (n : BitVec 8) (x y : Word) (e : ChanEnd) (s : State) (t : Turn) (h : Thread),
    Running s t h → h.guard g = true → t.slot ≠ 63 → h.chunk.quiet = true → n.toNat < 16 →
    let r0 := (s.readied t h).ended t
    let wait := s.setThread t.core t.slot { h with status := .poll .irq, issued := none }
    let bad (w : Word) := (s.readied t h).takeTrap t.core t.slot ⟨2, w, 0, 0⟩ []
    (s.reads t.core h a x → s.reads t.core h b y → x.toNat < 2 ^ 24 → y.toNat < 2 →
      (s.core t.core).ends.find? n.toNat = none → (s.core (x.toNat % 2 ^ 20)).fenced = false →
      s.samePart t.core (x.toNat % 2 ^ 20) = true →
      exec (.chopen g n a b) s = .next ((r0.setEnd t.core n.toNat
        ⟨t.slot, y == 1, x.toNat % 2 ^ 20, x.toNat / 2 ^ 20 % 16, 0, []⟩).retire t)) ∧
    (s.reads t.core h a x → (s.core t.core).ends.find? n.toNat = some e → e.slot = t.slot → e.recv = true →
      exec (.chgrant g n a) s = .next (if x = 0 then r0.retire t else
        (r0.send (.grant e.peer e.peerEnd t.core n.toNat (min x.toNat (2 ^ 32 - 1))) t.core h.id).retire t)) ∧
    (s.reads t.core h a x → (s.core t.core).ends.find? n.toNat = some e → e.slot = t.slot → e.recv = false →
      (0 < e.allow → exec (.chsend g n a) s = .next ((((r0.setEnd t.core n.toNat { e with allow := e.allow - 1 }).modThread
        t.core t.slot (fun q => { q with status := .engine })).send (.channel e.peer e.peerEnd t.core n.toNat x)
        t.core h.id true).retire t)) ∧
      (e.allow = 0 → exec (.chsend g n a) s = .next wait)) ∧
    (h.takes d → (s.core t.core).ends.find? n.toNat = some e → e.slot = t.slot → e.recv = true →
      (∀ w rest, e.buf = w :: rest → exec (.chrecv g d n) s =
        .next (((r0.setEnd t.core n.toNat { e with buf := rest }).put t.core h d w).retire t)) ∧
      (e.buf = [] → exec (.chrecv g d n) s = .next wait)) ∧
    ((s.core t.core).ends.find? n.toNat = some e → e.slot = t.slot →
      exec (.chclose g n) s = .next ((r0.modCore t.core (fun k => { k with ends := k.ends.del n.toNat })).retire t)) ∧
    ((s.core t.core).ends.find? n.toNat = none ∨
        (s.core t.core).ends.find? n.toNat = some e ∧ (e.slot ≠ t.slot ∨ e.recv = false) →
      h.takes d → exec (.chrecv g d n) s = .next (bad (n.setWidth 64))) ∧
    (let unbound (k : Nat) (p : ChanEnd → Prop) := ∀ q, (s.core t.core).ends.find? k = some q → q.slot ≠ t.slot ∨ ¬ p q
     (unbound n.toNat (fun q => q.recv = true) → s.reads t.core h a x → exec (.chgrant g n a) s = .next (bad (n.setWidth 64))) ∧
     (unbound n.toNat (fun q => q.recv = false) → s.reads t.core h a x → exec (.chsend g n a) s = .next (bad (n.setWidth 64))) ∧
     (unbound n.toNat (fun _ => True) → exec (.chclose g n) s = .next (bad (n.setWidth 64))) ∧
     (∀ (k : BitVec 7) (mask : BitVec 5) (fair : Bool) (j : Nat), d = .x k → k.toNat + 2 ≤ h.size →
       h.base + (k.toNat + 1) ∉ (s.core t.core).regPoison → h.base + (k.toNat + 1) ∉ (s.core t.core).regSoft →
       let nib (i : Nat) : Nat := (s.reg t.core (h.base + (k.toNat + 1))).toNat / 16 ^ i % 16
       j < 4 → mask.getLsbD j = true → unbound (nib j) (fun q => q.recv = true) →
       (∀ i, i < j → mask.getLsbD i = true → ¬ unbound (nib i) (fun q => q.recv = true)) →
       exec (.alt g d mask fair) s = .next (bad (BitVec.ofNat 64 (nib j))))) ∧
    (∀ (k : BitVec 7) (mask : BitVec 5) (fair : Bool), d = .x k → k.toNat + 2 ≤ h.size →
      h.base + (k.toNat + 1) ∉ (s.core t.core).regPoison → h.base + (k.toNat + 1) ∉ (s.core t.core).regSoft →
      let w := s.reg t.core (h.base + (k.toNat + 1))
      let nib (j : Nat) : Nat := w.toNat / 16 ^ j % 16
      let ready (j : Nat) : Prop := mask.getLsbD j = true ∧ if j = 4 then s.mailFor t.core h.vdev ≠ [] else
        ∃ q, (s.core t.core).ends.find? (nib j) = some q ∧ q.buf ≠ []
      let order := (List.range 5).map (fun j => ((if fair then h.altLast + 1 else 0) + j) % 5)
      (∀ j, j < 4 → mask.getLsbD j = true →
        ∃ q, (s.core t.core).ends.find? (nib j) = some q ∧ q.slot = t.slot ∧ q.recv = true) →
      (∀ before after j, order = before ++ j :: after → ready j → (∀ i ∈ before, ¬ ready i) →
        exec (.alt g d mask fair) s = .next (((r0.setReg t.core (h.base + k.toNat) (BitVec.ofNat 64 j)).modThread t.core
          t.slot (fun q => { q with altLast := j })).retire t)) ∧
      ((∀ j, j < 5 → ¬ ready j) → exec (.alt g d mask fair) s = .next wait))

/-! ## Copies and landings -/

/-- CPYQ takes a free barrow register for the copy that its registers and its descriptor's eight words describe, charges the
energy class to the context and has the thread wait for the barrow's acceptance; where the eight registers are taken the
request, read and checked once, waits for one; the descriptor's reserved bits, a row of no byte or of more than 65,536, a start beyond the copy and a span without a
slab are ILLEGAL_OPERAND (R169-R173, R225).
Model's own readings that it rests on: notes/assumptions, 43. -/
def Obligations.CopyRequests : Prop :=
  ∀ (g : Guard) (blk : Reg) (ec : BitVec 2) (pin : Bool) (nu : BitVec 8) (n : BitVec 7) (s s1 s2 : State) (t : Turn)
    (h : Thread) (bs : List Byte) (cw : List Where),
    Running s t h → h.guard g = true → h.chunk.quiet = true → t.slot ≠ 63 → blk = .x n → n.toNat + 4 ≤ h.size →
    (∀ j, j < 4 → h.base + (n.toNat + j) ∉ (s.core t.core).regPoison ∧ h.base + (n.toNat + j) ∉ (s.core t.core).regSoft) →
    let reg (j : Nat) : Word := s.reg t.core (h.base + (n.toNat + j))
    let good (p : Word) : Prop := ptrFormatBad (ptrFmt p) (ptrL p) = false ∧ ptrFmt p ≠ 7
    good (reg 0) → good (reg 1) → good (reg 2) → ptrAddr (reg 2) % 64 = 0 →
    (loadEnd (reg 2) (ptrAddr (reg 2)) 64).run ((s.readied t h).ended t) = .ok (bs, s1) → Running s1 t { h with
      status := .ready, issued := none, chunk := { h.chunk with held := [], pins := [], closing := true } } →
    let w (j : Nat) : Nat := leNat (slice bs (8 * j) 8)
    let rows := w 0 % 2 ^ 32
    let rb := w 0 / 2 ^ 32 % 2 ^ 32
    let slab := w 4 / 2 ^ 40 % 2 ^ 16
    let ctr : Word := BitVec.ofNat 64 (w 3)
    bs.length = 64 →
    (ctr ≠ 0 → ptrFmt ctr < 16 ∧ ptrFmt ctr ≠ 6 ∧ ptrFmt ctr ≠ 7) →
    let bad (k : Nat) : Prop := exec (.cpyq g blk ec pin nu) s =
      .next ((s.readied t h).takeTrap t.core t.slot ⟨2, BitVec.ofNat 64 (w k), 0, 0⟩ [])
    (rb = 0 ∨ 65536 < rb → bad 0) ∧
    (0 < rb → rb ≤ 65536 → w 4 / 2 ^ 56 ≠ 0 → bad 4) ∧
    (0 < rb → rb ≤ 65536 → w 4 / 2 ^ 56 = 0 → (w 5 / 2 ^ 11 ≠ 0 ∨ w 5 / 2 ^ 8 % 4 = 3) → bad 5) ∧
    (0 < rb → rb ≤ 65536 → w 4 / 2 ^ 56 = 0 → w 5 / 2 ^ 11 = 0 → w 5 / 2 ^ 8 % 4 ≠ 3 →
      (rows * rb < w 6 → bad 6) ∧ (w 6 ≤ rows * rb → w 7 ≠ 0 → slab = 0 → bad 7) ∧
      (w 6 ≤ rows * rb → (w 7 ≠ 0 → slab ≠ 0) → ptrAddr ctr % 8 = 0 →
        (slab ≠ 0 → w 4 % 2 ^ 10 + w 4 / 2 ^ 20 % 2 ^ 10 ≤ 1023 ∧ w 4 / 2 ^ 10 % 2 ^ 10 + w 4 / 2 ^ 30 % 2 ^ 10 ≤ 1023 ∧
          ∀ i j, i ≤ w 4 / 2 ^ 20 % 2 ^ 10 → j ≤ w 4 / 2 ^ 30 % 2 ^ 10 →
            let c := coreAt (w 4 % 2 ^ 10 + i) (w 4 / 2 ^ 10 % 2 ^ 10 + j)
            (s1.core c).fenced = false ∧ s1.samePart t.core c = true) →
        (if ctr = 0 then s2 = s1 else
          (checkLines t.core h.ctx h.vdev .rw [(ptrAddr ctr / 64, ctr)] true).run s1 = .ok (cw, s2)) →
        let request (u : State) (y : Copy) : Prop :=
            y.st = .waiting ∧ y.src = reg 0 ∧ y.dst = reg 1 ∧ y.hidx = (reg 3).toNat % 2 ^ 16 ∧
            y.hgen = (reg 3).toNat / 2 ^ 16 % 2 ^ 16 ∧ y.tag.toNat = (reg 3).toNat / 2 ^ 32 ∧ y.rows = rows ∧
            y.rowbytes = rb ∧ y.spitch = w 1 ∧ y.dpitch = w 2 ∧ y.ctr = w 3 ∧ y.ox = w 4 % 2 ^ 10 ∧
            y.oy = w 4 / 2 ^ 10 % 2 ^ 10 ∧ y.wm1 = w 4 / 2 ^ 20 % 2 ^ 10 ∧ y.hm1 = w 4 / 2 ^ 30 % 2 ^ 10 ∧ y.blk = slab ∧
            y.land = w 5 % 2 ^ 8 ∧ y.cmode = w 5 / 2 ^ 8 % 4 ∧ (y.intr = true ↔ w 5 / 2 ^ 10 % 2 = 1) ∧ y.start = w 6 ∧
            y.e = w 6 ∧ y.dspan = w 7 ∧ y.pin = pin ∧ y.iss.core = t.core ∧ y.iss.thread = h.id ∧
            y.iss.charge = 2 ^ 10 * 8 ^ ec.toNat ∧
            (∀ x, (s2.core t.core).ctxs.find? h.ctx = some x → x.vdev = h.vdev →
              ((2 ^ 10 * 8 ^ ec.toNat : Nat) : Int) - 2 ^ 63 ≤ x.ebud → x.ebud < 2 ^ 63 →
              ∃ x', (u.core t.core).ctxs.find? h.ctx = some x' ∧
                x'.ebud = x.ebud - ((2 ^ 10 * 8 ^ ec.toNat : Nat) : Int))
        ((s2.core t.core).barrow.free 8 = none →
          ∃ (u : State) (y : Copy) (k : Thread), exec (.cpyq g blk ec pin nu) s = .next (u.retire t) ∧ u.turn = some t ∧
            u.thread? t.core t.slot = some k ∧ k.status = .copy y ∧ k.id = h.id ∧ request u y ∧ u.mem = s2.mem ∧
            (u.core t.core).barrow = (s2.core t.core).barrow ∧
            ∀ (v : State), v.takesTurns t.core t.slot k = true → k.raised = none →
              v.idleTurn t.core t.slot k = v.placeCopy t.core t.slot y) ∧
        (∀ r, (s2.core t.core).barrow.free 8 = some r →
          ∃ (u : State) (y : Copy) (k : Thread), exec (.cpyq g blk ec pin nu) s = .next (u.retire t) ∧ u.turn = some t ∧
            u.thread? t.core t.slot = some k ∧ k.status = .engine ∧ k.id = h.id ∧ request u y ∧ u.mem = s2.mem ∧
            (u.core t.core).barrow.find? r = some y ∧
            ∀ q, q ≠ r → (u.core t.core).barrow.find? q = (s2.core t.core).barrow.find? q)))

/-- CPYST gives the state of the oldest copy of its tag with the bytes that it has sent, and 0 where no copy of the core has
that tag; CPYCAN cancels every copy of its tag that has not sent its last packet, and no other (R186, R187). -/
def Obligations.CopyStatusAndCancel : Prop :=
  ∀ (g : Guard) (d a : Reg) (x : Word) (s : State) (t : Turn) (h : Thread),
    Running s t h → h.guard g = true → s.reads t.core h a x →
    (h.takes d → (∀ p ∈ (s.core t.core).barrow, p.2.tag ≠ x.setWidth 32) →
      exec (.cpyst g d a) s = .next (s.result t h d 0 0)) ∧
    (∀ (r : Nat) (y : Copy), h.takes d → (r, y) ∈ (s.core t.core).barrow → y.tag = x.setWidth 32 →
      (∀ p ∈ (s.core t.core).barrow, p.2.tag = x.setWidth 32 → p = (r, y) ∨ y.id < p.2.id) →
      exec (.cpyst g d a) s = .next (s.result t h d (BitVec.ofNat 64
        ((match y.st with | .waiting => 1 | .reading => 2 | .sent => 3) + min y.sent (2 ^ 48 - 1) * 2 ^ 16)) 0)) ∧
    (h.chunk.quiet = true →
      exec (.cpycan g a) s = .next ((((s.readied t h).ended t).modCore t.core (fun k => { k with
        barrow := k.barrow.map (fun p => if p.2.tag = x.setWidth 32 ∧ p.2.st ≠ .sent then (p.1, { p.2 with cancelled := true })
          else p) })).retire t))

/-- LANDEND lands the packet of the riddle's landing handler and frees the riddle; off the riddle it is ILLEGAL_OP; a
directly written packet lands when its bytes are written (R178). LANDST in a handler writes an element into a line of its
copy's extent on this core, whose command owns the line; outside the extent, and where the element is not aligned, the copy
ends; off the riddle it is ILLEGAL_OP (chapter 10). -/
def Obligations.LandingInstructions : Prop :=
  (∀ (g : Guard) (d b : Reg) (m : MMod) (nu : BitVec 8) (off : BitVec 16) (v p : Word) (s u : State) (t : Turn) (h : Thread)
    (r : LandRun) (y : Copy) (miss : Nat),
    Running s t h → h.guard g = true →
    (t.slot ≠ 63 →
      exec (.landst g d b m nu off) s =
        .next ((s.readied t h).takeTrap t.core t.slot ⟨1, headValue (.landst g d b m nu off), 0, 0⟩ []) ∧
      exec (.landend g) s = .next ((s.readied t h).takeTrap t.core t.slot ⟨1, headValue (.landend g), 0, 0⟩ [])) ∧
    (t.slot = 63 → (s.core t.core).landRun = some r → s.copyOf r.pkt = some y →
      ((s.readied t h).landed t.core r.pkt = some u → u.turn = some t → (u.core t.core).slots.wf = true →
        exec (.landend g) s = .next (u.riddleFree t.core)) ∧
      (s.reads t.core h d v → s.reads t.core h b p →
        let q := memRef p off m.fo.toNat
        let key := ((y.piece r.pkt.e).slab.getD 0, q.at_ / 64)
        let tgt := match (y.piece r.pkt.e).slab with | some c => c | none => 2 ^ 20
        ptrFmt p < 16 → ptrFmt p ≠ 6 → ptrFmt p ≠ 7 → q.fmt < 16 → q.fmt ≠ 6 → q.fmt ≠ 7 →
        (q.at_ % elemSize q.fmt = 0 → y.extent.contains key = false →
          exec (.landst g d b m nu off) s = .next ((s.readied t h).landFault t.core)) ∧
        (q.at_ % elemSize q.fmt ≠ 0 →
          exec (.landst g d b m nu off) s = .next ((s.readied t h).landFault t.core)) ∧
        (∀ l, q.at_ % elemSize q.fmt = 0 → y.extent.contains key = true →
          ((y.piece r.pkt.e).slab = none →
            s.translate y.iss.core y.iss.vdev q.at_ = .ok l ∧ homeOf (l.phys q.at_) = t.core) →
          (s.readied t h).engineWrite y.iss y.id tgt q.at_ ((leBytes (elemSize q.fmt) v.toNat).map (fun x => (x, 3)))
            (if nu = 255 then y.iss.nu else nu.toNat) r.pkt.poison = some (u, miss) → u.turn = some t →
          exec (.landst g d b m nu off) s = .next ((u.costCopy r.pkt miss).retire t))))) ∧
  (∀ (s u v : State) (core : CoreId) (p : LandPkt) (rest : List LandPkt) (y : Copy) (l : Leaf) (miss : Nat),
    (s.core core.toNat).landing = p :: rest → s.copyOf p = some y → y.hidx = 0 → y.blk = 0 → y.land = 0 →
    (y.hosts.contains core.toNat = true → (s.ctxOf core.toNat y.iss.vdev).isSome = true) →
    s.translate y.iss.core y.iss.vdev p.addr = .ok l → s.ownerOk y.iss.core y.iss.vdev (l.phys p.addr) = true →
    (s.modCore core.toNat (fun k => { k with landing := rest })).engineWrite y.iss y.id (2 ^ 20) p.addr (whole p.bytes)
      y.iss.nu p.poison = some (u, miss) → (u.costCopy p miss).landed core.toNat p = some v →
      exec (.landingPacket core) s = .next v)

/-! ## Engine commands -/

/-- MMA, MMR, MQ and MCMD hand a command to a queue of their unit, or of another core's for MCMD, once their formats and
operands pass their checks; the command enters the queue's shadow set in the order of issue, and the thread waits for the set
and for the ownership grants; the command has the shape of the single step, of the ring word or of the descriptor, starts at
its first tile, and is fired where it has no trigger; MWAIT goes on once the queue holds no command of the thread, those from
before a HOP left out (R211-R222, R331, R342, R343, R346). That a capability with a bit set that must be zero opens no queue is the
model's choice.
Model's own readings that it rests on: notes/assumptions, 44, 53, 75. -/
def Obligations.MatrixInstructions : Prop :=
  ∀ (g : Guard) (blk : Reg) (tl : MTail) (core : CoreId) (n : BitVec 7) (s s2 s3 : State) (t : Turn) (h k : Thread)
    (fa fb : Nat) (m : MCmd) (d : MDesc),
    Running s t h → h.guard g = true → t.slot ≠ 63 → blk = .x n → n.toNat + 4 ≤ h.size →
    (∀ j, j < 4 → h.base + (n.toNat + j) ∉ (s.core t.core).regPoison ∧ h.base + (n.toNat + j) ∉ (s.core t.core).regSoft) →
    let reg (j : Nat) : Word := s.reg t.core (h.base + (n.toNat + j))
    let r := reg 3
    let r0 := s.readied t h
    let waiting (u : State) (k : Thread) : State := u.setThread t.core t.slot { k with status := .matrix tl.hi m }
    let handed (u : State) (k : Thread) : State := ((waiting u k).placeCmd t.core t.slot tl.hi m).retire t
    let form (p : Word) : Prop := (matrixFormats tl (reg 0) (reg 1) (reg 2) p).run r0 = .ok ((fa, fb), r0) ∧
      (matrixAlign (reg 0) (reg 1) (reg 2) fa fb).run r0 = .ok ((), r0)
    (∀ u : State, u.thread? t.core t.slot = some k →
      let v := waiting u k
      (((v.core t.core).queueOf tl.hi).shadow = none → (v.core t.core).waitsBefore tl.hi m.id = false →
        v.placeCmd t.core t.slot tl.hi m =
          (v.toShadow t.core tl.hi m).setThread t.core t.slot { k with status := .engine }) ∧
      ((((v.core t.core).queueOf tl.hi).shadow.isSome = true ∨ (v.core t.core).waitsBefore tl.hi m.id = true) →
        v.placeCmd t.core t.slot tl.hi m = v)) ∧
    (form 0 →
      (matrixCommand tl (reg 0) (reg 1) (reg 2) fa fb (.single (tileK fa)) none false).run r0 = .ok (m, s2) →
      Running s2 t k → exec (.mma g blk tl) s = .next (handed s2 k) ∧
        m.m = 16 ∧ m.n = 16 ∧ m.k = (if fa = 2 ∨ fa = 3 then 16 else 32) ∧ m.ring = none ∧ m.fired = true ∧
        m.remote = false) ∧
    (form 0 →
      r.toNat / 2 ^ 55 = 0 → r.toNat / 2 ^ 32 % 2 ^ 12 < r.toNat / 2 ^ 20 % 2 ^ 12 → r.toNat / 2 ^ 44 % 2 ^ 9 ≤ 256 →
      (s.core (r.toNat % 2 ^ 20)).fenced = false →
      let len := r.toNat / 2 ^ 20 % 2 ^ 12
      let depth := r.toNat / 2 ^ 44 % 2 ^ 9
      d = { m := 16, n := 16 * len, k := depth, lda := depth, ldb := depth, ldc := 16 * len, trig := 0, thr := 0, rag := 0
            init := r.toNat / 2 ^ 53 % 2 == 1, notify := r.toNat / 2 ^ 54 % 2 == 1, intr := false, tag := 0, cap := 0
            bad := false } →
      (matrixShape fa fb d (some (r.toNat % 2 ^ 20, len, r.toNat / 2 ^ 32 % 2 ^ 12))).run r0 = .ok ((), r0) →
      (matrixCommand tl (reg 0) (reg 1) (reg 2) fa fb d (some (r.toNat % 2 ^ 20, len, r.toNat / 2 ^ 32 % 2 ^ 12)) false).run
        r0 = .ok (m, s2) →
      Running s2 t k → exec (.mmr g blk tl) s = .next (handed s2 k)) ∧
    (form r → (descAlign r).run r0 = .ok ((), r0) → (matrixDesc (reg 0) (reg 1) (reg 2) r fa fb).run r0 = .ok (d, s2) →
      ((matrixCommand tl (reg 0) (reg 1) (reg 2) fa fb d none false).run s2 = .ok (m, s3) → Running s3 t k →
        exec (.mq g blk tl) s = .next (handed s3 k) ∧ m.m = d.m ∧ m.n = d.n ∧ m.k = d.k ∧ m.init = d.init ∧
          m.notify = d.notify ∧ m.intr = d.intr ∧ m.tag = d.tag ∧ m.thr = d.thr ∧ (m.fired = true ↔ d.trig = 0) ∧
          (m.rag = none ↔ d.rag = 0) ∧ m.steps = 0 ∧ m.rows = 0 ∧ m.granted = false) ∧
      (s2.turn = some t → (s.core core.toNat).fenced = false →
        (matrixCommand tl (reg 0) (reg 1) (reg 2) fa fb d none true).run s2 = .ok (m, s3) →
        (core.toNat ≠ t.core → s3.thread? t.core t.slot = some k → s3.turn = some t → s3.routeOk t.core core.toNat = true →
          exec (.mcmd g blk tl core) s = .next (((s3.setThread t.core t.slot { k with status := .engine }).send
            (.mcmd core.toNat tl.hi d.cap m) t.core m.iss.thread).retire t)) ∧
        (core.toNat = t.core → (s2.core t.core).capOk d.cap tl.hi = true → Running s3 t k →
          exec (.mcmd g blk tl core) s = .next (handed s3 k)) ∧
        (core.toNat = t.core → (s2.core t.core).capOk d.cap tl.hi = false → (s3.refuseCmd t.core m).turn = some t →
          exec (.mcmd g blk tl core) s = .next ((s3.refuseCmd t.core m).retire t)))) ∧
    (∀ hi : Bool,
      let q := (s.core t.core).queueOf hi
      let mine (x : MCmd) : Prop := x.remote = false ∧ x.iss.core = t.core ∧ x.iss.thread = h.id ∧ x.iss.hops = h.hops
      ((∀ x, q.active = some x ∨ q.shadow = some x → ¬ mine x) → exec (.mwait g hi) s = .next (s.stepped t h)) ∧
      ((∃ x, (q.active = some x ∨ q.shadow = some x) ∧ mine x) →
        exec (.mwait g hi) s = .next (s.setThread t.core t.slot { h with status := .poll .irq, issued := none })))

/-- WALK hands the trellis a walk of 16 rows: each row that runs starts at the root, or with `.resume` where its progress
record left it, every other keeps its record; where the root record cannot be fetched, each row that would run is faulted; the
destination lines are owned and the thread waits until the walk retires (R226, R228, R229, R372).
Model's own readings that it rests on: notes/assumptions, 45. -/
def Obligations.WalkIssues : Prop :=
  ∀ (g : Guard) (d blk : Reg) (ec : BitVec 2) (resume : Bool) (nu : BitVec 8) (n dn : BitVec 7)
    (s s1 s2 s3 s4 s5 s6 s7 : State) (t : Turn) (h k : Thread) (ws ws' : List Where) (q : Issuer) (id taken : Nat) (b1 b2 : Bool)
    (found : Option (WalkRec × Nat)) (pb ys : List (List Byte)) (j1 j2 j3 : WalkJob),
    Running s t h → h.guard g = true → t.slot ≠ 63 → h.chunk.quiet = true → blk = .x n → n.toNat + 4 ≤ h.size →
    d = .x dn → dn.toNat + 2 ≤ h.size →
    (∀ j, j < 4 → h.base + (n.toNat + j) ∉ (s.core t.core).regPoison ∧ h.base + (n.toNat + j) ∉ (s.core t.core).regSoft) →
    let reg (j : Nat) : Word := s.reg t.core (h.base + (n.toNat + j))
    let writes := lineSet [(ptrAddr (reg 2), 1024), (ptrAddr (reg 3), 256)]
    (walkOperands (reg 0) (reg 1) (reg 2) (reg 3)).run (s.readied t h) = .ok ((), s.readied t h) →
    (checkLines t.core h.ctx h.vdev .w (atLines writes)).run (s.readied t h) = .ok (ws, s1) →
    Running s1 t { h with status := .ready, issued := none } → ((s1.ended t).core t.core).trellis = none →
    (issuer nu ec).run (s1.ended t) = .ok (q, s2) → id = s2.nextCmd →
    ({ s2 with nextCmd := id + 1 } : State).walkFetch
      { id := id, iss := q, d := dn.toNat, rowTile := reg 0, root := reg 1, out := ptrAddr (reg 2), prog := ptrAddr (reg 3)
        k := none, early := s2.ridge.service == 1, work := 0, cycles := 0, dram := 0, flags := 0, rows := [], first := true
        isOver := false, seen := [] } none (reg 1) = some (found, j1, s3) →
    (match found with
      | some (_, dep) => (checkLines t.core h.ctx h.vdev .r (atLines (lineSet (rowRanges (reg 0) 0 (16 * rowPitch dep))))).run s3 =
          .ok (ws', s4)
      | none => s4 = s3) →
    s4.takeLines q id t.core writes = some (s5, taken) →
    s5.walkRead { j1 with dram := j1.dram + taken } [(ptrAddr (reg 3), 256)] = some (pb, b1, j2, s6) →
    let lost := found.isNone
    let rows := ((List.range 16).map (fun r =>
      (WalkRow.read (((pb.getD 0 []).drop (16 * r)).take 16)).start resume (reg 1))).map
        (fun w => if lost && w.runs then { w with status := 2 } else w)
    let depth := (found.map Prod.snd).getD 0
    s6.walkRead j2 ((List.range 16).map (fun r => match rows[r]? with
      | some w => (j2.outAt r, if w.runs && w.carried then 4 * depth else 0)
      | none => (j2.outAt r, 0))) = some (ys, b2, j3, s7) →
    Running s7 t k →
    ∃ (u : State) (j : WalkJob), exec (.walk g d blk ec resume nu) s = .next (u.retire t) ∧
      u = (s7.setTrellis t.core (some (.walk j))).setThread t.core t.slot { k with status := .engine } ∧ j.id = j3.id ∧
      j.k = found.map Prod.snd ∧ j.rows.length = 16 ∧
      (∀ r, r < 16 → ∀ w w', rows[r]? = some w → j.rows[r]? = some w' →
        w'.node = w.node ∧ w'.status = w.status ∧ w'.runs = w.runs ∧ w'.depth = w.depth ∧ w'.pend = w.pend) ∧
      (resume = false → ∀ r, r < 16 → ∀ w, j.rows[r]? = some w → w.runs = true →
        w.node = reg 1 ∧ w.status = (if lost then 2 else 0) ∧ w.depth = 0 ∧ w.pend = 0xFF)

/-- FOREST hands the trellis the samples, the record and the outputs that its registers name, once the lines that they
name, the record's header and the lines that it names pass their checks, and the thread waits until it retires (R231, R232).
Model's own readings that it rests on: notes/assumptions, 45. -/
def Obligations.ForestIssues : Prop :=
  ∀ (g : Guard) (d blk : Reg) (ec : BitVec 2) (nu : BitVec 8) (n dn : BitVec 7) (s s1 s2 s3 s4 : State) (t : Turn)
    (h k : Thread) (w0 w1 : List Where) (q : Issuer) (id taken : Nat) (hb : RangeRead),
    Running s t h → h.guard g = true → t.slot ≠ 63 → h.chunk.quiet = true → blk = .x n → n.toNat + 4 ≤ h.size →
    d = .x dn → dn.toNat + 2 ≤ h.size →
    (∀ j, j < 4 → h.base + (n.toNat + j) ∉ (s.core t.core).regPoison ∧ h.base + (n.toNat + j) ∉ (s.core t.core).regSoft) →
    let reg (j : Nat) : Word := s.reg t.core (h.base + (n.toNat + j))
    let count := (reg 3).toNat
    ptrFmt (reg 0) = 1 → ptrFmt (reg 1) = 13 → ptrFmt (reg 2) = 1 → 1 ≤ count → count ≤ 16 → ptrAddr (reg 0) % 4 = 0 →
    ptrAddr (reg 1) % 64 = 0 → ptrAddr (reg 2) % 4 = 0 →
    let writes := lineSet [(ptrAddr (reg 2), 4 * count)]
    (checkAll t.core h.ctx h.vdev
      ((lineSet [(ptrAddr (reg 1), 144), (ptrAddr (reg 0), 64 * (count - 1) + 4)]).map
        (fun l => ⟨.r, l, BitVec.ofNat 64 (64 * l), false⟩) ++
        writes.map (fun l => ⟨.w, l, BitVec.ofNat 64 (64 * l), false⟩))).run (s.readied t h) = .ok (w0, s1) →
    Running s1 t { h with status := .ready, issued := none } → ((s1.ended t).core t.core).trellis = none →
    (issuer nu ec).run (s1.ended t) = .ok (q, s2) → id = s2.nextCmd →
    ({ s2 with nextCmd := id + 1 } : State).readOnce q t.core [] [(ptrAddr (reg 1), 16)] = some hb → hb.bad = false →
    let head := hb.bytes.getD 0 []
    let trees := (forestHeader head).1
    let feats := (forestHeader head).2.1
    let nodes := (forestHeader head).2.2.1
    forestHeaderOk head = true →
    (checkLines t.core h.ctx h.vdev .r (atLines (lineSet [(ptrAddr (reg 1), forestNodes trees + 16 * nodes),
      (ptrAddr (reg 0), 64 * ceilDiv feats 16 * (count - 1) + 4 * feats)]))).run hb.state = .ok (w1, s3) →
    s3.takeLines q id t.core writes = some (s4, taken) → Running s4 t k →
    exec (.forest g d blk ec nu) s = .next (((s4.setTrellis t.core (some (.forest
      { id := id, iss := q, d := dn.toNat, samples := ptrAddr (reg 0), record := ptrAddr (reg 1), out := ptrAddr (reg 2)
        count := count, seen := hb.seen, dram := hb.dram + taken }))).setThread t.core t.slot
        { k with status := .engine }).retire t)

/-- GBFAC, GBVAR and GBWR queue a command at the message-update unit once the record that they name is mapped and well formed,
of the kind that they take, and every line passes its check; its lines are owned and the thread waits for the command's end;
a record that is not mapped or is malformed, a slot beyond it and a factor for a variable are ILLEGAL_OPERAND; GBPOP waits for
the unit's present work and gives the oldest record of the firing queue, the next part becoming the current one where that is
empty, clears its queued bit and pushes its successor where its header is still mapped, and gives 0 where nothing waits (R239, R244, R246-R251, R325).
Model's own readings that it rests on: notes/assumptions, 46. -/
def Obligations.GaussianInstructions : Prop :=
  ∀ (g : Guard) (blk : Reg) (ec : BitVec 2) (nu : BitVec 8) (n : BitVec 7) (s sa s0 s1 s2 s3 : State) (t : Turn) (h k : Thread)
    (r : GRec) (size d0 d1 d3 : Nat) (ws : List Where) (q : Issuer),
    Running s t h → h.guard g = true → t.slot ≠ 63 → h.chunk.quiet = true →
    let r0 := s.readied t h
    (blk = .x n → n.toNat + 3 ≤ h.size →
    (∀ j, j < 3 → h.base + (n.toNat + j) ∉ (s.core t.core).regPoison ∧ h.base + (n.toNat + j) ∉ (s.core t.core).regSoft) →
    let reg (j : Nat) : Word := s.reg t.core (h.base + (n.toNat + j))
    let addr := ptrAddr (reg 0)
    let q0 := r0.unitIssuer t.core h.ctx h.vdev
    let bad := (s.readied t h).takeTrap t.core t.slot ⟨2, reg 0, 0, 0⟩ []
    let queue (op : GaussOp) (cost : Nat) : State := ((s3.modCore t.core (fun c => { c with
      gauss := c.gauss ++ [.command ⟨s2.nextCmd, q, reg 0, op, cost⟩] })).modThread t.core t.slot
        (fun x => { x with status := .engine })).retire t
    ptrFmt (reg 0) = 14 → addr % 64 = 0 →
      (r0.lineMapped t.core h.vdev (addr / 64) = false →
        exec (.gbfac g blk ec nu) s = .next bad ∧ exec (.gbvar g blk ec nu) s = .next bad) ∧
      (r0.lineMapped t.core h.vdev (addr / 64) = true → r0.fillable t.core h.vdev (addr / 64) = true →
      r0.gaussSize q0 t.core addr = some (some size, d0, sa) →
      let known (j : Nat) : Bool := sa.fillable t.core h.vdev ((addr / 64 + j) % 2 ^ 49)
      sa.gaussKnown q0 t.core addr size known = some (r, d1, s0) →
      let checked (writes : List Nat) (others : List Access) : Prop :=
        (checkAll t.core h.ctx h.vdev (recAccess (reg 0) addr size writes ++ others)).run s0 = .ok (ws, s1) ∧ Running s1 t k ∧
          k.chunk.quiet = true ∧ (issuer nu ec).run (s1.ended t) = .ok (q, s2)
      (({ s2 with nextCmd := s2.nextCmd + 1 } : State).takeLines q s2.nextCmd t.core (recLines r.addr r.n) = some (s3, d3) →
       s3.turn = some t →
       (r.malformed known = false → r.factor = true → (reg 1).toNat < r.n →
         checked [0, 6 + r.n + (reg 1).toNat] (r.neighbours known) →
         exec (.gbfac g blk ec nu) s = .next (queue (.fac (reg 1).toNat) (d0 + d1 + d3))) ∧
       (r.malformed known = false → r.factor = false → checked ([0, 4] ++ (List.range r.n).map (6 + r.n + ·)) (r.neighbours known) →
         exec (.gbvar g blk ec nu) s = .next (queue .var (d0 + d1 + d3)))) ∧
      (let slot := (reg 1).toNat % 8
       let push := (reg 1).toNat / 2 ^ 8 % 2 == 1
       let img := if ptrFmt (reg 2) = 7 then ptrAddr (reg 2) / 2 else ptrAddr (reg 2)
       (reg 1).toNat = slot + (if push then 2 ^ 8 else 0) → ptrFormatBad (ptrFmt (reg 2)) (ptrL (reg 2)) = false →
       img % 64 = 0 → ptrAddr (reg 2) % 2 = 0 → r.malformed known = false → slot < r.n →
       checked [0, 6 + slot] [⟨.r, img / 64, reg 2, false⟩] →
       ∀ x : RangeRead, ({ s2 with nextCmd := s2.nextCmd + 1 } : State).readOnce q q.core [] [(img, 56)] = some x →
       x.state.takeLines q s2.nextCmd t.core (recLines r.addr r.n) = some (s3, d3) → s3.turn = some t →
       exec (.gbwr g blk ec nu) s =
         .next (queue (.write slot push (x.bytes.getD 0 []) x.bad) (d0 + d1 + x.dram + d3))) ∧
      (r.malformed known = true ∨ r.factor = false ∨ r.n ≤ (reg 1).toNat → exec (.gbfac g blk ec nu) s = .next bad) ∧
      (r.malformed known = true ∨ r.factor = true → exec (.gbvar g blk ec nu) s = .next bad))) ∧
    (∀ d : Reg, h.takes d →
      let e := r0.ended t
      let now := t.at_.work.isSome = true ∨ (e.core t.core).gaussNow e.now = none
      (∀ w, t.at_.work = none → (e.core t.core).gaussNow e.now = some w →
        exec (.gbpop g d) s = .next ((e.modThread t.core t.slot
          (fun x => { x with issued := some { t.at_ with work := some w } })).chunkOver t.core t.slot)) ∧
      (let u := e.modCtx t.core h.ctx (fun x =>
         if x.fireNow = [] then { x with fireNow := x.fireNext, fireNext := [] } else x)
       now → ((u.ctx t.core h.ctx).fireNow = [] → exec (.gbpop g d) s = .next ((u.put t.core h d 0).retire t)) ∧
       (∀ p rest, (u.ctx t.core h.ctx).fireNow = p :: rest →
         let v := u.modCtx t.core h.ctx (fun x => { x with fireNow := rest })
         let q := v.unitIssuer t.core h.ctx h.vdev
         let gives (w : State) : Prop := Running w t k → exec (.gbpop g d) s = .next ((w.put t.core k d p).retire t)
         (v.lineMapped t.core h.vdev (ptrAddr p / 64) = false → gives v) ∧
         (∀ imgs lost dr w w1 dh, v.lineMapped t.core h.vdev (ptrAddr p / 64) = true →
           v.engineReads q t.core [ptrAddr p / 64] = some (imgs, lost, dr, w) →
           w.gaussSetHead q t.core h.ctx p id = some (w1, dh) →
           let succ : Word := BitVec.ofNat 64 (leNat (slice (imgs.getD 0 (0, [])).2 16 8))
           (succ = 0 → gives w1) ∧
           (succ ≠ 0 →
             (∀ dr w2, w1.gaussSize q t.core (ptrAddr succ) = some (none, dr, w2) → gives w2) ∧
             (∀ m dr w2 w3 dp, w1.gaussSize q t.core (ptrAddr succ) = some (some m, dr, w2) →
               w2.gaussPush q t.core h.ctx succ false = some (w3, dp) → gives w3))))))

/-! ## Packets that arrive -/

/-- What an arriving packet does, where `flight? k` says that flight `k` is the one that arrives on its path: a record joins
the task queue or its spill region, a travelling context its context's arrival queue, or what the riddle has yet to spill; a
SEND's payload goes into the registers of the thread that its identity names and readies it, into the mailbox queue where it
names slot 63 or no thread, and back to its sender's where its device has no context; an entry joins the mailbox queue; a word
joins its FIFO or its channel end, and one for another end is discarded; a grant raises the allowance; a notice moves the
credence score of its device's context, or is discarded; a tile enters a free latch; a command with the right capability enters
a free shadow set. An arrival without room is refused, and sent again 64 cycles later, as is a refused sync request; one that
has been accepted lets a sender that waits for it go on (R23, R63, R69, R72, R73, R76, R78, R142, R219, R220, R307). A word that an instruction has taken which may
still trap keeps its place in its FIFO (R107).
Model's own readings that it rests on: notes/assumptions, 10, 75. -/
def Obligations.PacketArrivals : Prop :=
  (∀ (s : State) (k dst : Nat) (f : Flight) (r : TaskRec),
    s.flight? k = some f → f.pkt = .task dst r →
      ((s.core dst).queue.length < 64 → (s.core dst).spill = [] →
        exec (.taskRecordArrival k) s =
          .next ((s.setCore dst { s.core dst with queue := (s.core dst).queue ++ [r] }).accepted k f)) ∧
      (64 ≤ (s.core dst).queue.length ∨ (s.core dst).spill ≠ [] → s.spillOpen dst r.vdev = true →
        exec (.taskRecordArrival k) s =
          .next (((s.setCore dst { s.core dst with spill := (s.core dst).spill ++ [r] }).spillDram dst r.vdev 1).accepted k f)) ∧
      (64 ≤ (s.core dst).queue.length ∨ (s.core dst).spill ≠ [] → s.spillOpen dst r.vdev = false →
        exec (.taskRecordArrival k) s = .next (s.refuseFlight k f))) ∧
  (∀ (s : State) (k dst x : Nat) (f : Flight) (t : Travel),
    s.flight? k = some f → f.pkt = .context dst t → s.ctxOf dst t.vdev = some x →
    (s.ctx dst x).arrSpill = [] → (∀ p ∈ (s.core dst).arrOut, p.1 ≠ x) →
      (s.arrOpen dst x = true →
        exec (.hopArrival k) s = .next ((((s.modCore dst (fun q => { q with arrStamp := q.arrStamp + 1 })).modCtx dst x
          (fun q => { q with arrivals := q.arrivals ++ [.travel (s.core dst).arrStamp t] }))).accepted k f)) ∧
      (s.arrOpen dst x = false → s.spillOpen dst (s.ctx dst x).vdev 2 = true →
        exec (.hopArrival k) s = .next ((((s.modCore dst (fun q => { q with arrStamp := q.arrStamp + 1 })).modCore dst
          (fun q => { q with arrOut := q.arrOut ++ [(x, .travel (s.core dst).arrStamp t)] }))).accepted k f)) ∧
      (s.arrOpen dst x = false → s.spillOpen dst (s.ctx dst x).vdev 2 = false →
        exec (.hopArrival k) s = .next (s.refuseFlight k f))) ∧
  (∀ (s : State) (k dst src i : Nat) (f : Flight) (v : VDev) (id : Word) (ws : List Word) (t : Thread),
    s.flight? k = some f → f.pkt = .message dst src v id ws → field id 43 38 = i → i < 62 →
    (i, t) ∈ (s.core dst).slots → (∀ p ∈ (s.core dst).slots, p.1 % 64 = i → p = (i, t)) →
    t.vdev = v → (s.gen dst i).toNat = field id 30 16 → field id 37 31 + ws.length ≤ t.size →
      ∃ (u : State), exec (.messageArrival k) s = .next (u.accepted k f) ∧
        (∀ n, n < ws.length → u.reg dst (t.base + field id 37 31 + n) = ws.getD n 0) ∧
        (∀ e, e < t.base + field id 37 31 ∨ t.base + field id 37 31 + ws.length ≤ e → u.reg dst e = s.reg dst e) ∧
        ∃ (h : Thread), u.thread? dst i = some h ∧ h.preds = t.preds ∧
          (t.status = .suspended → h.status = .ready ∧ h.pc = t.following ∧ h.wake = t.wake) ∧
          (t.status = .ready → h.status = .ready ∧ h.pc = t.pc ∧ h.wake = true)) ∧
  (∀ (s : State) (k dst src : Nat) (f : Flight) (v : VDev) (id : Word) (ws : List Word),
    s.flight? k = some f → f.pkt = .message dst src v id ws → field id 43 38 ≠ 63 →
    (∀ p ∈ (s.core dst).slots, p.1 % 64 = field id 43 38 → p.1 ≠ 63 → p.2.vdev ≠ v ∨
      (s.gen dst p.1).toNat ≠ field id 30 16 ∨ p.2.size < field id 37 31 + ws.length) →
      let m : Mail := ⟨v, 1, src, BitVec.ofNat 32 (field id 47 16), ws⟩
      ((s.ctxOf dst v).isSome = true → s.mailOpen dst v = true →
        exec (.messageArrival k) s = .next (((s.modCore dst (fun q => { q with mail := q.mail ++ [m] })).endYields dst
          (fun _ _ => true)).accepted k f)) ∧
      ((s.ctxOf dst v).isSome = true → s.mailOpen dst v = false →
        exec (.messageArrival k) s = .next (s.refuseFlight k f)) ∧
      (s.ctxOf dst v = none → exec (.messageArrival k) s =
        .next ((s.send (.mail src { m with src := dst }) dst f.thread false (some (v, f.launch))).accepted k f))) ∧
  (∀ (s : State) (k dst : Nat) (f : Flight) (m : Mail), s.flight? k = some f → f.pkt = .mail dst m →
      (s.mailOpen dst m.vdev = true →
        exec (.messageArrival k) s = .next (((s.modCore dst (fun q => { q with mail := q.mail ++ [m] })).endYields dst
          (fun _ _ => true)).accepted k f)) ∧
      (s.mailOpen dst m.vdev = false → exec (.messageArrival k) s = .next (s.refuseFlight k f))) ∧
  (∀ (s : State) (k dst src : Nat) (f : Flight) (v : VDev) (id : Word) (ws : List Word),
    s.flight? k = some f → f.pkt = .message dst src v id ws → field id 43 38 = 63 → (s.ctxOf dst v).isSome = true →
      (s.mailOpen dst v = true →
        exec (.messageArrival k) s = .next (((s.modCore dst (fun q => { q with
          mail := q.mail ++ [⟨v, 0, src, BitVec.ofNat 32 (field id 47 16), ws⟩] })).endYields dst
          (fun _ _ => true)).accepted k f)) ∧
      (s.mailOpen dst v = false → exec (.messageArrival k) s = .next (s.refuseFlight k f))) ∧
  (∀ (s : State) (k dst : Nat) (f : Flight) (d : Dir) (v : VDev) (w : Word) (x : Context),
    s.flight? k = some f → f.pkt = .port dst d v w → s.claimant dst d = some x → x.vdev = v →
      (((s.core dst).fifo d).length + (s.core dst).lentWords d < 4 →
        exec (.portWordArrival k) s = .next ((s.modCore dst (fun q => { q with
          fifos := q.fifos.put (dirIdx d) (q.fifo d ++ [w]) })).accepted k f)) ∧
      (4 ≤ ((s.core dst).fifo d).length + (s.core dst).lentWords d → exec (.portWordArrival k) s = .next (s.refuseFlight k f))) ∧
  (∀ (s : State) (k dst de src se : Nat) (f : Flight) (w : Word) (e : ChanEnd),
    s.flight? k = some f → f.pkt = .channel dst de src se w → (s.core dst).ends.find? de = some e →
    e.recv = true → e.peer = src → e.peerEnd = se →
      (e.buf.length < 16 →
        exec (.channelWordArrival k) s = .next (((s.setEnd dst de { e with buf := e.buf ++ [w] }).endYields dst
          (fun i _ => i == e.slot)).accepted k f)) ∧
      (16 ≤ e.buf.length → exec (.channelWordArrival k) s = .next (s.refuseFlight k f))) ∧
  (∀ (s : State) (k dst de src se : Nat) (f : Flight) (w : Word),
    s.flight? k = some f → f.pkt = .channel dst de src se w →
    (∀ e, (s.core dst).ends.find? de = some e → e.recv = false ∨ e.peer ≠ src ∨ e.peerEnd ≠ se) →
      exec (.channelWordArrival k) s = .next (s.accepted k f)) ∧
  (∀ (s : State) (k dst de src se n : Nat) (f : Flight) (e : ChanEnd),
    s.flight? k = some f → f.pkt = .grant dst de src se n → (s.core dst).ends.find? de = some e →
    e.recv = false → e.peer = src → e.peerEnd = se →
      exec (.channelGrantArrival k) s =
        .next ((s.setEnd dst de { e with allow := min (2 ^ 32 - 1) (e.allow + n) }).accepted k f)) ∧
  (∀ (s : State) (k dst x : Nat) (f : Flight) (v : VDev) (kept : Bool),
    s.flight? k = some f → f.pkt = .credence dst v kept → s.ctxOf dst v = some x →
      exec (.credenceNotice k) s = .next ((s.modCtx dst x (fun q => { q with
        cred := if kept then min 255 (q.cred + 1) else q.cred - 8 })).accepted k f)) ∧
  (∀ (s : State) (k dst : Nat) (f : Flight) (v : VDev) (kept : Bool),
    s.flight? k = some f → f.pkt = .credence dst v kept → s.ctxOf dst v = none →
      exec (.credenceNotice k) s = .next (s.accepted k f)) ∧
  (∀ (s : State) (k dst : Nat) (f : Flight) (hi : Bool) (tile : RingTile),
    s.flight? k = some f → f.pkt = .tile dst hi tile → (s.ctxOf dst tile.vdev).isSome = true →
      (((s.core dst).queueOf hi).latch = none → f.core ≠ dst →
        ∃ (u : State), exec (.ringTileArrival k) s = .next (u.accepted k f) ∧
          ((u.core dst).queueOf hi).latch = some tile ∧
          ((u.core f.core).queueOf hi).active =
            ((s.core f.core).queueOf hi).active.map (fun m => { m with out := false })) ∧
      (∀ x, ((s.core dst).queueOf hi).latch = some x → (s.ctxOf dst x.vdev).isSome = true →
        exec (.ringTileArrival k) s = .next (s.refuseFlight k f))) ∧
  (∀ (s : State) (k dst : Nat) (f : Flight) (hi : Bool) (cap : Word) (m : MCmd),
    s.flight? k = some f → f.pkt = .mcmd dst hi cap m → (s.core dst).fenced = false →
      ((s.core dst).capOk cap hi = true → ((s.core dst).queueOf hi).shadow = none →
        exec (.mcmdArrival k) s = .next ((s.toShadow dst hi m).accepted k f)) ∧
      ((s.core dst).capOk cap hi = true → ((s.core dst).queueOf hi).shadow ≠ none →
        exec (.mcmdArrival k) s = .next (s.refuseFlight k f)) ∧
      ((s.core dst).capOk cap hi = false →
        exec (.mcmdArrival k) s = .next ((s.refuseCmd dst m).accepted k f))) ∧
  (∀ (s : State) (k n : Nat) (f : Flight), s.wire[k]? = some f → f.resend = some n →
      (n ≤ s.now → exec (.refusalResend (.wire k)) s =
        .next { s with wire := s.wire.set k { f with resend := none } }) ∧
      (s.now < n → exec (.refusalResend (.wire k)) s = .next s)) ∧
  (∀ (s : State) (core : CoreId) (i n : Nat) (t : Thread) (op : MemOp),
    s.thread? core.toNat i = some t → t.status = .refused op n →
      (n ≤ s.now → exec (.refusalResend (.sync core i)) s =
        .next (s.setThread core.toNat i { t with status := .home op, asked := s.now })) ∧
      (s.now < n → exec (.refusalResend (.sync core i)) s = .next s)) ∧
  (∀ (s : State) (k : Nat) (f : Flight),
    s.refuseFlight k f = { s with wire := s.wire.set k { f with resend := some (s.now + 64) } } ∧
    (s.accepted k f).wire = s.wire.eraseIdx k ∧
    ∀ i t, s.threadBy f.core f.thread = some (i, t) → s.thread? f.core i = some t → f.waits = true → t.status = .engine →
      (s.accepted k f).thread? f.core i = some { t with status := .ready })

/-! ## Requests at homes, commits and lines -/

/-- Requests that threads wait for at homes, their replies, retries, and the home's own work: a request is served once its
home can, and leaves its reply with its thread; a reply is applied and the thread goes on at the next instruction; a parked
operation is tried again when 64 cycles have passed, and answers its limit when its tries are used up; a prefetch that waits is
served without a reply; a load's word for a port waits with its thread; a recall sends dirty bytes home; the riddle faults to
management where it cannot read a line's metadata; a line fills a free way; a walk's leaf enters the cache (R53, R120, R123, R127-R130, R143, R195, R198, R294,
R333).
That a recalled entry's access is no use of its promise, and how the overflow handler's fault shows, is the model's choice.
Model's own readings that it rests on: notes/assumptions, 32, 49, 51, 52, 69. -/
def Obligations.HomeEvents : Prop :=
  (∀ (s u : State) (c i : Nat) (t k : Thread) (op : MemOp) (r : Reply) (e : Instr),
    i < 1023 → s.thread? c i = some t → t.status = .home op →
    (e = .homeAccess (c * 1024 + i) ∧ op.isAccess = true) ∨ (e = .syncAtHome (c * 1024 + i) ∧ op.isSync = true) ∨
      (e = .atomicAtHome (c * 1024 + i) ∧ op.isAtomic = true) ∨ (e = .joinAtHome (c * 1024 + i) ∧ op.isJoin = true) ∨
      e = .migrationRetry (c * 1024 + i) →
    let s0 := s.atTurn c i t
    ((serve op).run s0 = .ok (some r, u) → u.thread? c i = some k →
      exec e s = .next { u.setThread c i { k with status := .reply op r } with turn := none }) ∧
    ((serve op).run s0 = .ok (none, u) → exec e s = .next { u with turn := none }) ∧
    (∀ o, (serve op).run s0 = .error (.wait o) → exec e s = .next s) ∧
    (∀ tr logs, (serve op).run s0 = .error (.trap tr logs) →
      exec e s = .next (((s.unrefuse c i).setThread c i { t with status := .ready }).takeTrap c i tr logs))) ∧
  (∀ (s u : State) (c : Nat) (p : Prefetch) (rest : List Prefetch),
    (s.core c).prefs = p :: rest →
    let act := prefetchLine ⟨c, p.ctx, p.task, p.vdev, p.use⟩ p.ptr
      ((((memRefAt p.ptr (ptrFmt p.ptr)).ranges true).getD []).headD (ptrAddr p.ptr, 0)).1
    let gone (v : State) : State := v.modCore c (fun q => { q with prefs := q.prefs.eraseIdx 0 })
    (act.run s = .ok ((), u) → exec (.homeAccess (c * 1024 + 1023)) s = .next (gone u)) ∧
    (∀ tr logs, act.run s = .error (.trap tr logs) → exec (.homeAccess (c * 1024 + 1023)) s = .next (gone s)) ∧
    (∀ o, rest = [] → act.run s = .error (.wait o) → exec (.homeAccess (c * 1024 + 1023)) s = .next s)) ∧
  (∀ (s s1 s2 : State) (c i pa : Nat) (use : Use) (t k : Thread) (o : AtomOp) (d : Reg) (ptr v w : Word),
    i < 1023 → i ≠ 63 → s.thread? c i = some t → t.status = .home (.atomic o d ptr v w use) →
    (homeWord .rw ptr).run (s.atTurn c i t) = .ok (pa, s1) → Running s1 (s.turnOf c i t t.following) t →
    (atHome (Who.rq ⟨c, t.ctx, t.task, t.vdev, use⟩ ptr 0) pa).run s1 = .ok ((), s2) →
    s2.turn = some (s.turnOf c i t t.following) →
    let u := s2.squashMeeting c i [ptrAddr ptr / 64]
    let z := (u.putWord pa (o.apply (u.wordAt pa) v w).1).wrote (pa / 64)
    z.thread? c i = some k →
      exec (.atomicAtHome (c * 1024 + i)) s = .next { z.setThread c i
        { k with status := .reply (.atomic o d ptr v w use) (.value (o.apply (u.wordAt pa) v w).2) } with turn := none }) ∧
  (∀ (s : State) (core : CoreId) (i : Nat) (t : Thread) (op : MemOp) (r : Reply),
    s.thread? core.toNat i = some t → t.status = .reply op r →
    let c := core.toNat
    let go := s.turnOf c i t t.following
    let s1 : State := { s.setThread c i { t with status := .ready } with turn := some go }
    let last : Thread := { t with status := .ready, chunk := { t.chunk with closing := true } }
    let s2 := s1.setThread c i last
    (∀ d v, t.takes d → r = .value v → (∃ p f raw use, op = .load d p f raw use) →
      exec (.memoryReply core i) s = .next { (s1.put c t d v).retire go with turn := none }) ∧
    (∀ q v, r = .value v → (∃ p f raw use, op = .load (.port q) p f raw use) →
      exec (.memoryReply core i) s =
        .next { (s1.setThread c i { last with status := .port q v }).chunkOver c i with turn := none }) ∧
    (∀ d v, t.takes d → r = .value v →
        ((∃ o p x y use, op = .atomic o d p x y use) ∨ ∃ o p x l use, op = .sync o d p x l use) →
      exec (.memoryReply core i) s = .next { (s2.put c t d v).retire go with turn := none }) ∧
    (∀ n p nu a b, op = .pair n p nu → r = .pair a b → exec (.memoryReply core i) s =
      .next { ((s1.setReg c (t.base + n) a).setReg c (t.base + (n + 1)) b).retire go with turn := none }) ∧
    (∀ p x l nu b, op = .join p x l nu → r = .pred b → exec (.memoryReply core i) s =
      .next { (s1.setThread c i (last.setPred p b)).retire go with turn := none }) ∧
    (∀ o d p x l nu, op = .sync o d p x l nu → r = .nothing →
      exec (.memoryReply core i) s = .next { s2.retire go with turn := none }) ∧
    (∀ o d p x l nu, op = .sync o d p x l nu → r = .limit → exec (.memoryReply core i) s =
      .next { s1.takeTrap c i ⟨10, p, 0, match o with | .sts => 1 | .waitc => 2 | _ => 0⟩ [] with turn := none })) ∧
  (∀ (s u : State) (core : CoreId) (idx : Nat) (e : Park) (t k : Thread) (o : SyncOp) (d : Reg) (p v : Word)
      (l : Nat) (use : Use) (r : Reply),
    let c := core.toNat
    (s.core c).park.find? idx = some e → s.thread? e.core e.slot = some t → t.status = .parked (.sync o d p v l use) →
    (s.now < e.next → exec (.parkRetry core idx) s = .next s) ∧
    (e.next ≤ s.now → let s0 := s.atTurn e.core e.slot t
      ((syncAt o p v use e.pa false).run s0 = .ok (some r, u) → u.thread? e.core e.slot = some k →
        exec (.parkRetry core idx) s = .next { (u.modCore c (fun q => { q with park := q.park.del idx })).setThread
          e.core e.slot { k with status := .reply (.sync o d p v l use) r } with turn := none }) ∧
      ((syncAt o p v use e.pa false).run s0 = .ok (none, u) → e.count + 1 < e.limit →
        exec (.parkRetry core idx) s = .next { u.modCore c (fun q => { q with
          park := q.park.put idx { e with count := e.count + 1, next := u.now + 64 } }) with turn := none }) ∧
      ((syncAt o p v use e.pa false).run s0 = .ok (none, u) → e.limit ≤ e.count + 1 → u.thread? e.core e.slot = some k →
        exec (.parkRetry core idx) s = .next { (u.modCore c (fun q => { q with park := q.park.del idx })).setThread
          e.core e.slot { k with status := .reply (.sync o d p v l use) .limit } with turn := none }))) ∧
  (∀ (s : State) (pa c gl i : Nat) (e : Entry) (write : Bool),
    s.holders (pa / 64) = [c] → s.glOf c (pa / 64) = some gl → s.stashFind c gl = some (i, e) → e.priv = false →
    e.owner = none → e.st = .dirty → (write = true ∨ (s.dirOf (pa / 64)).excl = true) →
    (s.dirOf (pa / 64)).engine = none → s.ownerOk c (s.ctx c e.ctx).vdev (64 * (pa / 64)) = true →
    s.writeBad (64 * (pa / 64)) e.masked = false → (s.sliceFind (pa / 64)).isSome = true →
      ∃ (u : State), exec (.stashRecall pa write) s = .next u ∧
        u.mem = memMerge s.mem (64 * (pa / 64)) (e.data.zip e.mask) ∧
        ∃ y, (u.core c).stash.find? i = some y ∧ y.line = e.line ∧ y.mask = List.replicate 64 0 ∧ y.excl = false ∧
          y.reuse.opn = false ∧ y.st = (if write then .unfilled else .clean)) ∧
  (∀ (s : State) (core : CoreId) (pl sh : Nat) (rest : List (Nat × Nat)) (q : Nat × VDev),
    (s.core core.toNat).overflowWork = (pl, sh) :: rest → s.metaBad.contains pl = false → List.find? (fun q => q.1 == sh) (s.dirOf pl).queued = some q →
      exec (.directoryOverflowHandler core) s =
        .next ((s.modCore core.toNat (fun k => { k with overflowWork := rest })).setDir pl { s.dirOf pl with
          queued := (s.dirOf pl).queued.filter (· ≠ q), overflow := (s.dirOf pl).overflow ++ [q] })) ∧
  (∀ (s : State) (core : CoreId) (pl sh : Nat) (rest : List (Nat × Nat)),
    (s.core core.toNat).overflowWork = (pl, sh) :: rest → s.metaBad.contains pl = true →
      exec (.directoryOverflowHandler core) s =
        .next ((s.modCore core.toNat (fun k => { k with overflowWork := rest })).refuse "overflow handler")) ∧
  (∀ (s : State) (pa w : Nat),
    let home := homeOf (64 * (pa / 64))
    let set := pa / 64 % 64
    s.sliceFind (pa / 64) = none →
    (List.range 16).find? (fun w => ((s.core home).slice.find? (set * 16 + w)).isNone) = some w →
      ∃ (u : State) (y : SliceLine), exec (.sliceFill pa) s = .next u ∧
        (u.core home).slice.find? (set * 16 + w) = some y ∧ y.pline = pa / 64 ∧
        y.vdev = (s.granule (pa / 4096)).owner ∧ y.reuse.who = homeOf pa ∧ u.mem = s.mem) ∧
  (∀ (s : State) (core : CoreId) (v : VDev) (ga : Pc) (l : Leaf),
    mtcFind (s.core core.toNat).mtc v ga.toNat = none →
      (s.walk core.toNat v ga.toNat = .ok l → exec (.translationWalk core v ga) s = .next (s.useLeaf core.toNat l)) ∧
      (∀ r, s.walk core.toNat v ga.toNat = .fault r → exec (.translationWalk core v ga) s = .next s))

/-- CHUNK_COMMIT (R123, R131, R146, R147): a chunk that asks for commit and that no older conflicting one holds back makes
its store visible at its home, byte by byte through the store's nibble masks, and leaves every other byte of memory alone;
every other thread that has read or written the line goes back to its chunk's start, its held stores discarded; and the
thread's next chunk begins. A chunk that an older conflicting request holds back waits. Stated of one store into one line
that no stash holds and whose home's slice holds it.
Model's own readings that it rests on: notes/assumptions, 47, 55, 64. -/
def Obligations.CommitMakesStoresVisible : Prop :=
  ∀ (s : State) (core : CoreId) (i a : Nat) (use : Use) (bytes : List (Byte × Nat)) (t : Thread) (l : Leaf),
    let c := core.toNat
    s.thread? c i = some t → t.chunk.closing = true →
    (s.yieldsTo c i t.chunk = true → exec (.chunkCommit core i) s = .next s) ∧
    (s.yieldsTo c i t.chunk = false → t.chunk.held = [⟨a, bytes, use, false⟩] → a < 2 ^ 55 → a % 64 + bytes.length ≤ 64 →
      memWf s.mem = true → s.stashFind c (a / 64) = none → s.translate c t.vdev (64 * (a / 64)) = .ok l →
      l.phys (64 * (a / 64)) % 64 = 0 →
      let pa := l.phys (64 * (a / 64)) + a % 64
      s.ownerOk c t.vdev pa = true → s.dirOf (pa / 64) = ⟨[], [], [], false, none⟩ → s.bad (pa / 64) = false →
      (s.sliceFind (pa / 64)).isSome = true →
      ∃ (u : State), exec (.chunkCommit core i) s = .next u ∧
        (∀ j, j < bytes.length → memGet u.mem (pa + j) =
          mergeByte (memGet s.mem (pa + j)) (bytes.getD j (0, 0)).1 (bytes.getD j (0, 0)).2) ∧
        (∀ x, x < pa ∨ pa + bytes.length ≤ x → memGet u.mem x = memGet s.mem x) ∧
        (∃ w p, u.thread? c i = some { t with
          taken := t.taken.filter (fun q => q.2.1 != t.handler), chunk := Chunk.fresh t w p }) ∧
        (∀ c' i' q, s.thread? c' i' = some q → i' ≠ 63 → (c' ≠ c ∨ i' ≠ i) →
          (∃ x ∈ t.chunk.wset, x ∈ q.chunk.rset ∨ x ∈ q.chunk.wset) →
          ∃ q', u.thread? c' i' = some q' ∧ q'.pc = q.chunk.pc0 ∧ q'.preds = q.chunk.preds0 ∧
            q'.flags = q.chunk.flags0 ∧ q'.chunk.held = []))

/-! ## Dispatch, travel and eviction -/

/-- Dispatch, eviction and re-entry (R56, R59, R61, R64, R66, R80, R158, R202, R261-R264, R273): an arrival is dispatched
before any record and a high-priority record before a low-priority one; a record's thread starts at its entry with its
arguments, zeros behind them, predicate 0 alone set and FLAGS 0, in the lowest free slot and window; a travelling context goes
on where it left; an eviction saves the thread at its chunk's start with its task and frees its slot, a request for one that is
at no boundary waiting, and re-entry puts it in an arrival queue; a hand-over binds a context to its slots and lists the slots that pass to it, and at its turn such a slot goes to that
context and is taken from every other; lent slots are recorded, and a finished recall
leaves none; the rake moves a movable entry from a queue deeper by more than two. Where nothing can be done, nothing
changes. That a request which has to wait is taken again, what a recall waits for, and which task and fetch buffer an evicted thread
has again, is the model's choice.
Model's own readings that it rests on: notes/assumptions, 21, 35, 38, 39, 53, 57, 59, 66, 70, 71, 77. -/
def Obligations.DispatchAndEviction : Prop :=
  (∀ (s : State) (core : CoreId) (x key b tk i : Nat) (r : TaskRec),
    let c := core.toNat
    (s.core c).closed = false → (s.core c).fenced = false → s.leaving c = false → s.nextArrival c = none →
    (s.nextRecord c true = some (i, r) ∨ (s.nextRecord c true = none ∧ s.nextRecord c false = some (i, r))) →
    s.ctxOf c r.vdev = some x → s.slotFree c x = some key → s.freeBase c r.size = some b → (s.core c).spill = [] →
    (r.task = some tk ∨ (r.task = none ∧ (s.core c).tasks.free 64 = some tk)) →
      ∃ (u : State) (h : Thread), exec (.dispatch core) s = .next u ∧ u.thread? c key = some h ∧ h.pc = r.entry ∧
        h.base = b ∧ h.size = r.size ∧ h.ctx = x ∧ h.vdev = r.vdev ∧ h.prio = r.prio ∧ h.launch = r.launch ∧
        h.task = tk ∧ h.spawned = r.task.map (fun n => (s.task c n).id) ∧ h.starts = s.now + 4 ∧ h.pending = [] ∧ h.level = false ∧ h.preds = 1 ∧ h.flags = 0 ∧ h.fsave = 0 ∧
        h.wake = false ∧ h.handler = false ∧ h.status = .ready ∧ (r.task = none → u.task c tk = Task.fresh s.nextId (s.cyc c) 0 r.prio) ∧
        (∀ n, n < r.size → u.reg c (b + n) = r.xs.getD n 0) ∧ (u.core c).queue = (s.core c).queue.eraseIdx i ∧
        u.mem = s.mem) ∧
  (∀ (s : State) (core : CoreId) (x key b tk m : Nat) (t : Travel),
    let c := core.toNat
    (s.core c).closed = false → (s.core c).fenced = false → s.leaving c = false → s.nextArrival c = some (x, .travel m t) →
    .travel m t ∈ (s.ctx c x).arrivals → s.slotFree c x = some key → s.freeBase c 16 = some b →
    (s.core c).tasks.free 64 = some tk →
      ∃ (u : State) (h : Thread), exec (.dispatch core) s = .next u ∧ u.thread? c key = some h ∧ h.pc = t.pc ∧
        h.base = b ∧ h.size = 16 ∧ h.preds = t.preds ∧ h.flags = t.flags ∧ h.level = t.level ∧ h.prio = t.prio ∧
        h.status = .ready ∧ h.pending = t.pending ∧ h.id = t.id ∧ h.hops = t.hops ∧ (u.task c tk).bclk = t.bclk ∧
        (u.task c tk).prio = t.prio ∧ (∀ n, n < 16 → u.reg c (b + n) = t.xs.getD n 0) ∧
        u.mem = s.mem) ∧
  (∀ (s : State) (core : CoreId) (x key b tk m : Nat) (v : Saved),
    let c := core.toNat
    (s.core c).closed = false → (s.core c).fenced = false → s.leaving c = false → s.nextArrival c = some (x, .evicted m v) → v.cmds = [] →
    .evicted m v ∈ (s.ctx c x).arrivals → s.slotFree c x = some key → s.freeBase c v.regs.length = some b →
    (s.core c).tasks.free 64 = some tk →
      ∃ (u : State) (h : Thread), exec (.dispatch core) s = .next u ∧ u.thread? c key = some h ∧ h.pc = v.th.pc ∧
        h.base = b ∧ h.size = v.th.size ∧ h.preds = v.th.preds ∧ h.flags = v.th.flags ∧ h.fsave = v.th.fsave ∧
        h.handler = v.th.handler ∧ h.pending = v.th.pending ∧ h.saved = v.shadow ∧ h.altLast = 4 ∧ h.fetch = v.th.fetch ∧
        ((∀ p ∈ (s.core c).tasks, p.2.id ≠ v.task.id) → h.task = tk ∧ (u.task c tk).id = v.task.id ∧
          (u.task c tk).bclk = v.bclk ∧ (u.task c tk).limit = v.task.limit ∧ (u.task c tk).count = v.task.count) ∧
        (∀ n, n < v.regs.length → u.reg c (b + n) = v.regs.getD n 0) ∧ u.mem = s.mem) ∧
  (∀ (s : State) (core : CoreId), (s.core core.toNat).closed = true ∨ s.leaving core.toNat = true →
    exec (.dispatch core) s = .next s) ∧
  (∀ (s : State) (core : CoreId) (x : Nat) (k : Context) (a : Arrival) (rest : List (Nat × Arrival)),
    let c := core.toNat
    let oldest (k : Context) : Nat := (k.arrSpill.map Arrival.stamp).headD 0
    ((x, k) ∈ s.refillable c → (∀ p ∈ s.refillable c, p = (x, k) ∨ oldest k < oldest p.2) →
      exec (.arrivalRefill core) s = .next ((s.modCtx c x (fun k => { k with
        arrivals := k.arrivals ++ k.arrSpill.take 1, arrSpill := k.arrSpill.drop 1 })).spillDram c k.vdev
          (sumOf (k.arrSpill.take 1) (fun a => a.lines true - a.lines false)))) ∧
    (s.refillable c = [] → (s.core c).arrOut = (x, a) :: rest →
      exec (.arrivalRefill core) s = .next (((s.modCore c (fun k => { k with arrOut := rest })).modCtx c x (fun k => { k with
        arrSpill := k.arrSpill ++ [a] })).spillDram c a.vdev (a.lines true - a.lines false))) ∧
    (s.refillable c = [] → (s.core c).arrOut = [] → exec (.arrivalRefill core) s = .next s)) ∧
  (∀ (s : State) (core : CoreId) (i n : Nat) (r : TaskRec),
    let c := core.toNat
    (s.rakePick c false = some (i, r, n) ∨ (s.rakePick c false = none ∧ s.rakePick c true = some (i, r, n))) →
      r.movable = true ∧ (s.core n).queue.length + 2 < (s.core c).queue.length ∧
      ((s.core n).queue.length < 64 → (s.core n).spill = [] → (s.core c).spill = [] → n ≠ c →
        ∃ (u : State), exec (.rakeSample core) s = .next u ∧ (u.core n).queue = (s.core n).queue ++ [r] ∧
          (u.core c).queue = (s.core c).queue.eraseIdx i)) ∧
  (∀ (s : State) (core : CoreId) (i : Nat) (t : Thread),
    let c := core.toNat
    s.thread? c i = some t → i ≠ 63 →
    (t.status.evictable = false ∨ t.raised.isSome = true →
      exec (.threadEviction core i) s = .next (s.await (.threadEviction core i))) ∧
    (t.status.evictable = true → t.raised = none →
      (s.squash c i).spillOpen c t.vdev (ceilDiv (8 * t.size + 32 +
        (if (s.core c).shadow.holder = some i ∨ t.saved.isSome = true then 96 else 0)) 64) = true →
      ∃ (u : State) (sv : Saved), exec (.threadEviction core i) s = .next u ∧ u.evicted = s.evicted ++ [sv] ∧
        sv.th.pc = t.chunk.pc0 ∧ sv.th.preds = t.chunk.preds0 ∧ sv.th.flags = t.chunk.flags0 ∧ sv.th.size = t.size ∧
        sv.th.vdev = t.vdev ∧ sv.th.fetch = [] ∧ sv.task = s.task c t.task ∧ sv.regs.length = t.size ∧ sv.core = c ∧
        (t.status = .suspended → sv.th.wake = true) ∧ u.gen c i = s.gen c i + 1 ∧
        (s.wf → u.thread? c i = none) ∧ u.mem = s.mem)) ∧
  (∀ (s : State) (k x c : Nat) (v : Saved) (l : Launch),
    s.evicted[k]? = some v → s.launches.find? v.th.launch = some l →
    s.reentryCore l.node v.core v.regs.length = some c → s.ctxOf c v.th.vdev = some x →
    (s.ctx c x).arrSpill = [] → (∀ p ∈ (s.core c).arrOut, p.1 ≠ x) → s.arrOpen c x = true →
      exec (.evictedReentry k) s = .next (({ s with evicted := s.evicted.eraseIdx k } : State).modCore c (fun q =>
        { q with arrStamp := q.arrStamp + 1 }) |>.modCtx c x (fun q => { q with
          arrivals := q.arrivals ++ [.evicted (s.core c).arrStamp v] }))) ∧
  (∀ (s : State) (core : CoreId) (slots : List Nat) (v : VDev),
    let c := core.toNat
    (s.mayHold c v = true → (s.core c).fenced = false → (∀ j ∈ slots, j < 62) → ∀ x, s.ctxOf c v = some x →
      let u := (s.bindSlots c x).giveSlots c x slots
      exec (.rotationHandover core slots v) s = .next u ∧ u.mem = s.mem ∧
        (∀ j ∈ slots, (j, x) ∈ (u.core c).handing ∧ ∀ h ∈ (u.core c).handing, h.1 = j → h.2 = x) ∧
        (∀ k, (s.core c).ctxs.find? x = some k → x ≠ 63 → ∃ l, (u.ctx c x).slots = some l)) ∧
    (s.mayHold c v = false → exec (.rotationHandover core slots v) s = .next (s.refuse "hand-over"))) ∧
  (∀ (s : State) (c slot x : Nat),
    List.find? (fun h => h.1 == slot) (s.core c).handing = some (slot, x) →
      let u := s.passSlot c slot
      u.mem = s.mem ∧ (∀ h ∈ (u.core c).handing, h.1 ≠ slot) ∧
      ∀ p ∈ (u.core c).ctxs, ∀ l, p.2.slots = some l → (slot ∈ l ↔ p.1 = x)) ∧
  (∀ (s u : State) (core : CoreId) (a b : VDev) (slots : List Nat),
    let c := core.toNat
    (s.mayHold c a = true → (s.core c).fenced = false → a ≠ b → (∀ j ∈ slots, j < 62 ∧ ∀ l ∈ (s.core c).lent, l.1 ≠ j) →
      s.handOver c slots b = some u →
      exec (.lendSlots core a b slots) s = .next (u.modCore c (fun k => { k with
        lent := k.lent ++ slots.map (fun j => (j, a, b)) }))) ∧
    (s.mayHold c a = false → exec (.lendSlots core a b slots) s = .next (s.refuse "lend"))) ∧
  (∀ (s u : State) (core : CoreId) (a : VDev),
    let c := core.toNat
    (s.recallLent c a = (u, true) → exec (.lendRecall core a) s = .next u ∧ ∀ l ∈ (u.core c).lent, l.2.1 ≠ a) ∧
    ((∀ l ∈ (s.core c).lent, l.2.1 = a → s.ctxOf c l.2.2 = none) → ∃ (v : State), s.recallLent c a = (v, true)) ∧
    (s.recallLent c a = (u, false) → exec (.lendRecall core a) s = .next (u.await (.lendRecall core a)))) ∧
  (∀ (s : State) (core : CoreId) (i : Nat) (t : Thread),
    let c := core.toNat
    s.thread? c i = some t → i ≠ 63 → t.pc ∈ (s.core c).breaks → i ∉ (s.core c).stopped → s.active c i = true →
      exec (.debugBreakpoint core i) s =
        .next ((s.squash c i).modCore c (fun k => { k with stopped := k.stopped ++ [i] })))

/-! ## What the engines do by themselves -/

/-- The steps of copies (R150, R171-R187, R225): the barrow takes the lowest-numbered waiting request, refuses a stale handle
with status 1, pages that cannot be pinned with status 4 and a slab without a context with status 7, and else owns the lines
that the copy reaches and lets the thread go on; the datapath ends a copy that is done, cancelled (status 3) or revoked (status
2), and else reads one line and sends what is complete, or meets a fault, which stops the reading and makes the status 5; a
packet with land 0 is written and counted, one with another number starts its handler on the riddle with the line's image in
x0-x7, the packet's place in x8-x11 and zeros above, and one whose number has no entry ends the copy with status 6; an ended
copy frees its register, drops its pins and sends its record, with its fault where its status is 5, and its interrupt; a core's
acknowledgement of a revocation is noted, and the last one ends the revocation.
Model's own readings that it rests on: notes/assumptions, 31, 43, 65. -/
def Obligations.CopyEvents : Prop :=
  (∀ (s : State) (core : CoreId) (reg : Nat) (y : Copy),
    let c := core.toNat
    let pages := y.pieces.flatMap (fun p => [(p.src, false), ((p.src + p.len - 1) % 2 ^ 55, false), (p.dst, true)]) ++
      y.span.map (fun k => (64 * k.2, true))
    List.find? (fun p => p.2.st == .waiting) (s.core c).barrow = some (reg, y) →
    (y.hidx ≠ 0 → s.handleGen c y.hidx ≠ y.hgen → exec (.barrowAccept core) s = .next (s.endCopy c reg y 1)) ∧
    (∀ (v : State) (z : Copy) (st : Nat), v.endCopy c reg z st =
      (v.setCopy c reg { z with st := .sent, status := some st, stopAt := z.e }).goOn z.iss) ∧
    ((y.hidx = 0 ∨ s.handleGen c y.hidx = y.hgen) →
      (∀ s1, y.pin = true → s.pinFrames y.iss [] pages = some (none, s1) →
        exec (.barrowAccept core) s = .next (s1.endCopy c reg y 4)) ∧
      (∀ frames s1, (if y.pin then s.pinFrames y.iss [] pages = some (some frames, s1) else frames = [] ∧ s1 = s) →
        (∀ f ∈ frames, (s1.pins.get f ⟨0, 0⟩).engine < 65535) →
        let s2 := s1.pinEngine frames true
        let cores := s2.receivers y
        let y1 := { y with pinned := frames, hosts := cores.filter (fun k => (s2.ctxOf k y.iss.vdev).isSome) }
        (y.blk ≠ 0 → (∃ k ∈ cores, s2.ctxOf k y.iss.vdev = none) →
          exec (.barrowAccept core) s = .next (s2.endCopy c reg y1 7)) ∧
        ((y.blk = 0 ∨ ∀ k ∈ cores, (s2.ctxOf k y.iss.vdev).isSome = true) → ∀ u y2 v y3,
          s2.takeReached y1 y.span y.pieces = some (u, y2) →
          (if y2.faultAt.isSome then (v, y3) = (u, y2) else u.takeSpan y2 y.span = some (v, y3)) →
          exec (.barrowAccept core) s = .next ((v.setCopy c reg { y3 with st := .reading }).goOn y3.iss))))) ∧
  (∀ (s s1 u : State) (core : CoreId) (reg : Nat) (y : Copy),
    let c := core.toNat
    reg = (s.core c).barrowNext → reg < 8 → (s.core c).barrow.find? reg = some y → y.st = .reading →
    let turned (v : State) : State := v.modCore c (fun k => { k with barrowNext := (reg + 1) % 8 })
    let settled (z : Copy) : Copy := if z.stopAt ≤ z.e then { z with
      st := .sent, status := if z.status.isNone && z.faultAt.isSome then some 5 else z.status } else z
    let p := y.piece y.e
    let lines := p.lines (min p.len (y.stopAt - y.e))
    let from_ (gl : Nat) : Nat := if gl = p.src / 64 then p.src else 64 * gl
    (y.stopAt ≤ y.e → exec (.copyLineRead core) s = .next (turned (s.setCopy c reg { y with
      st := .sent, status := if y.status.isNone && y.faultAt.isSome then some 5 else y.status }))) ∧
    (y.e < y.stopAt → y.cancelled = true → exec (.copyLineRead core) s = .next (turned (s.setCopy c reg { y with
      st := .sent, stopAt := y.e, status := if y.status.isNone then some 3 else y.status }))) ∧
    (y.e < y.stopAt → y.cancelled = false → y.hidx ≠ 0 → s.handleGen c y.hidx ≠ y.hgen →
      exec (.copyLineRead core) s = .next (turned (s.setCopy c reg { y with
        st := .sent, stopAt := y.e, status := if y.status.isNone then some 2 else y.status }))) ∧
    (∀ gl, y.e < y.stopAt → y.cancelled = false → (y.hidx = 0 ∨ s.handleGen c y.hidx = y.hgen) →
      lines.find? (fun l => !y.seen.any (fun q => q.1 == l)) = some gl →
      (∀ r, ((y.pin = true ∧ s1 = s) ∨ (y.pin = false ∧ s.copyFault y.iss (from_ gl) false true = some (none, s1))) →
        s1.engineRead y.iss c gl = some (r, u) →
        let q := u.sendPieces c reg { y with seen := y.seen ++ [(gl, r.img, r.bad)], dram := y.dram + r.dram } 64
        exec (.copyLineRead core) s = .next (turned (q.1.setCopy c reg (settled q.2)))) ∧
      (∀ cause pa, y.pin = false → s.copyFault y.iss (from_ gl) false true = some (some (cause, pa), s1) →
        let q := s1.sendPieces c reg { y with
          stopAt := y.e + (from_ gl + 2 ^ 55 - p.src) % 2 ^ 55, faultAt := some (cause, from_ gl, pa)
          status := if y.status.isNone then some 5 else y.status } 1
        exec (.copyLineRead core) s = .next (turned (q.1.setCopy c reg (settled q.2))))) ∧
    (y.e < y.stopAt → y.cancelled = false → (y.hidx = 0 ∨ s.handleGen c y.hidx = y.hgen) →
      lines.find? (fun l => !y.seen.any (fun q => q.1 == l)) = none → ∀ y', s.sendPiece c reg y = some (u, y') →
      let q := u.sendPieces c reg y' 64
      exec (.copyLineRead core) s = .next (turned (q.1.setCopy c reg (settled q.2))))) ∧
  (∀ (s u v : State) (core : CoreId) (p : LandPkt) (rest : List LandPkt) (y : Copy) (l : Leaf) (miss : Nat),
    let c := core.toNat
    (s.core c).landing = p :: rest → s.copyOf p = some y → y.hidx = 0 → y.blk = 0 →
    (y.hosts.contains c = true → (s.ctxOf c y.iss.vdev).isSome = true) →
    let s0 := s.modCore c (fun k => { k with landing := rest })
    (y.land = 0 → s.translate y.iss.core y.iss.vdev p.addr = .ok l → s.ownerOk y.iss.core y.iss.vdev (l.phys p.addr) = true →
      s0.engineWrite y.iss y.id (2 ^ 20) p.addr (whole p.bytes) y.iss.nu p.poison = some (u, miss) →
      (u.costCopy p miss).landed c p = some v →
      exec (.landingPacket core) s = .next v) ∧
    (y.land ≠ 0 → (s.core c).landRun = none →
      let entry := match (s.core y.iss.core).ctxs.find? y.iss.ctx with
        | some x => if x.vdev = y.iss.vdev then x.landing.get y.land 0 else 0
        | none => 0
      let off := p.addr % 64
      let img := List.replicate off 0 ++ p.bytes ++ List.replicate (64 - off - p.bytes.length) 0
      (entry = 0 → exec (.landingPacket core) s = .next (s0.lost p 6)) ∧
      (entry ≠ 0 → ptrFmt entry = 0 ∨ ptrFmt entry = 15 → ptrAddr entry % 2 = 0 →
        ∃ (w : State) (h : Thread), exec (.landingPacket core) s = .next w ∧ w.thread? c 63 = some h ∧
          h.pc = BitVec.ofNat 55 (ptrAddr entry) ∧ h.size = 32 ∧ h.preds = 1 ∧ w.mem = s.mem ∧
          (w.core c).landRun = some ⟨p, y.iss.ctx, y.iss.vdev, 0⟩ ∧
          (∀ n, n < 8 → w.reg c (h.base + n) = BitVec.ofNat 64 (leNat ((img.drop (8 * n)).take 8))) ∧
          w.reg c (h.base + 8) = mkPtr (ptrFmt y.dst) (ptrL y.dst) (p.addr / 64 * 64) ∧
          w.reg c (h.base + 9) = BitVec.ofNat 64 (p.bytes.length + p.addr % 64 * 256 + p.row * 2 ^ 32) ∧
          w.reg c (h.base + 10) = y.tag.setWidth 64 ∧ w.reg c (h.base + 11) = BitVec.ofNat 64 p.e ∧
          ∀ n, 12 ≤ n → n < 32 → w.reg c (h.base + n) = 0)) ∧
    (y.land ≠ 0 → (s.core c).landRun ≠ none → exec (.landingPacket core) s = .next s)) ∧
  (∀ (z : State) (c : Nat) (p : LandPkt) (y : Copy), z.copyOf p = some y → y.ctr = 0 →
    ∃ (v : State) (y' : Copy), z.landed c p = some v ∧ v.copyOf p = some y' ∧
      y'.landed = y.landed + p.bytes.length ∧ y'.flying = y.flying - 1 ∧ v.mem = z.mem) ∧
  (∀ (s : State) (core : CoreId) (reg : Nat) (y : Copy),
    let c := core.toNat
    let next := match y.firstLost with | some e => min e y.e | none => y.e
    (s.core c).barrow.find? reg = some y → y.st = .sent →
    (y.flying ≠ 0 → exec (.copyCompletion core reg) s = .next s) ∧
    (∀ z : State, y.owed = 0 → z.countOwed y = some (z, 0)) ∧
    (∀ st s1 miss, y.flying = 0 → st = (if y.revoked then 2 else y.status.getD 0) →
      (s.releaseAll y.id).countOwed y = some (s1, miss) →
      let freed := (s1.pinEngine y.pinned false).modCore c (fun k => { k with barrow := k.barrow.del reg })
      let told (m : Mail) : State := (freed.send (.mail c m) c).trueUp y.iss
        (if st = 1 ∨ st = 4 ∨ st = 7 then 0 else 8 * y.seen.length + 21 * (y.dram + miss))
      let flt := y.faultAt.getD (0, 0, none)
      let logged (v : State) : State := if flt.1 = 7 then v.log c y.iss.vdev ⟨false, flt.2.2, flt.2.1⟩ else v
      let u := logged (told ⟨y.iss.vdev, 2, y.iss.core, y.tag, [BitVec.ofNat 64 st, BitVec.ofNat 64 y.landed, BitVec.ofNat 64 next]⟩)
      (st ≠ 5 → y.intr = false → exec (.copyCompletion core reg) s = .next u) ∧
      (st ≠ 5 → y.intr = true → exec (.copyCompletion core reg) s = .next (u.interrupt y.iss
        ⟨if st = 1 ∨ st = 2 then 16 else 32, false, y.tag.setWidth 64, BitVec.ofNat 64 st, BitVec.ofNat 64 y.landed, false⟩)) ∧
      (∀ cause a pa, st = 5 → y.faultAt = some (cause, a, pa) →
        let v := told ⟨y.iss.vdev, 5, y.iss.core, y.tag, [BitVec.ofNat 64 (5 + cause * 16), BitVec.ofNat 64 a,
          BitVec.ofNat 64 y.landed, BitVec.ofNat 64 next]⟩
        exec (.copyCompletion core reg) s =
          .next ((logged v).interrupt y.iss
            ⟨cause, true, BitVec.ofNat 64 a, BitVec.ofNat 64 next, y.tag.setWidth 64, false⟩)))) ∧
  (∀ (s : State) (core : CoreId) (n i : Nat) (k : Node) (r : Revoke),
    let c := core.toNat
    let r' := { r with waiting := r.waiting.filter (· ≠ c) }
    let noted := s.putNode n { k with revokes := k.revokes.map (fun q => if q == r then r' else q) }
    s.nodes.find? n = some k → (s.core c).landRun = none →
    k.revokes.find? (fun r => r.idx = i && (r.waiting.contains c || r.waiting.isEmpty)) = some r →
    ((∃ x ∈ r.waiting, x ≠ c) → exec (.revocationAck core n i) s = .next noted) ∧
    (r.waiting ≠ [] → (∀ x ∈ r.waiting, x = c) →
      exec (.revocationAck core n i) s = .next ((noted.endRevoke n r').getD noted)))

/-- The steps of the matrix unit (R44, R150, R214-R217, R221, R225, R261): grants let the issuing thread go on; counters are
read every 64 cycles until they are reached; at a boundary a step of a ready high command begins before one of a ready low
command, which counts as passed, and takes its cycles, before whose end nothing happens; at its end it accumulates its group in
order; a command of an evicted thread that is not ready at a boundary is saved with its thread; an integer accumulator saturates
with IS; a command that has ended frees its set for the shadow, sends its record with its flags and rows, trues up its cost and
asks for its interrupt.
Model's own readings that it rests on: notes/assumptions, 20, 44. -/
def Obligations.MatrixEvents : Prop :=
  (∀ (s u : State) (id c n : Nat) (hi act : Bool) (m : MCmd),
    s.cores.findSome? (fun p => (p.2.findCmd id).map (fun f => (p.1, f))) = some (c, hi, act, m) → m.granted = false →
    s.takeLines m.iss m.id c (cLines m.c m.m m.n m.ldc) = some (u, n) →
      exec (.engineOwnershipGrant id) s =
        .next ((u.setCmd c hi act { m with granted := true, dram := m.dram + n }).goOn m.iss)) ∧
  (∀ (s u : State) (core : CoreId) (hi : Bool) (m : MCmd) (v miss : Nat),
    let c := core.toNat
    ((s.core c).queueOf hi).active = some m →
    (m.fired = false → m.nextRead ≤ s.now → s.counter m.iss c m.trig = some (v, miss, u) →
      exec (.triggerRead core hi) s = .next (u.setCmd c hi true { m with
        fired := decide (m.thr ≤ v), nextRead := if m.thr ≤ v then u.now else u.now + 64, dram := m.dram + miss })) ∧
    (s.now < m.nextRead → exec (.triggerRead core hi) s = .next s ∧ exec (.raggedRead core hi) s = .next s) ∧
    (∀ a, m.rag = some a → m.fired = true → m.live = none → m.ended = false → m.nextRead ≤ s.now →
      s.counter m.iss c a = some (v, miss, u) →
      (v < 2 ^ 63 → v < 16 * (m.rb + 1) →
        exec (.raggedRead core hi) s =
          .next (u.setCmd c hi true { m with nextRead := u.now + 64, dram := m.dram + miss })) ∧
      (16 * (m.rb + 1) ≤ v % 2 ^ 63 ∨ 2 ^ 63 ≤ v →
        let live := min (v % 2 ^ 63) m.m
        exec (.raggedRead core hi) s = .next (u.setCmd c hi true { m with
          live := some live, ended := decide (live ≤ 16 * m.rb), nextRead := u.now, dram := m.dram + miss
          seen := m.seen.filter (fun p => !(m.blockLines m.rb).contains p.1) })))) ∧
  (∀ (s u : State) (core : CoreId) (a b : MCmd),
    let c := core.toNat
    let k := s.core c
    let begun (v : State) (hi : Bool) (m : MCmd) : State :=
      (v.setCmd c hi true { m with run := true, passed := false }).modCore c
        (fun k => { k with arrayFree := s.now + tileCycles m.fmtA })
    (s.now < k.arrayFree → exec (.tileStep core) s = .next s) ∧
    (k.arrayFree ≤ s.now →
      (k.hi.active = some a → a.run = true → s.cmdStep c true a = some u → exec (.tileStep core) s = .next u) ∧
      ((k.hi.active = none ∨ (k.hi.active = some a ∧ a.run = false)) → k.lo.active = some b → b.run = true →
        s.cmdStep c false b = some u → exec (.tileStep core) s = .next u) ∧
      (k.hi.active = some a → a.run = false → a.ready k.hi = true → k.lo.active = some b → b.run = false →
        b.ready k.lo = true →
        exec (.tileStep core) s = .next (begun (s.setCmd c false true { b with passed := true }) true a)) ∧
      (k.hi.active = some a → a.run = false → a.ready k.hi = true → k.lo.active = none →
        exec (.tileStep core) s = .next (begun s true a)) ∧
      (k.hi.active = none → k.lo.active = some b → b.run = false → b.ready k.lo = true →
        exec (.tileStep core) s = .next (begun s false b)) ∧
      (k.hi.active = some a → a.run = false → a.ended = false → a.remote = false → a.ready k.hi = false →
        s.isSaved a.iss = true → k.lo.active = none →
        exec (.tileStep core) s = .next ((s.setQueue c true (({ k.hi with active := none } : MQueue).advance s.now)).reachAway
          a.iss.thread (fun v => { v with cmds := v.cmds ++ [(true, { a with out := false })] }) (fun g => g))))) ∧
  (∀ (s s1 s2 : State) (c : Nat) (hi : Bool) (m m1 m2 : MCmd) (as bs : List (List (Nat × Nat))) (x y : Bool),
    m.kk ≠ 0 → m.kk + 1 < m.k / 32 → (m.fmtA ≠ 2 ∧ m.fmtA ≠ 3) →
    (s.cmdRows c m m.a 32 (m.blockRows.map (fun i => i * m.lda + m.kk * 32)) =
      some (as, x, m1, s1)) → m.kk * 32 + 32 ≤ m.k → s1.cmdCols c m1 (m.kk * 32) 32 = some (bs, y, m2, s2) →
    let out := (List.range (16 * m.blockRows.length)).map (fun i => accumulate (m2.fmtA == 8) (m2.sa + m2.sb)
      (m2.acc.getD i 0) ((as.map (fun r => r.map (elemVal m2.fmtA))).getD (i / 16) [])
      ((bs.map (fun r => r.map (elemVal m2.fmtB))).getD (i % 16) []))
    s.cmdStep c hi m = some (s2.setCmd c hi true { m2 with
      kk := m2.kk + 1, acc := out.map Prod.fst, flags := out.foldl (fun f r => f ||| r.2) m2.flags
      tileBad := m2.tileBad || x || y, steps := m2.steps + 1, cycles := m2.cycles + tileCycles m2.fmtA
      run := false, nextRead := s2.now })) ∧
  (∀ (acc : Nat) (sc : Int) (as bs : List FVal),
    let v := sintOf 32 acc + ((as.zip bs).map (fun p => p.1.dyadic.m * p.2.dyadic.m)).foldl (· + ·) 0
    (-((2 ^ 31 : Nat) : Int) ≤ v → v < ((2 ^ 31 : Nat) : Int) →
      accumulate true sc acc as bs = ((v % ((2 ^ 32 : Nat) : Int)).toNat, 0)) ∧
    (((2 ^ 31 : Nat) : Int) ≤ v → accumulate true sc acc as bs = (2 ^ 31 - 1, flagIS)) ∧
    (v < -((2 ^ 31 : Nat) : Int) → accumulate true sc acc as bs = (2 ^ 31, flagIS))) ∧
  (∀ (s : State) (core : CoreId) (hi : Bool) (m : MCmd),
    let c := core.toNat
    let q := (s.core c).queueOf hi
    q.active = some m →
    (m.ended = false ∨ m.out = true ∨ m.run = true → exec (.matrixCompletion core hi) s = .next s) ∧
    (m.ended = true → m.out = false → m.run = false →
      let q' : MQueue := match q.shadow with
        | some n => { q with active := some { n with nextRead := s.now }, shadow := none }
        | none => { q with active := none }
      let u := (((s.setQueue c hi q').releaseAll m.id).engineFlags m.iss m.flags).trueUp m.iss
        (ceilDiv (5 * m.cycles) 8 + 21 * m.dram)
      let v := if m.notify then u.send (.mail m.iss.core ⟨m.iss.vdev, 3, c, m.tag,
        [BitVec.ofNat 64 (m.flags.toNat * 16), BitVec.ofNat 64 m.rows]⟩) c else u
      (m.intr = false → exec (.matrixCompletion core hi) s = .next v) ∧
      (m.intr = true → exec (.matrixCompletion core hi) s =
        .next (v.interrupt m.iss ⟨32, false, m.tag.setWidth 64, 0, BitVec.ofNat 64 m.rows, false⟩))))

/-- The steps of the trellis and of the message-update unit (R43, R75, R225, R229, R230, R233, R235, R244-R251): a walk
steps while a row is active; its retirement writes the rows, gives the masks of finished, faulted, stopped and active rows and,
where a row faulted, raises WALK_FAULT with the record it stopped at; a forest's retirement gives the mask of malformed samples
and the levels; a Gaussian command waits while the unit works: GBWR writes its slot, GBFAC writes and delivers its damped message
and GBVAR its belief and messages, both clearing missed and fresh, and GBFAC's singular block writes nothing and raises its trap;
a delivery reaches the unit's buffer of 16 or, where that is full, comes again 64 cycles later, and goes into its slot, or back
with status 1 or 2.
Model's own readings that it rests on: notes/assumptions, 45, 46. -/
def Obligations.TrellisAndGaussianEvents : Prop :=
  (∀ (s s1 u : State) (core : CoreId) (j j1 j' : WalkJob) (k : Nat) (ks : List (Word × List Nat)),
    let c := core.toNat
    (s.core c).trellis = some (.walk j) → j.k = some k →
    (j.isOver = true ∨ j.active = false ∨ s.now < (s.core c).trellisFree → exec (.walkStep core) s = .next s) ∧
    (j.isOver = false → j.active = true → (s.core c).trellisFree ≤ s.now →
      s.walkKeys j (List.range 16) = some (ks, j1, s1) → s1.walkRun j1 k ks = some (j', u) →
      exec (.walkStep core) s = .next ((u.modCore c (fun q => { q with
        trellisFree := u.now + (j'.work - j1.work), trellis := some (.walk j') }))))) ∧
  (∀ (s s1 u : State) (core : CoreId) (j j1 : WalkJob) (first : Word),
    let c := core.toNat
    (s.core c).trellis = some (.walk j) → (j.k = none ∨ j.isOver = true ∨ j.active = false) →
    (s.core c).trellisFree ≤ s.now →
    let xd := BitVec.ofNat 64 (j.mask 1 + j.mask 2 * 2 ^ 16 + j.mask 3 * 2 ^ 32 + j.mask 0 * 2 ^ 48)
    let after (v : State) (j : WalkJob) (miss : Nat) (w : Word) : State :=
      (((((v.setTrellis c none).releaseAll j.id).engineFlags j.iss j.flags).writePair j.iss j.d xd w).trueUp j.iss
        (ceilDiv (5 * j.cycles) 8 + 21 * (j.dram + miss))).goOn j.iss
    (∀ miss, (∀ r w, r < 16 → j.rows[r]? = some w → w.status ≠ 2) → s.walkWrites j (List.range 16) = some (u, miss) →
      exec (.walkRetire core) s = .next (after u j miss 0)) ∧
    (∀ r w miss i h, r < 16 → j.rows[r]? = some w → w.status = 2 →
      (∀ q v, q < r → j.rows[q]? = some v → v.status ≠ 2) →
      s.walkKey j r w = some (first, j1, s1) → (∀ st, j1.mask st = j.mask st) →
      s1.walkWrites j1 (List.range 16) = some (u, miss) →
      (after u j1 miss first).issuing j1.iss = some (i, h) →
      exec (.walkRetire core) s = .next ((after u j1 miss first).takeTrap j1.iss.core i
        ⟨12, first, BitVec.ofNat 64 (j.mask 2), mkPtr 0 0 j1.prog⟩ []))) ∧
  (∀ (s s1 s2 s3 u : State) (core : CoreId) (j : ForestJob) (hb rb : List (List Byte)) (f f1 f2 : ForestRun)
      (out : List (Nat × Bool × Bool)) (miss : Nat),
    let c := core.toNat
    (s.core c).trellis = some (.forest j) → (s.core c).trellisFree ≤ s.now →
    s.forestRead j.iss ⟨0, 0, false, false, 0, j.seen, j.dram⟩ [(j.record, 16)] = some (hb, f, s1) →
    let hd := forestHeader (hb.getD 0 [])
    s1.forestRead j.iss f [((j.record + 64) % 2 ^ 55, 4 * hd.1)] = some (rb, f1, s2) →
    s2.forestSamples j hd ((List.range hd.1).map (fun i => leNat (((rb.getD 0 []).drop (4 * i)).take 4))) f1.bad
      (List.range j.count) f1 = some (out, f2, s3) →
    s3.forestWrites j 0 out = some (u, miss) →
    let mask := ((List.range out.length).zip out).foldl (fun m p => if p.2.2.1 then m + 2 ^ p.1 else m) 0
    exec (.forestRetire core) s = .next (((((((u.setTrellis c none).releaseAll j.id).modCore c (fun k => { k with
      trellisFree := u.now + f2.levels })).engineFlags j.iss f2.flags).writePair j.iss j.d (BitVec.ofNat 64 mask)
      (BitVec.ofNat 64 f2.levels)).trueUp j.iss (ceilDiv (5 * f2.levels) 8 + 21 * (f2.dram + miss))).goOn j.iss)) ∧
  (∀ (s s1 u : State) (core : CoreId) (j : GaussJob) (rest : List GaussWork) (r : GRec) (dram : Nat),
    let c := core.toNat
    (s.core c).gauss = .command j :: rest → j.iss.core = c →
    (s.now < (s.core c).gaussFree → exec (.gaussCommandDone core) s = .next s) ∧
    ((s.core c).gaussFree ≤ s.now → s.gaussRead j.iss c (ptrAddr j.record) = some (some r, dram, s1) →
      (∀ i push image bad, j.op = .write i push image bad →
        ∀ n, s1.gaussSlot j.iss c j.iss.ctx r j.record i image bad push = some (u, n) →
        exec (.gaussCommandDone core) s = .next (u.gaussEnd j 0 8 (j.dram + dram + n))) ∧
      (∀ t, j.op = .fac t →
        let dj := r.dim t
        let n := r.joint r.n - dj
        let cost := 16 + r.joint r.n * (r.joint r.n + 1) + n ^ 3 + 2 * n ^ 2 * dj
        (∀ kk f i h, (gaussFac r t).run 0 = (.error kk, f) →
          let e := s1.gaussEnd j f cost (j.dram + dram)
          e.issuing j.iss = some (i, h) →
          exec (.gaussCommandDone core) s =
            .next (e.takeTrap c i ⟨14, j.record, BitVec.ofNat 64 t, BitVec.ofNat 64 kk⟩ [])) ∧
        (∀ new out f f' v w m hd, (gaussFac r t).run 0 = (.ok new, f) →
          (damp dj (r.damping t) new (r.msg (6 + r.n + t) dj)).run f = (out, f') →
          s1.gaussPut j.iss c ((r.addr + 64 * (6 + r.n + t)) % 2 ^ 55) (msgLine out) r.bad = some v →
          v.gaussSetHead j.iss c j.iss.ctx j.record (fun _ => (false, 0)) = some (w, hd) → w.gaussDeliver j r t out = some (u, m) →
          exec (.gaussCommandDone core) s = .next (u.gaussEnd j f'
            (cost + 8 * (field (r.nbWord t) 19 0 == c).toNat) (j.dram + dram + hd + m)))) ∧
      (∀ b outs f v w m hd, j.op = .var → (gaussVar r).run 0 = ((b, outs), f) →
        let d := field (r.word 0) 7 6 + 1
        s1.gaussLines j r ((4, b) :: outs.map (fun p => (6 + r.n + p.1, p.2))) = some v →
        v.gaussSetHead j.iss c j.iss.ctx j.record (fun _ => (false, 0)) = some (w, hd) → w.gaussDeliverAll j r outs = some (u, m) →
        exec (.gaussCommandDone core) s = .next (u.gaussEnd j f (16 + 4 * r.n * (d + d * (d + 1) / 2) +
          8 * (outs.filter (fun p => field (r.nbWord p.1) 19 0 == c)).length) (j.dram + dram + hd + m))))) ∧
  (∀ (s s1 : State) (core : CoreId) (d : Delivery) (rest : List GaussWork) (dram : Nat),
    let c := core.toNat
    (s.core c).gauss = .delivery d :: rest → (s.core c).gaussFree ≤ s.now →
    let s0 := s.modCore c (fun k => { k with gauss := rest, gaussFree := s.now + 8, gaussSeq := k.gaussSeq + 1 })
    let back (v : State) (st : Nat) : State := v.send (.mail d.src ⟨d.vdev, 4, c, 0,
      [BitVec.ofNat 64 st, d.record, BitVec.ofNat 64 d.slot]⟩) c d.thread false (some (d.vdev, d.launch))
    (s.ctxOf c d.vdev = none → exec (.gaussDelivery core) s = .next (back s0 1)) ∧
    (∀ x, s.ctxOf c d.vdev = some x →
      let q := s0.unitIssuer c x d.vdev
      (s0.gaussRead q c (ptrAddr d.record) = some (none, dram, s1) →
        exec (.gaussDelivery core) s = .next (back s1 1)) ∧
      (∀ r u n, s0.gaussRead q c (ptrAddr d.record) = some (some r, dram, s1) →
        (r.n ≤ d.slot → exec (.gaussDelivery core) s = .next (back s1 2)) ∧
        (d.slot < r.n → s1.gaussSlot q c x r d.record d.slot d.msg d.bad false = some (u, n) →
          exec (.gaussDelivery core) s = .next u)))) ∧
  (∀ (s : State) (core : CoreId) (d : Delivery) (f : Flight) (rest : List Flight),
    let c := core.toNat
    let w := (s.core c).gauss
    let buffered := (w.filter (fun x => match x with | .delivery _ => true | .command _ => false)).length
    s.wire = f :: rest → f.pkt = .gauss d → f.resend = none → d.target = c →
    ((∀ e v, w ≠ .delivery e :: v) ∨ s.now < (s.core c).gaussFree) →
      (buffered < 16 → exec (.gaussDelivery core) s =
        .next ((s.modCore c (fun k => { k with gauss := w ++ [.delivery d] })).accepted 0 f)) ∧
      (16 ≤ buffered → exec (.gaussDelivery core) s =
        .next { s with wire := { f with resend := some (s.now + 64) } :: rest }))

/-! ## The host -/

/-- What the host's operations do (R155, R209, R265-R271): a queue pair takes the next free number of its device; a launch
record of 64 bytes queues a launch with its owner, or is refused by a completion where a field is out of range or its data
address is not mapped; the deficit round robin adds an owner's weight and starts a head that the deficit covers, whose record
goes to the dispatch core of its data; a launch that nothing is left of completes with its status, and an owner with an empty
queue loses its deficit; an abort takes a queued launch off and discards a started one, and waits where a thread of it is at no
boundary yet, which is the model's choice; data queue pairs write, read and perform atomics at the home, every queue pair reads and
writes its control line, an operation that is not supported is logged as PROTECTION and gets an error response, as does a write
or read that fails; held completions leave as one event when they fill one or the oldest has waited its limit.
Model's own readings that it rests on: notes/assumptions, 26, 34, 39, 40. -/
def Obligations.HostEvents : Prop :=
  (∀ (s : State) (v : VDev) (port : Nat) (launch : Bool) (ep k : Nat) (sv : UeService),
    (List.range 64).find? (fun k => (s.qps.find? (64 * v.toNat + k)).isNone) = some k →
    (port < 32 → (s.vdevs.find? v.toNat).isSome = true → sv ≠ .idempotent → exec (.queuePairCreate v port ⟨launch, ep, sv⟩) s =
      .next { s with qps := s.qps.put (64 * v.toNat + k) ⟨v, port, launch, ep, sv, 0, 1, [], [], [], 0⟩ }) ∧
    (32 ≤ port ∨ sv = .idempotent → exec (.queuePairCreate v port ⟨launch, ep, sv⟩) s = .next (s.refuse "queue pair"))) ∧
  (∀ (s : State) (q n : Nat) (bytes : List Byte) (k : QueuePair) (nd : Node) (e : Leaf),
    s.qps.find? q = some k → k.launch = true →
    (bytes.length ≠ 64 → exec (.launchRecord q bytes) s = .next (s.qpError q) ∧
      exec (.ueSend q bytes) s = .next (s.qpError q)) ∧
    (bytes.length = 64 → s.partitionOf k.vdev = some n → s.nodes.find? n = some nd →
      let w (j : Nat) : Nat := leNat ((bytes.drop (8 * j)).take 8)
      (launchBad (leWords bytes 8) = true → ∀ i, i = .launchRecord q bytes ∨ i = .ueSend q bytes →
        exec i s = .next ((s.ueCount k.vdev 64).holdDone q
          (doneBytes (BitVec.ofNat 32 (w 7 % 2 ^ 32)) 1 0 0 0 0) (w 6 / 2 ^ 16 % 2 ^ 32))) ∧
      (∀ f, launchBad (leWords bytes 8) = false → s.mgmtWalk k.vdev (dataAddr (BitVec.ofNat 64 (w 1))) = .fault f →
        ∀ i, i = .launchRecord q bytes ∨ i = .ueSend q bytes →
        exec i s = .next ((s.ueCount k.vdev 64).holdDone q
          (doneBytes (BitVec.ofNat 32 (w 7 % 2 ^ 32)) 1 8 0 0 0) (w 6 / 2 ^ 16 % 2 ^ 32))) ∧
      (launchBad (leWords bytes 8) = false → s.mgmtWalk k.vdev (dataAddr (BitVec.ofNat 64 (w 1))) = .ok e →
        ∀ i, i = .launchRecord q bytes ∨ i = .ueSend q bytes →
        ∃ (u : State) (l : Launch) (nd' : Node), exec i s = .next u ∧ u.nextLaunch = s.nextLaunch + 1 ∧
          u.launches.find? s.nextLaunch = some l ∧ l.started = false ∧ l.node = n ∧ l.vdev = k.vdev ∧ l.qp = q ∧
          l.slots = w 6 % 2 ^ 6 ∧ l.aqd = w 6 / 2 ^ 8 % 2 ^ 5 ∧ l.coalesce = w 6 / 2 ^ 16 % 2 ^ 32 ∧
          l.tag.toNat = w 7 % 2 ^ 32 ∧ l.record.entry.toNat = w 0 % 2 ^ 55 ∧
          l.record.size = 8 * (w 0 / 2 ^ 57 % 2 ^ 4 + 1) ∧ l.record.launch = s.nextLaunch ∧
          l.record.xs = (List.range 5).map (fun j => BitVec.ofNat 64 (w (j + 1))) ∧ u.nodes.find? n = some nd' ∧
          (∀ (j : Nat) (o : Owner), nd.owners[j]? = some o → o.cfg.vdev = k.vdev →
            ∃ o', nd'.owners[j]? = some o' ∧ o'.queue = o.queue ++ [s.nextLaunch]) ∧ u.mem = s.mem))) ∧
  (∀ (s : State) (n i id : Nat) (k k1 : Node) (o : Owner) (l : Launch) (e : Leaf),
    s.nodes.find? n = some k → k.st = .part → i = k.drr % k.owners.length → k.owners[i]? = some o →
    let v := o.cfg.vdev
    let s1 := s.modNode n (fun k => { k with drr := (i + 1) % k.owners.length })
    let s2 := s1.modOwnerIn n v (fun o => { o with deficit := o.deficit + o.cfg.weight })
    (o.queue = [] → (∃ o' ∈ k.owners, ∃ j js, o'.queue = j :: js ∧ s.entryFree n k o'.cfg.vdev = true ∧
        s.headMigrates j = false) →
      exec (.launchStart n) s = .next (s1.modOwnerIn n v (fun o => { o with deficit := 0 }))) ∧
    (o.queue = [id] → s.entryFree n k v = true → s.headMigrates id = false → s.launches.find? id = some l →
      l.node = n → l.vdev = v →
      (o.deficit + o.cfg.weight < l.slots → exec (.launchStart n) s = .next s2) ∧
      (l.slots ≤ o.deficit + o.cfg.weight → s2.nodes.find? n = some k1 → s2.entryFree n k1 v = true →
        let p := l.record.xs.getD 0 0
        s2.mgmtWalk l.vdev (dataAddr p) = .ok e →
        let c := s2.dispatchCore n (homeOf (e.phys (dataAddr p)))
        exec (.launchStart n) s = .next (((({ s2 with
          launches := s2.launches.put id { l with started := true, core := c } } : State).send (.task c l.record) c).setAqd n
          l.vdev).modOwnerIn n v (fun o => { o with queue := [], deficit := o.deficit - l.slots })))) ∧
    ((∀ o' ∈ k.owners, ∀ j js, o'.queue = j :: js → s.entryFree n k o'.cfg.vdev = false ∨ s.headMigrates j = true) →
      exec (.launchStart n) s = .next s)) ∧
  (∀ (s u : State) (id : Nat) (l : Launch), s.launches.find? id = some l →
    (l.started = true → s.launchQuiet id = true → s.fenceAll l.node l.vdev = some u →
      exec (.launchCompletion id) s = .next
        ((({ u with launches := u.launches.del id } : State).setAqd l.node l.vdev).markIdle l.node l.vdev |>.entryFreed l.node |>.holdDone l.qp
          (doneBytes l.tag (if l.aborted = true then 3 else if 0 < l.ended then 2 else 0) l.cause l.core l.ended l.turns)
          l.coalesce)) ∧
    (l.started = false ∨ s.launchQuiet id = false → exec (.launchCompletion id) s = .next s) ∧
    (l.started = false →
      let z := ({ s with launches := s.launches.del id } : State).modOwnerIn l.node l.vdev (fun o => { o with
        queue := o.queue.filter (· ≠ id) })
      exec (.launchAbort id) s = .next
        ((z.markIdle l.node l.vdev).holdDone l.qp (doneBytes l.tag 3 0 (z.rootCore l) 0 0) l.coalesce) ∧
      (∀ e, z.mgmtWalk l.vdev (dataAddr (l.record.xs.getD 0 0)) = .ok e → z.rootCore l =
        z.dispatchCore l.node (homeOf (e.phys (dataAddr (l.record.xs.getD 0 0)))))) ∧
    (l.started = true → s.abortStep id = (u, true) → exec (.launchAbort id) s = .next u ∧
      ∀ x ∈ s.evicted, x.th.launch = id → x ∉ u.evicted) ∧
    (l.started = true → s.abortStep id = (u, false) → exec (.launchAbort id) s = .next (u.await (.launchAbort id)))) ∧
  (∀ (s u : State) (q : Nat) (ga : Pc) (bytes got : List Byte) (n : Nat) (v w : Word) (k : QueuePair),
    s.qps.find? q = some k →
    let not_ := (s.log (65536 * (k.port / 2)) k.vdev ⟨false, none, ga.toNat⟩).qpError q
    let line := 2 ^ 55 - 64 * 2 ^ 17 + 64 * (q % 2 ^ 17)
    (ga.toNat = line → bytes.length = 8 → ∃ (z : State) (k' : QueuePair), exec (.ueWrite q ga bytes) s = .next (z.ueCount k.vdev 8) ∧
      z.qps.find? q = some k' ∧ k'.window = leNat bytes % 2 ^ 32 ∧ k'.max = leNat bytes / 2 ^ 32 % 2 ^ 4 ∧ z.mem = s.mem) ∧
    (ga.toNat = line → exec (.ueRead q ga 8) s =
      .next (s.ueReply q k.vdev (leBytes 8 (k.window % 2 ^ 32 + k.max % 16 * 2 ^ 32)) 0)) ∧
    (k.launch = true ∨ ga.toNat % 8 ≠ 0 →
      ∀ i, i ∈ ([.ueFetchAdd q ga (.word v), .ueSwap q ga v, .ueCompareSwap q ga v w] : List Instr) → exec i s = .next not_) ∧
    (∀ op width, exec (.ueFetchAdd q ga (.other op width)) s = .next not_) ∧
    (k.launch = true →
      (onControl q ga.toNat bytes.length = false → exec (.ueWrite q ga bytes) s = .next not_) ∧
      (onControl q ga.toNat n = false → exec (.ueRead q ga n) s = .next not_)) ∧
    (k.launch = false →
      exec (.ueSend q bytes) s =
        .next ((s.modQp q (fun k => { k with recv := k.recv ++ [bytes] })).ueCount k.vdev bytes.length) ∧
      (onControl q ga.toNat bytes.length = false →
        (s.ueWrites k (cutLines (bytes.length / 64 + 2) ga.toNat bytes) = .ok () u →
          exec (.ueWrite q ga bytes) s = .next (u.ueCount k.vdev bytes.length)) ∧
        (s.ueWrites k (cutLines (bytes.length / 64 + 2) ga.toNat bytes) = .error u →
          exec (.ueWrite q ga bytes) s = .next (u.qpError q))) ∧
      (onControl q ga.toNat n = false →
        (s.ueReads k (lineCuts ga.toNat n) = .ok got u → exec (.ueRead q ga n) s = .next (u.ueReply q k.vdev got 0)) ∧
        (s.ueReads k (lineCuts ga.toNat n) = .error u → exec (.ueRead q ga n) s = .next (u.qpError q))))) ∧
  (∀ (s s1 : State) (q : Nat) (ga : Pc) (v w : Word) (k : QueuePair) (l : Leaf),
    s.qps.find? q = some k → k.launch = false → ga.toNat % 8 = 0 → s.mgmtWalk k.vdev ga.toNat = .ok l →
    let pa := l.phys ga.toNat
    s.ueMay k.vdev l pa 1 = true →
    (atHome ⟨65536 * (k.port / 2), 8, k.vdev, some 64, BitVec.ofNat 64 ga.toNat, 1, false⟩ pa).run s = .ok ((), s1) →
    let z := s1.squashLine (ga.toNat / 64)
    let old := z.wordAt pa
    ∀ i, i ∈ ([(.ueFetchAdd q ga (.word v), old + v, 8), (.ueSwap q ga v, v, 8),
        (.ueCompareSwap q ga w v, if old = w then v else old, 16)] : List (Instr × Word × Nat)) →
      exec i.1 s = .next (((z.putWord pa i.2.1).wrote (pa / 64)).ueReply q k.vdev (leBytes 8 old.toNat) i.2.2)) ∧
  (∀ (s : State) (q : Nat) (k : QueuePair) (h : HeldDone) (rest : List HeldDone),
    s.qps.find? q = some k → k.held = h :: rest →
      let event := if k.max = 0 then 1 else min k.max 8
      let count := min k.held.length event
      let limit := if h.limit ≠ 0 then h.limit else k.window
      (event ≤ k.held.length ∨ h.at_ + limit ≤ s.now → exec (.completionCoalesceExpiry q) s = .next (s.sendHeld q)) ∧
      (k.held.length < event → s.now < h.at_ + limit → exec (.completionCoalesceExpiry q) s = .next s) ∧
      ∃ k', (s.sendHeld q).qps.find? q = some k' ∧ k'.held = k.held.drop count ∧
        k'.sent = k.sent ++ [leBytes 8 count ++ (k.held.take count).flatMap HeldDone.bytes])

/-- A context's requests on its service line (R183, R184, R199, R201): each is taken by emptying its bell and answered with a
status in a word that becomes full: a malformed one with 4, one for a domain without a grant with 5, a mapping that is made
with 0 and else with the status of its failure (2 where any device maps the page), an unmapping of what is not mapped with 3; a
handle is created where one is free and the pool allows, and else answered with 6; a revocation and a freeing advance the
handle's generation, and answer 7 where the device does not own it. Management migrates a page that is mapped, for every device
that maps it, to a frame that they may reach, and refuses one that is not.
Model's own readings that it rests on: notes/assumptions, 27, 28. -/
def Obligations.ServiceLineRequests : Prop :=
  (∀ (s u : State) (core : CoreId) (x ga pa kind : Nat) (v : VDev),
    let c := core.toNat
    let w0 := s.wordAt pa
    let w1 := s.wordAt (pa + 8)
    let a := w0.toNat % 2 ^ 55
    s.bell c x = some (v, ga, pa, kind) → s.takeBell v ga pa = some u →
    let say (z : State) (st : Nat) (i : Instr) : Prop := ∀ r, z.answer v ga st none = some r → exec i s = .next r
    (kind > 3 ∨ (kind = 0 ∧ w1.toNat / 8 % 2 = 0) →
      (pageReqOk w0 w1 = false → say u 4 (.mapRequest core x)) ∧
      (pageReqOk w0 w1 = true → u.granted v (w1.toNat / 2 ^ 16 % 2 ^ 16) = false → say u 5 (.mapRequest core x)) ∧
      (pageReqOk w0 w1 = true → u.granted v (w1.toNat / 2 ^ 16 % 2 ^ 16) = true →
        let m := u.mapPage v a (w1.toNat % 8) (w1.toNat / 2 ^ 16 % 2 ^ 16)
        (∀ z, m = .ok z → say z 0 (.mapRequest core x)) ∧
        (∀ n, m = .error (.status n) → say u n (.mapRequest core x)) ∧
        (m = .error .wait → exec (.mapRequest core x) s = .next s) ∧
        ((u.vdevs.find? v.toNat).isSome = true →
          (∃ p ∈ u.vdevs, u.pageTaken a (w1.toNat % 8) p.2.root = some (.status 2)) → m = .error (.status 2)))) ∧
    (kind = 0 → w1.toNat / 8 % 2 = 1 →
      (pageReqOk w0 w1 = false → say u 4 (.unmapRequest core x)) ∧
      (pageReqOk w0 w1 = true → (∃ r, u.mgmtWalk v a = .fault r) → say u 3 (.unmapRequest core x)) ∧
      (∀ l, pageReqOk w0 w1 = true → u.mgmtWalk v a = .ok l → (l.ga ≠ a ∨ l.size ≠ w1.toNat % 8) →
        say u 3 (.unmapRequest core x)) ∧
      (∀ l m, pageReqOk w0 w1 = true → u.mgmtWalk v a = .ok l → l.ga = a → l.size = w1.toNat % 8 → u.frameMoving l = false →
        let z := u.migrateFrom v [v] l none (some ga)
        z.migrating? v a = some m →
          exec (.unmapRequest core x) s = .next ((z.migrate m).getD (z.await (.pageMigration v (BitVec.ofNat 55 a) none))))) ∧
    (∀ n k, s.partOf c = some n → u.nodes.find? n = some k →
      (w1.toNat / 2 ^ 8 % 2 ^ 8 ≠ 0 ∨ w1.toNat / 2 ^ 32 ≠ 0 → (kind = 1 → say u 4 (.handleCreate core x)) ∧
        (kind = 2 → say u 4 (.handleRevoke core x)) ∧ (kind = 3 → say u 4 (.handleFree core x))) ∧
      (∀ i z, kind = 1 → w1.toNat / 2 ^ 8 % 2 ^ 8 = 0 → w1.toNat / 2 ^ 32 = 0 → ((List.range 65536).drop 1).find? (fun i => !(k.handle i).live) = some i →
        (poolOpen 65535 k.owners OwnerEntry.resHandles k.handlesUsed v = true →
          (u.putNode n { k with handles := k.handles.put i ⟨(k.handle i).gen, v, true⟩ }).answer v ga 0
            (some (BitVec.ofNat 64 (i + (k.handle i).gen * 2 ^ 16))) = some z →
          exec (.handleCreate core x) s = .next z) ∧
        (poolOpen 65535 k.owners OwnerEntry.resHandles k.handlesUsed v = false → say u 6 (.handleCreate core x))) ∧
      (∀ free : Bool, ∀ i, i = w0.toNat % 2 ^ 16 → kind = (if free then 3 else 2) → w1.toNat / 2 ^ 8 % 2 ^ 8 = 0 →
        w1.toNat / 2 ^ 32 = 0 →
        let r : Instr := if free then .handleFree core x else .handleRevoke core x
        (i ≠ 0 → (k.handle i).live = true → (k.handle i).owner = v → exec r s = .next (u.revoke n i v free (some ga))) ∧
        (i = 0 ∨ (k.handle i).live = false ∨ (k.handle i).owner ≠ v → say u 7 r)))) ∧
  (∀ (s u : State) (v : VDev) (ga st : Nat) (l : Leaf), s.mgmtWalk v ga = .ok l → memWf s.mem = true →
    s.answer v ga st none = some u →
      s.full (l.phys ga + 16) = false ∧ u.full (l.phys ga + 16) = true ∧ u.wordAt (l.phys ga + 16) = BitVec.ofNat 64 st) ∧
  (∀ (s : State) (n i : Nat) (v : VDev) (free : Bool) (line : Option Nat) (k : Node), s.nodes.find? n = some k →
    (∃ c, c ∈ s.landingCores n i) →
      ∃ k', (s.revoke n i v free line).nodes.find? n = some k' ∧ (k'.handle i).owner = (k.handle i).owner ∧
        (k'.handle i).gen = (if ((k.handle i).gen + 1) % 2 ^ 16 = 0 then 1 else ((k.handle i).gen + 1) % 2 ^ 16)) ∧
  (∀ (s : State) (v : VDev) (ga : Pc) (frame : Option Nat), s.migrating? v ga.toNat = none →
    ((∃ r, s.mgmtWalk v ga.toNat = .fault r) → exec (.pageMigration v ga frame) s = .next (s.refuse "migration")) ∧
    (∀ l, s.mgmtWalk v ga.toNat = .ok l → s.frameMoving l = false →
      let vs := if frame.isSome then s.mappers l.ga l.pa else [v]
      let ok (pa : Nat) : Prop := pa % pageSize l.size = 0 ∧ pa < 2 ^ 42 ∧ ∀ u ∈ vs, s.frameOpen u pa = true
      (∀ pa, frame = some pa → ¬ ok pa → exec (.pageMigration v ga frame) s = .next (s.refuse "migration")) ∧
      (∀ m, (∀ pa, frame = some pa → ok pa) →
        let z := s.migrateFrom v vs l frame none
        z.migrating? v ga.toNat = some m →
          exec (.pageMigration v ga frame) s = .next ((z.migrate m).getD (z.await (.pageMigration v ga frame))))))

/-! ## Management -/

/-- What management and the ridge controller do to partitions, devices and protected registers (R28, R194, R196, R200, R257,
R258, R259, R270, R272, R275, R276, R279-R281): a free node is allotted as an idle partition of its owners, splits and merges;
an idle partition splits into partitions of the same owners and is freed; what is not so is refused; a shrink that finds its
leaving cores clear leaves the kept child, and one that would keep the other child while it is under way is refused; an owner's configuration with a greater number takes effect and extends PM, and so
does a measured range, each waiting behind an earlier one; a snapshot reports the counters; a grant takes effect only within the
limit; a management register write sets what it names, in a context only where the device has one, and a device's rights leave
the caches that hold them; a granule that changes owner is scrubbed; a device is created once, and destroyed only when no partition and no context
uses it; a report has 57 words, its number and its signature among them.
Model's own readings that it rests on: notes/assumptions, 7, 24, 25, 38, 39, 56, 70, 79. -/
def Obligations.ManagementEvents : Prop :=
  (∀ (s : State) (n : Nat) (k : Node) (owners : List VDev), s.nodes.find? n = some k →
    (k.st = .free → s.allottable n = true → owners ≠ [] → owners.length ≤ 64 → owners.Nodup →
      ∃ (u : State) (k' : Node), exec (.partitionAllot n owners) s = .next u ∧ u.nodes.find? n = some k' ∧ k'.st = .part ∧
        k'.devices = owners ∧ k'.pm = List.replicate 64 0 ∧ k'.cfgSeq = 0 ∧ u.mem = s.mem ∧ u.cores = s.cores) ∧
    (k.st ≠ .free ∨ s.allottable n = false ∨ owners = [] ∨ 64 < owners.length →
      exec (.partitionAllot n owners) s = .next (s.refuse "allot"))) ∧
  (∀ (s : State) (n : Nat) (k : Node), s.nodes.find? n = some k → 0 < n → n < 16384 →
    (k.st = .free → ∃ (u : State), exec (.partitionSplit n) s = .next u ∧ u.nodes.find? (2 * n) = some .free ∧
      u.nodes.find? (2 * n + 1) = some .free ∧ ∃ k', u.nodes.find? n = some k' ∧ k'.st = .split) ∧
    (k.st = .part → s.nodeIdle n = true → ∃ (u : State) (k' : Node), exec (.partitionSplit n) s = .next u ∧
      u.nodes.find? (2 * n) = some k ∧ u.nodes.find? (2 * n + 1) = some k' ∧ k'.st = .part ∧ k'.devices = k.devices ∧
      k'.pm = k.pm ∧ k'.cfgSeq = k.cfgSeq) ∧
    (k.st = .split ∨ (k.st = .part ∧ s.nodeIdle n = false) → exec (.partitionSplit n) s = .next (s.refuse "split"))) ∧
  (∀ (s : State) (n : Nat) (k a b : Node), s.nodes.find? n = some k → s.nodes.find? (2 * n) = some a →
    s.nodes.find? (2 * n + 1) = some b →
    (k.st = .split → a.st = .free → b.st = .free → ∃ (u : State), exec (.partitionMerge n) s = .next u ∧
      u.nodes.find? n = some .free ∧ u.mem = s.mem) ∧
    (k.st = .split → a.st = .part → b.st = .part → s.nodeIdle (2 * n) = true → s.nodeIdle (2 * n + 1) = true →
      (∀ v, v ∈ a.devices ↔ v ∈ b.devices) → (∀ j ∈ innerBoundaries n, bitOf s.ridge.bfail.toNat j = false) →
      ∃ (u : State) (k' : Node), exec (.partitionMerge n) s = .next u ∧ u.nodes.find? n = some k' ∧ k'.st = .part ∧
        k'.devices = a.devices) ∧
    (k.st ≠ .split → exec (.partitionMerge n) s = .next (s.refuse "merge"))) ∧
  (∀ (s u : State) (n : Nat) (k : Node), s.nodes.find? n = some k →
    (k.st = .part → s.nodeIdle n = true → s.giveUpAll (s.coresIn n) = some u →
      exec (.partitionFree n) s = .next (u.putNode n .free)) ∧
    (k.st = .part → s.nodeIdle n = true → s.giveUpAll (s.coresIn n) = none →
      exec (.partitionFree n) s = .next (s.await (.partitionFree n))) ∧
    (k.st ≠ .part ∨ s.nodeIdle n = false → exec (.partitionFree n) s = .next (s.refuse "free"))) ∧
  (∀ (s : State) (n : Nat) (keepFirst : Bool) (k : Node), s.nodes.find? n = some k → 0 < n →
    let kept := if keepFirst then 2 * n else 2 * n + 1
    let gone := if keepFirst then 2 * n + 1 else 2 * n
    (k.st = .part → n < 16384 → k.keep = none ∨ k.keep = some kept → s.coresIn gone = [] → ∃ (u : State) (k' : Node),
      exec (.partitionShrink n keepFirst) s = .next u ∧ u.nodes.find? kept = some { k with keep := none } ∧
      u.nodes.find? gone = some .free ∧
      u.nodes.find? n = some k' ∧ k'.st = .split ∧ u.mem = s.mem ∧
      (∀ p ∈ u.launches, p.2.node ≠ n)) ∧
    (k.st ≠ .part ∨ 16384 ≤ n ∨ k.keep = some gone → exec (.partitionShrink n keepFirst) s = .next (s.refuse "shrink"))) ∧
  (∀ (s : State) (n : Nat) (k : Node) (g : OwnerCfg), s.nodes.find? n = some k →
    let entry (o : Owner) : OwnerEntry := (g.owners.find? (fun e => e.vdev == o.cfg.vdev)).getD o.cfg
    (s.extending n = true → exec (.ownerConfiguration n g) s = .next (s.await (.ownerConfiguration n g))) ∧
    (s.extending n = false → k.st = .part → g.signed = true → k.cfgSeq < g.seq → g.owners.length ≤ 64 →
      (∀ e ∈ g.owners, 1 ≤ e.weight ∧ e.weight ≤ 255 ∧ e.quota ≤ 62 ∧ e.vdev ∈ k.devices) →
      reservedOk (k.owners.map entry) = true →
      ∃ (u : State) (k' : Node), exec (.ownerConfiguration n g) s = .next u ∧ u.nodes.find? n = some k' ∧
        k'.cfgSeq = g.seq ∧ k'.owners.map Owner.cfg = k.owners.map entry ∧
        k'.pm = (Config.shake256 (k.pm ++ (Config.shake256 g.image 64).toList) 64).toList) ∧
    (s.extending n = false → k.st ≠ .part ∨ g.signed = false ∨ g.seq ≤ k.cfgSeq ∨ (∃ e ∈ g.owners, e.weight = 0 ∨ 255 < e.weight ∨ 62 < e.quota) →
      exec (.ownerConfiguration n g) s = .next (s.refuse "configuration"))) ∧
  (∀ (s : State) (n : Nat) (k : Node) (v : VDev) (o : Owner), s.nodes.find? n = some k →
    k.owners.find? (fun o => o.cfg.vdev == v) = some o →
      ∃ (u : State), exec (.usageSnapshot n v) s = .next u ∧ u.ridge.reports = s.ridge.reports ++ [s.signedReport
        [BitVec.ofNat 64 n, v.setWidth 64, BitVec.ofNat 64 (o.snapSeq + 1), BitVec.ofNat 64 s.now, o.turns, o.energy,
          o.dramBytes, o.ueBytes]] ∧ u.mem = s.mem) ∧
  (∀ (s : State) (core : CoreId) (v : VDev) (grant : Half) (x : Nat), s.ctxOf core.toNat v = some x →
    (s.erateSum - (s.ctx core.toNat x).erate.toNat + grant.toNat ≤ 1064960000 → exec (.erateWrite core v grant) s =
      .next (s.modCtx core.toNat x (fun k => { k with erate := grant }))) ∧
    (1064960000 < s.erateSum - (s.ctx core.toNat x).erate.toNat + grant.toNat →
      exec (.erateWrite core v grant) s = .next (s.refuse "ERATE"))) ∧
  (∀ (s : State) (core : CoreId) (v : VDev) (grant : Half), s.ctxOf core.toNat v = none →
    exec (.erateWrite core v grant) s = .next (s.refuse "ERATE")) ∧
  (∀ (s : State) (core : CoreId) (part : BitVec 16) (gen : Half), exec (.managementRegisterWrite (.capk core part gen)) s =
    .next (s.modCore core.toNat (fun k => { k with capPart := part, capGen := gen }))) ∧
  (∀ (s : State) (core : CoreId) (v : VDev),
    let c := core.toNat
    (∀ x, s.ctxOf c v = some x →
      (∀ stash slice, exec (.managementRegisterWrite (.occlim core v stash slice)) s =
        .next (s.modCtx c x (fun k => { k with limStash := stash.toNat, limSlice := slice.toNat }))) ∧
      (∀ idx entry, exec (.managementRegisterWrite (.landing core v idx entry)) s =
        .next (s.modCtx c x (fun k => { k with
          landing := if entry = 0 then k.landing.del idx.toNat else k.landing.put idx.toNat entry }))) ∧
      ∀ ga : Pc,
        (ga.toNat % 64 ≠ 0 → exec (.managementRegisterWrite (.service core v ga)) s = .next (s.refuse "service line")) ∧
        ∀ l, ga.toNat % 64 = 0 → s.mgmtWalk v ga.toNat = .ok l →
          let pa := l.phys ga.toNat
          let empty (s : State) : State :=
            (((s.putWord pa 0).putWord (pa + 8) 0).setFull (pa + 16) false).setFull (pa + 24) false
          (s.ownerOk (homeOf pa) v pa = false →
            exec (.managementRegisterWrite (.service core v ga)) s = .next (s.refuse "service line")) ∧
          (s.ownerOk (homeOf pa) v pa = true →
            (s.onLine v ga.toNat pa empty = none → exec (.managementRegisterWrite (.service core v ga)) s =
              .next (s.await (.managementRegisterWrite (.service core v ga)))) ∧
            ∀ u, s.onLine v ga.toNat pa empty = some u → exec (.managementRegisterWrite (.service core v ga)) s =
              .next (u.modCtx c x (fun k => { k with service := some ga.toNat })))) ∧
    (s.ctxOf c v = none →
      (∀ stash slice, exec (.managementRegisterWrite (.occlim core v stash slice)) s = .next (s.refuse "OCCLIM")) ∧
      (∀ idx entry, exec (.managementRegisterWrite (.landing core v idx entry)) s =
        .next (s.refuse "landing handlers")) ∧
      ∀ ga, exec (.managementRegisterWrite (.service core v ga)) s = .next (s.refuse "service line")) ∧
    (∀ ga, exec (.managementRegisterWrite (.window core ga)) s =
      .next (s.modCore c (fun k => { k with window := some ga.toNat }))) ∧
    ∀ pc on, exec (.managementRegisterWrite (.breakpoint core pc on)) s = .next (s.modCore c (fun k => { k with
      breaks := if on then k.breaks.filter (· != pc) ++ [pc] else k.breaks.filter (· != pc) }))) ∧
  (∀ (s : State) (v : VDev) (d : Device), s.vdevs.find? v.toNat = some d →
    (∀ (domain : BitVec 16) (grant : BitVec 3), ∃ (u : State),
      exec (.managementRegisterWrite (.rights v domain grant)) s = .next u ∧ u.mem = s.mem ∧
      u.vdevs = s.vdevs.put v.toNat { d with
        rights := if grant = 0 then d.rights.del domain.toNat else d.rights.put domain.toNat grant } ∧
      ∀ p ∈ u.cores, ∀ e ∈ p.2.plb, e.2.1 = domain.toNat →
        (p.2.ctxs.find? e.1).any (fun x => x.vdev == v) = false) ∧
    ∀ pa, (pa % 4096 = 0 → pa < 2 ^ 42 → (s.core (homeOf pa)).dark = false →
        exec (.managementRegisterWrite (.frame v pa)) s = .next (s.returnFrame v pa 4096)) ∧
      (pa % 4096 ≠ 0 ∨ 2 ^ 42 ≤ pa ∨ (s.core (homeOf pa)).dark = true →
        exec (.managementRegisterWrite (.frame v pa)) s = .next (s.refuse "frame"))) ∧
  (∀ (s : State) (pa : Nat) (e : Word),
    (pa % 8 = 0 → pa < 2 ^ 42 → exec (.managementRegisterWrite (.pte pa e)) s = .next (s.putWord pa e)) ∧
    (pa % 8 ≠ 0 ∨ 2 ^ 42 ≤ pa → exec (.managementRegisterWrite (.pte pa e)) s = .next (s.refuse "page table"))) ∧
  (∀ (s : State) (n : Nat) (idx : BitVec 16),
    (∀ k, s.nodes.find? n = some k → exec (.managementRegisterWrite (.revoke n idx)) s =
      .next (s.revoke n idx.toNat (k.handle idx.toNat).owner false none)) ∧
    (s.nodes.find? n = none → exec (.managementRegisterWrite (.revoke n idx)) s = .next (s.refuse "handle"))) ∧
  (∀ (s : State) (g : Nat) (owner : VDev) (valid shared : Bool), g < 2 ^ 30 → memWf s.mem = true →
    (valid = true → (s.core (homeOf (4096 * g))).dark = false ∧ s.frameReach owner (4096 * g) = true) →
      ∃ (u : State), exec (.managementRegisterWrite (.granule g owner valid shared)) s = .next u ∧
        u.granule g = ⟨owner, valid, shared⟩ ∧
        ((s.granule g).owner ≠ owner → ∀ a, 4096 * g ≤ a → a < 4096 * g + 4096 → memGet u.mem a = 0) ∧
        ∀ a, a < 4096 * g ∨ 4096 * g + 4096 ≤ a → memGet u.mem a = memGet s.mem a) ∧
  (∀ (s : State) (v : VDev) (root : Nat),
    (s.vdevs.find? v.toNat = none → root % 2048 = 0 → root < 2 ^ 42 → exec (.virtualDeviceCreate v root) s =
      .next { s with vdevs := s.vdevs.put v.toNat ⟨root, [], []⟩ }) ∧
    ((s.vdevs.find? v.toNat).isSome = true ∨ root % 2048 ≠ 0 → exec (.virtualDeviceCreate v root) s =
      .next (s.refuse "device")) ∧
    ((s.vdevs.find? v.toNat).isSome = true → s.partitionOf v = none →
      (∀ p ∈ s.cores, ∀ x ∈ p.2.ctxs, x.2.vdev ≠ v) → ∃ (u : State), exec (.virtualDeviceDestroy v) s = .next u ∧
        (s.vdevs.wf = true → u.vdevs.find? v.toNat = none) ∧ (∀ p ∈ u.qps, p.2.vdev ≠ v) ∧
        (∀ p ∈ u.cores, ∀ e ∈ p.2.mtc, e.vdev ≠ v) ∧ u.mem = s.mem) ∧
    ((s.partitionOf v).isSome = true → exec (.virtualDeviceDestroy v) s = .next (s.refuse "device"))) ∧
  (∀ (s u : State) (n len : Nat) (ga : Pc) (k : Node) (bs : List Byte), s.nodes.find? n = some k → k.st = .part →
    let m := s.measured k.devices (lineCuts ga.toNat len)
    (s.extending n = true ∨ m = .wait →
      exec (.measureRequest n ga len) s = .next (s.await (.measureRequest n ga len))) ∧
    (s.extending n = false →
      (m = .ok bs u → exec (.measureRequest n ga len) s = .next (u.modNode n (fun k => { k with
        pm := (Config.shake256 (k.pm ++ (Config.shake256 bs 64).toList) 64).toList }))) ∧
      (m = .error u → exec (.measureRequest n ga len) s = .next (u.refuse "measure")))) ∧
  (∀ (s : State) (n : Nat) (k : Node) (nonce : List Byte), s.nodes.find? n = some k → k.st = .part → nonce.length = 64 →
    ∃ (u : State) (w : List Word), exec (.attestationReport n nonce) s = .next u ∧ u.ridge.seq = s.ridge.seq + 1 ∧
      w.length = 42 ∧
      w.getD 1 0 = BitVec.ofNat 64 (s.ridge.seq + 1) ∧ (∀ j, j < 8 → w.getD (2 + j) 0 = (leWords nonce 8).getD j 0) ∧
      (∀ j, j < 8 → w.getD (10 + j) 0 = (leWords s.ridge.fm 8).getD j 0) ∧
      (∀ j, j < 8 → w.getD (18 + j) 0 = (leWords k.pm 8).getD j 0) ∧
      w.getD 36 0 = BitVec.ofNat 64 k.cfgSeq ∧ (∀ j, 37 ≤ j → w.getD j 0 = 0) ∧
      (wordBytes w ++ s.signature w).length = 8 * 57 ∧
      u.ridge.reports = s.ridge.reports ++ [wordBytes w ++ s.signature w])

/-! ## Clocks and the board -/

/-- What the clocks and the board bring (R25, R139, R225, R274, R278, R282, R284-R290): a slice tick carries every line's
deadlines over the tick; EBUD gains its grant up to twice the grant, halved while throttled; a window starts every owner's use
at 0; a scrub corrects what is correctable; the boot stages are measured in order on standby power, a failed one leaves the
module unpowered, and CORE_EN follows the fourth; the OKs bring the rails up in order, the stacks passing through self-test and their DRAM being
trained, a missing one drops them, and a power-down drops MEM_EN, then CORE_EN, then standby, 10 ms apart; 95 degrees throttle, 110 stop, and the throttle ends after 1 ms at 90 or below; a ninth failed link fails its boundary; a
core whose threads and engines are gone is tested, one that fails is fenced and what waits there leaves it, and one that is
repaired keeps the registers that it is left with; service starts early with the four stages, both rails and stack 0 trained, and
becomes full at a rotation boundary once every stack is; a core counts CYC from its stack's self-test.
Model's own readings that it rests on: notes/assumptions, 7, 33, 36, 41, 54. -/
def Obligations.ClockAndBoardEvents : Prop :=
  (∀ (s : State) (core : CoreId) (i : Nat) (l : SliceLine),
    let c := core.toNat
    (s.core c).slice.wf = true → (s.core c).slice.find? i = some l →
      ∃ (u : State) (l' : SliceLine), exec (.sliceTick core) s = .next u ∧ (u.core c).slice.find? i = some l' ∧
        l'.pline = l.pline ∧ l'.vdev = l.vdev ∧ u.mem = s.mem ∧
        l'.reuse = (l.reuse.cross ((s.sliceTick c + 2 ^ 15 - 1) % 2 ^ 15) 1).1) ∧
  (∀ (s : State) (core : CoreId),
    let c := core.toNat
    exec (.energyReplenish core) s = .next (s.replenish c) ∧
    (s.replenish c).mem = s.mem ∧ (s.replenish c).nodes = s.nodes ∧
    ∀ p ∈ ((s.replenish c).core c).ctxs, ∃ x, (p.1, x) ∈ (s.core c).ctxs ∧ p.2.erate = x.erate ∧ p.2.credit = 0 ∧
      (x.credit = 0 → -((2 ^ 63 : Nat) : Int) ≤ x.ebud → x.ebud < ((2 ^ 62 : Nat) : Int) →
        let g : Int := ((if s.ridge.throttle then x.erate.toNat / 2 else x.erate.toNat : Nat) : Int)
        p.2.ebud = if x.ebud < 2 * g then min (x.ebud + g) (2 * g) else x.ebud)) ∧
  (∀ (s : State), ∃ (u : State), exec .accountingWindow s = .next u ∧ u.mem = s.mem ∧ u.now = s.now ∧
    ∀ n k, s.nodes = [(n, k)] → ∃ k', u.nodes = [(n, k')] ∧
      ∀ o ∈ k'.owners, o.used = 0 ∧ o.woke = false) ∧
  (∀ (s : State) (core : CoreId), (∀ p ∈ s.soft, p.2 = false) → ∃ (u : State), exec (.patrolScrub core) s = .next u ∧
    u.mem = s.mem ∧ (∀ p ∈ u.soft, homeOf (8 * p.1) ≠ core.toNat) ∧
    (∀ p ∈ (u.core core.toNat).slice, homeOf (64 * p.2.pline) = core.toNat → p.2.soft = []) ∧
    ∀ p ∈ s.soft, homeOf (64 * (p.1 / 8)) ≠ core.toNat → p ∈ u.soft) ∧
  (∀ (s : State) (image : List Byte) (signed : Bool),
    (s.ridge.stbyOk = true → s.ridge.stage < 4 → s.ridge.bootfail = 0 → (s.ridge.stage = 0 ∨ signed = true) →
      ∃ r : Ridge, exec (.bootStage image signed) s = .next { s with ridge := r } ∧ r.stage = s.ridge.stage + 1 ∧
        r.fm = (Config.shake256 (s.ridge.fm ++ (Config.shake256 image 64).toList) 64).toList ∧ r.bootfail = 0 ∧
        r.flash.find? (s.ridge.stage + 1) = some image ∧
        r.coreEn = (s.ridge.coreEn || (s.ridge.stage = 3 && !s.ridge.hotStop && s.ridge.downAt.isNone)) ∧ r.memEn = s.ridge.memEn ∧
        (0 < s.ridge.stage → r.keys = s.ridge.keys) ∧ (s.ridge.stage = 0 → r.keys =
          some ((Config.keyPair (Config.secret s.ridge.fuses).toList).1.toList,
            (Config.keyPair (Config.secret s.ridge.fuses).toList).2.toList))) ∧
    (s.ridge.stbyOk = true → s.ridge.stage < 4 → s.ridge.bootfail = 0 → 0 < s.ridge.stage → signed = false →
      exec (.bootStage image signed) s = .next { s with ridge := { s.ridge with bootfail := s.ridge.stage + 1 } }) ∧
    (s.ridge.stbyOk = false ∨ 4 ≤ s.ridge.stage ∨ s.ridge.bootfail ≠ 0 →
      exec (.bootStage image signed) s = .next (s.refuse "boot"))) ∧
  (∀ (s : State),
    (exec .stbyOk s = .next { s with ridge := { s.ridge with stbyOk := true, coreEn := (s.ridge.coreEn ||
      (s.ridge.stage = 4 && s.ridge.bootfail = 0 && !s.ridge.hotStop && s.ridge.downAt.isNone)) } }) ∧
    (s.ridge.coreEn = true → s.ridge.downAt = none → exec .coreOk s = .next { s with ridge := { s.ridge with coreOk := true, memEn := true } }) ∧
    (s.ridge.coreEn = false → exec .coreOk s = .next s) ∧
    (s.ridge.memEn = true → s.ridge.memOk = false → ∃ u : State, exec .memOk s = .next u ∧
      u.ridge = { s.ridge with memOk := true } ∧ u.cores = s.cores ∧ ∀ k, k < 16 → u.selfTested.find? k = some s.now) ∧
    (s.ridge.memEn = false ∨ s.ridge.memOk = true → exec .memOk s = .next s) ∧
    (s.ridge.coreOk = true → s.ridge.memOk = true → ∀ k t, s.selfTested.find? k = some t → k ∈ s.train.ridge.trained) ∧
    (s.ridge.coreEn = true → s.ridge.coreOk = false → exec .powerOkTimeout s =
      .next { s with ridge := { s.ridge with coreEn := false, memEn := false } }) ∧
    (s.ridge.coreOk = true → s.ridge.memOk = true → exec .powerOkTimeout s = .next s) ∧
    (∀ t, s.ridge.downAt = some t → s.now < t + 12500000 → exec .powerDown s = .next (s.await .powerDown)) ∧
    ((∀ t, s.ridge.downAt = some t → t + 12500000 ≤ s.now) →
      (s.ridge.memEn = true → ∃ (u : State), exec .powerDown s = .next u ∧ u.cores = [] ∧ u.mem = [] ∧ u.vdevs = s.vdevs ∧
        u.ridge.memEn = false ∧ u.ridge.memOk = false ∧ u.ridge.coreEn = s.ridge.coreEn ∧ u.ridge.service = 0 ∧
        u.ridge.downAt = some s.now ∧ u.now = s.now ∧ .powerDown ∈ u.ridge.underway) ∧
      (s.ridge.memEn = false → s.ridge.coreEn = true → exec .powerDown s = .next (({ s with ridge := { s.ridge with
        coreEn := false, coreOk := false, downAt := some s.now } } : State).await .powerDown)) ∧
      (s.ridge.memEn = false → s.ridge.coreEn = false → ∃ (u : State), exec .powerDown s = .next u ∧ u.cores = [] ∧
        u.mem = [] ∧ u.vdevs = [] ∧ u.nodes = State.reset.nodes ∧ u.ridge.coreEn = false ∧ u.ridge.memEn = false ∧
        u.ridge.service = 0 ∧ u.ridge.stage = 0 ∧ u.ridge.stbyOk = false ∧ u.ridge.downAt = none ∧
        u.ridge.bfail = s.ridge.bfail ∧ u.now = s.now)) ∧
    (s.ridge.service = 0 → s.ridge.stage = 4 → s.ridge.bootfail = 0 → s.ridge.coreOk = true → s.ridge.memOk = true →
      exec .earlyServiceStart s = .next (if s.ridge.trained.contains 0 then { s with ridge := { s.ridge with service := 1 } }
        else s.await .earlyServiceStart)) ∧
    (s.ridge.stage < 4 ∨ s.ridge.coreOk = false ∨ s.ridge.memOk = false →
      exec .earlyServiceStart s = .next (s.refuse "service")) ∧
    (s.ridge.service = 1 → (s.now - s.selfTested.get 0 0) % 64 = 0 → (∀ k, k < 16 → k ∈ s.ridge.trained) →
      exec .fullServiceSwitch s = .next { s with ridge := { s.ridge with service := 2 } }) ∧
    (s.ridge.service = 1 → (s.now - s.selfTested.get 0 0) % 64 ≠ 0 ∨ (∃ k, k < 16 ∧ k ∉ s.ridge.trained) →
      exec .fullServiceSwitch s = .next (s.await .fullServiceSwitch)) ∧
    (s.ridge.service ≠ 1 → exec .fullServiceSwitch s = .next (s.refuse "service")) ∧
    (∀ c, (s.core c).cycBase = 0 → s.cyc c = (s.now - s.selfTested.get (c / 65536) 0) % 2 ^ 64)) ∧
  (∀ (s : State) (stack : Nat) (t : Int), ∃ (u : State), exec (.thermalSample stack t) s = .next u ∧
    (t < 110 → u.ridge.throttle = (s.ridge.throttle || decide (95 ≤ t)) ∧ u.mem = s.mem ∧ u.cores = s.cores ∧
      u.ridge.sensors.find? stack = some t) ∧
    (110 ≤ t → u.ridge.hotStop = true ∧ u.ridge.service = 3 ∧ u.ridge.coreEn = false ∧ u.ridge.memEn = false ∧
      u.cores = [] ∧ u.mem = []) ∧
    (90 < t → u.ridge.cool = none)) ∧
  (∀ (s : State) (n : Nat), s.ridge.cool = some n →
    (s.ridge.throttle = true → n + (if s.ridge.service = 1 then 625000 else 1250000) ≤ s.now →
      exec .throttleRelease s = .next { s with ridge := { s.ridge with throttle := false } }) ∧
    (s.now < n + (if s.ridge.service = 1 then 625000 else 1250000) → exec .throttleRelease s = .next s)) ∧
  (∀ (s : State), s.ridge.cool = none → exec .throttleRelease s = .next s) ∧
  (∀ (s : State) (b : Nat) (layer : Bool), b < 24 →
    let n := s.ridge.links.get (2 * b + if layer then 1 else 0) 0
    ∃ (u : State), exec (.boundaryLinkFailure b layer) s = .next u ∧
      u.ridge.links.get (2 * b + if layer then 1 else 0) 0 = n + 1 ∧
      (n < 8 → u.ridge.bfail = s.ridge.bfail) ∧
      (8 ≤ n → u.ridge.bfail = s.ridge.bfail ||| (1#24 <<< b) ∧ u.ridge.replace = true)) ∧
  (∀ (s : State) (core : CoreId) (r : TestResult),
    let c := core.toNat
    let s' := (s.modCore c (fun k => { k with closed := true })).clearOut c
    ((s.core c).slots = [] → (s.core c).ctxs = [] → s.enginesIdle c = true →
      ∃ (u : State), exec (.selfTest core r) s = .next u ∧ (u.core c).cycBase = s.now ∧ u.cyc c = 0 ∧
        ((u.core c).fenced = true ↔ r = .fenced ∨ r = .dark) ∧ ((u.core c).dark = true ↔ r = .dark) ∧ u.mem = s.mem ∧
        (∀ n, r = .repaired n → (u.core c).usable = min n Config.riddleBase) ∧
        (r = .fenced ∨ r = .dark → ∀ n, s.partOf c = some n → (u.core c).queue = [] ∧ (u.core c).spill = []) ∧
        (r = .dark → ∀ p ∈ u.granules, p.1 / 1024 = c → p.2.valid = false)) ∧
    ((s'.core c).slots ≠ [] ∨ s'.enginesIdle c = false → exec (.selfTest core r) s = .next (s'.await (.selfTest core r))) ∧
    ∀ u, s'.tested c r = some u → exec (.selfTest core r) s = .next u)

/-! ## The invariant -/

/-- Every step that leads to a next state, from whatever state with the invariant, leads to one with the invariant: memory
stays in its canonical form, addresses rising and no byte listed that reads as an unlisted one does, and every core's table of
threads stays in key order (R281, R287; the forms are the model's own: notes/assumptions/4.md). -/
def Obligations.StepKeepsStateWf : Prop :=
  ∀ s u : State, s.wf → step s = .next u → u.wf

/-- The reset state has the invariant, and the values that the spec gives power-on: service off, no boot stage done, no
enable, FM zero, nothing allotted, no device, memory scrubbed, and no core holding a thread (R278, R281, R286, R287, R289).
Model's own readings that it rests on: notes/assumptions, 3, 4. -/
def Obligations.ResetIsWf : Prop :=
  State.reset.wf ∧ State.reset.ridge.service = 0 ∧ State.reset.ridge.stage = 0 ∧ State.reset.ridge.seq = 0 ∧
  State.reset.ridge.fm = List.replicate 64 0 ∧ State.reset.ridge.coreEn = false ∧ State.reset.ridge.memEn = false ∧
  State.reset.vdevs = [] ∧ State.reset.launches = [] ∧ State.reset.now = 0 ∧ State.reset.mgmtStatus = 0 ∧
  (∀ p ∈ State.reset.nodes, p.2.st = .free) ∧ (∀ a, memGet State.reset.mem a = 0) ∧
  (∀ pl, (State.reset.metaOf pl).fe = 0xFF ∧ (State.reset.metaOf pl).poison = false) ∧
  ∀ c i, State.reset.thread? c i = none
end

