-- ==== Sys2Proof/Laws/Encoding.lean ====
section
/-! SUPPORT. What the decoder reads from each field that the encoder writes. -/

namespace Sys2Proof

/-- A register's number names it (R105). -/
theorem Reg.ofByte?_num (r : Reg) : Reg.ofByte? r.num = some r := by
  cases r with
  | x n =>
    have : (n.setWidth 8).toNat < 128 := by have := n.isLt; rw [BitVec.toNat_setWidth]; omega
    simp only [Reg.num, Reg.ofByte?, this, if_true]
    congr 2
    apply BitVec.eq_of_toNat_eq; have := n.isLt; simp [BitVec.extractLsb'_toNat]; omega
  | port d => cases d <;> rfl
  | mbx => rfl
  | zr => rfl
  | h n => revert n; decide
/-- A register field decodes to the register written there. -/
@[simp] theorem regOf_num (r : Reg) (k : Reg → Except EncTrap Instr) : regOf r.num k = k r := by
  simp [regOf, Reg.ofByte?_num]
/-- Four bytes joined again. -/
@[simp] theorem joinBytes4_split (o : BitVec 32) : joinBytes4 (o.extractLsb' 0 8) (o.extractLsb' 8 8) (o.extractLsb' 16 8) (o.extractLsb' 24 8) = o := by
  apply BitVec.eq_of_getLsbD_eq
  intro i hi
  simp only [joinBytes4, BitVec.getLsbD_append, BitVec.getLsbD_extractLsb']
  by_cases h1 : i < 8
  · simp [h1]
  · by_cases h2 : i < 16
    · simp [h1, show i - 8 < 8 by omega]; congr 1; omega
    · by_cases h3 : i < 24
      · simp [h1, show ¬ i - 8 < 8 by omega, show i - 8 - 8 < 8 by omega]; congr 1; omega
      · simp [h1, show ¬ i - 8 < 8 by omega, show ¬ i - 8 - 8 < 8 by omega, show i - 8 - 8 - 8 < 8 by omega]; congr 1; omega
/-- Two bytes joined again. -/
@[simp] theorem joinBytes2_split (o : BitVec 16) : joinBytes2 (o.extractLsb' 0 8) (o.extractLsb' 8 8) = o := by
  apply BitVec.eq_of_getLsbD_eq
  intro i hi
  simp only [joinBytes2, BitVec.getLsbD_append, BitVec.getLsbD_extractLsb']
  by_cases h1 : i < 8
  · simp [h1]
  · simp [h1, show i - 8 < 8 by omega]; congr 1; omega

/-! ## Modifier bytes and small fields -/

@[simp] theorem satOk_satByte (b : Bool) : satOk (satByte b) = true := by cases b <;> rfl
@[simp] theorem satByte_eq (b : Bool) : (satByte b == 8#8) = b := by cases b <;> rfl
@[simp] theorem flagOk_flagByte (b : Bool) : flagOk (flagByte b) = true := by cases b <;> rfl
@[simp] theorem flagByte_eq (b : Bool) : (flagByte b == 1#8) = b := by cases b <;> rfl
@[simp] theorem predOk_predByte (p : BitVec 4) : predOk (predByte p) = true := by revert p; decide
@[simp] theorem predByte_extract (p : BitVec 4) : (predByte p).extractLsb' 0 4 = p := by revert p; decide
@[simp] theorem cond_ofByte? (c : Cond) : Cond.ofByte? c.byte = some c := by cases c <;> rfl
@[simp] theorem fcmp_ofByte? (c : FCond) (f : FF) : fcmpOfByte? (fcmpByte c f) = some (c, f) := by
  cases c <;> cases f <;> rfl
@[simp] theorem ff_ofByte? (f : FF) : FF.ofByte? f.byte = some f := by cases f <;> rfl

@[simp] theorem fmod_ofByte? (m : FMod) : FMod.ofByte? m.byte = some m := by
  obtain ⟨r, s, f⟩ := m
  cases r <;> cases s <;> cases f <;> rfl

@[simp] theorem rmod_ofByte? (m : RMod) : RMod.ofByte? m.byte = some m := by
  obtain ⟨r, s⟩ := m
  cases r <;> cases s <;> rfl

@[simp] theorem rmod_ofByte1? (m : RMod) : RMod.ofByte1? m.byte = some m := by
  obtain ⟨r, s⟩ := m
  cases r <;> cases s <;> rfl

@[simp] theorem cvt_ofByte? (a b : CvtFmt) : cvtOfByte? (cvtByte a b) = some (a, b) := by cases a <;> cases b <;> rfl
@[simp] theorem scope_ofByte? (s : Scope) : Scope.ofByte? s.byte = some s := by cases s <;> rfl
@[simp] theorem mapScope_ofByte? (s : MapScope) : MapScope.ofByte? s.byte = some s := by cases s <;> rfl
@[simp] theorem wbScope_ofByte? (s : WbScope) : WbScope.ofByte? s.byte = some s := by cases s <;> rfl

theorem mmod_ofByte? (m : MMod) (h : m.wf = true) : MMod.ofByte? m.byte = some m := by
  obtain ⟨f, r⟩ := m
  revert f
  cases r <;> decide

@[simp] theorem ecOptOk_byte (e : BitVec 2) (o : Bool) : ecOptOk (ecOptByte e o) = true := by
  cases o <;> revert e <;> decide
@[simp] theorem ecOptByte_ec (e : BitVec 2) (o : Bool) : (ecOptByte e o).extractLsb' 0 2 = e := by
  cases o <;> revert e <;> decide
@[simp] theorem ecOptByte_opt (e : BitVec 2) (o : Bool) : (ecOptByte e o)[3] = o := by
  cases o <;> revert e <;> decide
@[simp] theorem ecByte_lt (e : BitVec 2) : decide ((e.setWidth 8 : Byte).toNat < 4) = true := by revert e; decide
@[simp] theorem ecByte_ec (e : BitVec 2) : (e.setWidth 8 : Byte).extractLsb' 0 2 = e := by revert e; decide

theorem altOk_altByte (m : BitVec 5) (f : Bool) (h : (m != 0) = true) : altOk (altByte m f) = true := by
  revert m
  cases f <;> decide
@[simp] theorem altByte_mask (m : BitVec 5) (f : Bool) : (altByte m f).extractLsb' 0 5 = m := by
  revert m
  cases f <;> decide
@[simp] theorem altByte_fair (m : BitVec 5) (f : Bool) : (altByte m f)[7] = f := by
  revert m
  cases f <;> decide

@[simp] theorem shiftByte_lt (n : BitVec 6) : decide ((n.setWidth 8 : Byte).toNat < 64) = true := by revert n; decide
@[simp] theorem shiftByte_extract (n : BitVec 6) : (n.setWidth 8 : Byte).extractLsb' 0 6 = n := by revert n; decide
@[simp] theorem codeByte_lt (n : BitVec 5) : decide ((n.setWidth 8 : Byte).toNat < 32) = true := by revert n; decide
@[simp] theorem codeByte_extract (n : BitVec 5) : (n.setWidth 8 : Byte).extractLsb' 0 5 = n := by revert n; decide
@[simp] theorem lByte_lt (n : BitVec 4) : decide ((n.setWidth 8 : Byte).toNat < 16) = true := by revert n; decide
@[simp] theorem lByte_extract (n : BitVec 4) : (n.setWidth 8 : Byte).extractLsb' 0 4 = n := by revert n; decide
@[simp] theorem nm1Byte_lt (n : BitVec 3) : decide ((n.setWidth 8 : Byte).toNat < 8) = true := by revert n; decide
@[simp] theorem nm1Byte_extract (n : BitVec 3) : (n.setWidth 8 : Byte).extractLsb' 0 3 = n := by revert n; decide

@[simp] theorem csrHi_lt (c : BitVec 12) : decide ((csrHi c).toNat < 16) = true := by
  have h : (c.extractLsb' 8 4 : BitVec 4).toNat < 16 := (c.extractLsb' 8 4).isLt
  simp only [csrHi, BitVec.toNat_setWidth, decide_eq_true_eq]
  omega

@[simp] theorem joinCsr_split (c : BitVec 12) : joinCsr (csrLo c) (csrHi c) = c := by
  apply BitVec.eq_of_getLsbD_eq
  intro i hi
  simp only [joinCsr, csrLo, csrHi, BitVec.getLsbD_append, BitVec.getLsbD_extractLsb', BitVec.getLsbD_setWidth]
  by_cases h1 : i < 8
  · simp [h1]
  · simp [h1, show i - 8 < 4 by omega, show i - 8 < 8 by omega]
    congr 1
    omega

@[simp] theorem coreTop_lt (c : CoreId) : decide (((c.extractLsb' 16 4).setWidth 8 : Byte).toNat < 16) = true := by
  have h : (c.extractLsb' 16 4 : BitVec 4).toNat < 16 := (c.extractLsb' 16 4).isLt
  simp only [BitVec.toNat_setWidth, decide_eq_true_eq]
  omega

@[simp] theorem joinCore_split (c : CoreId) :
    joinCore (c.extractLsb' 0 8) (c.extractLsb' 8 8) ((c.extractLsb' 16 4).setWidth 8) = c := by
  apply BitVec.eq_of_getLsbD_eq
  intro i hi
  simp only [joinCore, BitVec.getLsbD_append, BitVec.getLsbD_extractLsb', BitVec.getLsbD_setWidth]
  by_cases h1 : i < 8
  · simp [h1]
  · by_cases h2 : i < 16
    · simp [h1, show i - 8 < 8 by omega]
      congr 1
      omega
    · simp [h1, show ¬ i - 8 < 8 by omega, show i - 8 - 8 < 4 by omega, show i - 8 - 8 < 8 by omega]
      congr 1
      omega

/-- Byte 4 of a matrix command's tail, field by field (R112). -/
theorem mtailByte_fields (ec : BitVec 2) (hi : Bool) (fmt : MFmt) (c : Byte)
    (h : c = BitVec.ofNat 8 (ec.toNat + (if hi then 4 else 0) + 16 * fmt.num)) :
    mtailOfByte? c = some fmt ∧ c.extractLsb' 0 2 = ec ∧ c.getLsbD 2 = hi := by
  subst h
  revert ec
  cases hi <;> cases fmt <;> decide

@[simp] theorem mtail_ofByte? (t : MTail) : mtailOfByte? t.byte = some t.fmt :=
  (mtailByte_fields t.ec t.hi t.fmt t.byte rfl).1

@[simp] theorem mtailOf_byte (t : MTail) : mtailOf t.sa t.sb t.byte t.nu = t := by
  obtain ⟨h0, h1, h2⟩ := mtailByte_fields t.ec t.hi t.fmt t.byte rfl
  unfold mtailOf
  rw [h0, h1, h2]
  rfl

/-! ## Opcode groups (R98) -/

theorem decodeOp_system {op : Nat} (h : op / 64 = 0) (g : Guard) (t : List Byte) :
    decodeOp op g t = decodeSystem op g t := by
  simp only [decodeOp, h]

theorem decodeOp_register {op : Nat} (h : op / 64 = 1) (g : Guard) (t : List Byte) :
    decodeOp op g t = decodeRegister op g t := by
  simp only [decodeOp, h]

theorem decodeOp_immediate {op : Nat} (h : op / 64 = 2) (g : Guard) (t : List Byte) :
    decodeOp op g t = decodeImmediate op g t := by
  simp only [decodeOp, h]

theorem decodeOp_float {op : Nat} (h : op / 64 = 3) (g : Guard) (t : List Byte) :
    decodeOp op g t = decodeFloat op g t := by
  simp only [decodeOp, h]

theorem decodeOp_memory {op : Nat} (h : op / 64 = 4) (g : Guard) (t : List Byte) :
    decodeOp op g t = decodeMemory op g t := by
  simp only [decodeOp, h]

theorem decodeOp_home {op : Nat} (h : op / 64 = 5) (g : Guard) (t : List Byte) :
    decodeOp op g t = decodeHome op g t := by
  simp only [decodeOp, h]

theorem decodeOp_thread {op : Nat} (h : op / 64 = 6) (g : Guard) (t : List Byte) :
    decodeOp op g t = decodeThread op g t := by
  simp only [decodeOp, h]

theorem decodeOp_engine {op : Nat} (h : op / 64 = 7) (g : Guard) (t : List Byte) :
    decodeOp op g t = decodeEngine op g t := by
  simp only [decodeOp, h]

end Sys2Proof
end

