-- ==== Sys2Proof/Laws/Memory.lean ====
section
/-! SUPPORT. Memory: its canonical form, which every operation keeps, and a read after a write. -/

namespace Sys2Proof.Machine

/-- The canonical form, cell by cell. -/
theorem memWf_cons (j : Nat) (b : Byte) (t : List Host.Cell) :
    memWf ((j, b) :: t) = true ↔ b ≠ 0 ∧ memWf t = true ∧ ∀ p ∈ t, j < p.1 := by
  induction t generalizing j b with
  | nil => simp [memWf]
  | cons q t ih =>
    obtain ⟨k, c⟩ := q
    have hk := ih k c
    simp only [memWf, Bool.and_eq_true, bne_iff_ne, ne_eq, decide_eq_true_eq, List.mem_cons, forall_eq_or_imp]
    constructor
    · rintro ⟨⟨hb, hjk⟩, hw⟩
      exact ⟨hb, hw, hjk, fun p hp => Nat.lt_trans hjk ((hk.mp hw).2.2 p hp)⟩
    · rintro ⟨hb, hw, hjk, _⟩
      exact ⟨⟨hb, hjk⟩, hw⟩

/-- The cells of memory after one byte is written. -/
theorem mem_memSet {m : List Host.Cell} {a : Nat} {v : Byte} {p : Host.Cell} (h : p ∈ memSet m a v) :
    p = (a, v) ∨ p ∈ m := by
  induction m with
  | nil =>
    simp only [memSet] at h
    split at h
    · simp at h
    · exact .inl (by simpa using h)
  | cons q t ih =>
    obtain ⟨j, b⟩ := q
    simp only [memSet] at h
    split at h
    · split at h
      · exact .inr h
      · rcases List.mem_cons.mp h with h | h
        · exact .inl h
        · exact .inr h
    · split at h
      · split at h
        · exact .inr (List.mem_cons_of_mem _ h)
        · rcases List.mem_cons.mp h with h | h
          · exact .inl h
          · exact .inr (List.mem_cons_of_mem _ h)
      · rcases List.mem_cons.mp h with h | h
        · exact .inr (h ▸ List.mem_cons_self ..)
        · rcases ih h with h | h
          · exact .inl h
          · exact .inr (List.mem_cons_of_mem _ h)

/-- Writing a byte keeps the canonical form. -/
theorem memWf_memSet (m : List Host.Cell) (a : Nat) (v : Byte) (h : memWf m = true) : memWf (memSet m a v) = true := by
  induction m with
  | nil =>
    simp only [memSet]
    split
    · rfl
    · simpa [memWf] using ‹¬ v = 0›
  | cons q t ih =>
    obtain ⟨j, b⟩ := q
    obtain ⟨hb, hw, hall⟩ := (memWf_cons j b t).mp h
    simp only [memSet]
    split
    · rename_i haj
      split
      · exact h
      · refine (memWf_cons _ _ _).mpr ⟨‹¬ v = 0›, h, fun p hp => ?_⟩
        rcases List.mem_cons.mp hp with rfl | hp
        · exact haj
        · exact Nat.lt_trans haj (hall p hp)
    · split
      · rename_i _ haj
        subst haj
        split
        · exact hw
        · exact (memWf_cons _ _ _).mpr ⟨‹¬ v = 0›, hw, hall⟩
      · rename_i h1 h2
        refine (memWf_cons _ _ _).mpr ⟨hb, ih hw, fun p hp => ?_⟩
        rcases mem_memSet hp with rfl | hp
        · show j < a
          omega
        · exact hall p hp

/-- A byte below every listed address reads 0. -/
theorem memGet_below {m : List Host.Cell} {a : Nat} (h : ∀ p ∈ m, a < p.1) : memGet m a = 0 := by
  cases m with
  | nil => rfl
  | cons q t =>
    obtain ⟨j, b⟩ := q
    have hj : a < j := h (j, b) (List.mem_cons_self ..)
    simp [memGet, hj, show ¬ j = a by omega]

/-- The byte written reads back. -/
theorem memGet_memSet_same (m : List Host.Cell) (a : Nat) (v : Byte) (h : memWf m = true) :
    memGet (memSet m a v) a = v := by
  induction m with
  | nil =>
    simp only [memSet]
    split <;> simp_all [memGet]
  | cons q t ih =>
    obtain ⟨j, b⟩ := q
    obtain ⟨_, hw, hall⟩ := (memWf_cons j b t).mp h
    simp only [memSet]
    split
    · rename_i haj
      split
      · rename_i hv
        simp [memGet, haj, show ¬ j = a by omega, hv]
      · simp [memGet]
    · split
      · rename_i _ haj
        subst haj
        split
        · rename_i hv
          rw [hv]
          exact memGet_below hall
        · simp [memGet]
      · rename_i h1 h2
        simpa [memGet, h1, show ¬ j = a by omega] using ih hw

/-- Every other byte reads as before. -/
theorem memGet_memSet_other (m : List Host.Cell) {a x : Nat} (v : Byte) (h : memWf m = true) (hx : x ≠ a) :
    memGet (memSet m a v) x = memGet m x := by
  induction m with
  | nil =>
    simp only [memSet]
    split
    · rfl
    · simp [memGet, Ne.symm hx]
  | cons q t ih =>
    obtain ⟨j, b⟩ := q
    obtain ⟨_, hw, hall⟩ := (memWf_cons j b t).mp h
    simp only [memSet]
    split
    · rename_i haj
      split
      · rfl
      · by_cases hxa : x < a
        · simp [memGet, Ne.symm hx, hxa, show ¬ j = x by omega, show x < j by omega]
        · simp [memGet, Ne.symm hx, hxa]
    · split
      · rename_i _ haj
        subst haj
        split
        · by_cases hxa : x < a
          · rw [memGet_below (fun p hp => Nat.lt_trans hxa (hall p hp))]
            simp [memGet, Ne.symm hx, hxa]
          · simp [memGet, Ne.symm hx, hxa]
        · simp [memGet, Ne.symm hx]
      · by_cases hj : j = x
        · simp [memGet, hj]
        · by_cases hxj : x < j
          · simp [memGet, hj, hxj]
          · simpa [memGet, hj, hxj] using ih hw

/-- Writing bytes keeps the canonical form. -/
theorem memWf_memWrite (m : List Host.Cell) (a : Nat) (bs : List Byte) (h : memWf m = true) :
    memWf (memWrite m a bs) = true := by
  induction bs generalizing m a with
  | nil => exact h
  | cons b t ih => exact ih _ _ (memWf_memSet m a b h)

/-- Writing masked bytes keeps the canonical form. -/
theorem memWf_memMerge (m : List Host.Cell) (a : Nat) (bs : List (Byte × Nat)) (h : memWf m = true) :
    memWf (memMerge m a bs) = true := by
  induction bs generalizing m a with
  | nil => exact h
  | cons b t ih => exact ih _ _ (memWf_memSet m a _ h)

/-- A byte outside the written ones reads as before. -/
theorem memGet_memWrite_other (m : List Host.Cell) {a x : Nat} (bs : List Byte) (h : memWf m = true)
    (hx : x < a ∨ a + bs.length ≤ x) : memGet (memWrite m a bs) x = memGet m x := by
  induction bs generalizing m a with
  | nil => rfl
  | cons b t ih =>
    have hne : x ≠ a := by simp at hx; omega
    have hr : x < a + 1 ∨ a + 1 + t.length ≤ x := by simp at hx; omega
    exact (ih (memSet m a b) (memWf_memSet m a b h) hr).trans (memGet_memSet_other m b h hne)

/-- A written byte reads back. -/
theorem memGet_memWrite_same (m : List Host.Cell) (a k : Nat) (bs : List Byte) (h : memWf m = true)
    (hk : k < bs.length) : memGet (memWrite m a bs) (a + k) = bs[k] := by
  induction bs generalizing m a k with
  | nil => simp at hk
  | cons b t ih =>
    cases k with
    | zero =>
      exact (memGet_memWrite_other (memSet m a b) t (memWf_memSet m a b h) (.inl (by omega))).trans
        (memGet_memSet_same m a b h)
    | succ k =>
      have hk' : k < t.length := by simpa using hk
      have := ih (memSet m a b) (a + 1) k (memWf_memSet m a b h) hk'
      rw [show a + (k + 1) = a + 1 + k by omega]
      simpa [memWrite] using this

/-- A byte outside the merged ones reads as before. -/
theorem memGet_memMerge_other (m : List Host.Cell) {a x : Nat} (bs : List (Byte × Nat)) (h : memWf m = true)
    (hx : x < a ∨ a + bs.length ≤ x) : memGet (memMerge m a bs) x = memGet m x := by
  induction bs generalizing m a with
  | nil => rfl
  | cons b t ih =>
    have hne : x ≠ a := by simp at hx; omega
    have hr : x < a + 1 ∨ a + 1 + t.length ≤ x := by simp at hx; omega
    exact (ih _ (memWf_memSet m a _ h) hr).trans (memGet_memSet_other m _ h hne)

/-- Reading what was just written. -/
theorem memRead_memWrite (m : List Host.Cell) (a : Nat) (bs : List Byte) (h : memWf m = true) :
    memRead (memWrite m a bs) a bs.length = bs := by
  induction bs generalizing m a with
  | nil => rfl
  | cons b t ih =>
    have hw := memWf_memSet m a b h
    have h0 : memGet (memWrite (memSet m a b) (a + 1) t) a = b :=
      (memGet_memWrite_other (memSet m a b) t hw (.inl (by omega))).trans (memGet_memSet_same m a b h)
    simp [memRead, memWrite, h0, ih _ _ hw]

/-- Erasing cells keeps the canonical form. -/
theorem memWf_filter (m : List Host.Cell) (f : Host.Cell → Bool) (h : memWf m = true) : memWf (m.filter f) = true := by
  induction m with
  | nil => rfl
  | cons q t ih =>
    obtain ⟨j, b⟩ := q
    obtain ⟨hb, hw, hall⟩ := (memWf_cons j b t).mp h
    by_cases hf : f (j, b) = true
    · rw [List.filter_cons_of_pos hf]
      exact (memWf_cons _ _ _).mpr ⟨hb, ih hw, fun p hp => hall p (List.mem_filter.mp hp).1⟩
    · rw [List.filter_cons_of_neg hf]
      exact ih hw

end Sys2Proof.Machine
end

