-- ==== Sys2Proof/Laws/PerInstr.lean ====
section
/-! SUPPORT. One lemma per constructor of `Instr`: the opcode and the tail that the encoder writes decode to the
instruction. -/

namespace Sys2Proof.Laws.Encoding

set_option Elab.async false

open Sys2Proof

/-- The opcode and the tail bytes of a well-formed instruction decode to it (R105-R117); a step without an encoding has
none. -/
def Statement (i : Instr) : Prop :=
  ∀ (g : Guard) (op : Nat) (t : List Byte), i.guard? = some g → i.operandsWf = true → encodeParts i = some (op, t) →
    decodeOp op g t = .ok i

/-- A step without an encoding. -/
theorem of_event {i : Instr} (h : i.guard? = none) : Statement i := by
  intro g op t hg
  rw [h] at hg
  cases hg

/-- An encoded instruction whose opcode and tail decode to it. -/
theorem of_parts {i : Instr} {g : Guard} {op : Nat} {t : List Byte} (hg : i.guard? = some g)
    (he : encodeParts i = some (op, t)) (h : i.operandsWf = true → decodeOp op g t = .ok i) : Statement i := by
  intro g' op' t' hg' hw he'
  rw [hg] at hg'
  rw [he] at he'
  cases hg'
  cases he'
  exact h hw

theorem nop (g : Guard) : Statement (.nop g) :=
  of_parts rfl rfl fun _ => by
    rw [decodeOp_system (by decide)]
    delta decodeSystem
    simp

theorem br (g : Guard) (off : BitVec 32) : Statement (.br g off) :=
  of_parts rfl rfl fun h => by
    have h : offWf off = true := h
    rw [decodeOp_system (by decide)]
    delta decodeSystem
    simp [h]

theorem brl (g : Guard) (d : Reg) (off : BitVec 32) : Statement (.brl g d off) :=
  of_parts rfl rfl fun h => by
    have h : offWf off = true := h
    rw [decodeOp_system (by decide)]
    delta decodeSystem
    simp [h]

theorem jmp (g : Guard) (a : Reg) : Statement (.jmp g a) :=
  of_parts rfl rfl fun _ => by
    rw [decodeOp_system (by decide)]
    delta decodeSystem
    simp

theorem jmpl (g : Guard) (d : Reg) (a : Reg) : Statement (.jmpl g d a) :=
  of_parts rfl rfl fun _ => by
    rw [decodeOp_system (by decide)]
    delta decodeSystem
    simp

theorem loop (g : Guard) (d : Reg) (off : BitVec 32) : Statement (.loop g d off) :=
  of_parts rfl rfl fun h => by
    have h : offWf off = true := h
    rw [decodeOp_system (by decide)]
    delta decodeSystem
    simp [h]

theorem chunk (g : Guard) : Statement (.chunk g) :=
  of_parts rfl rfl fun _ => by
    rw [decodeOp_system (by decide)]
    delta decodeSystem
    simp

theorem fence (g : Guard) (sc : Scope) : Statement (.fence g sc) :=
  of_parts rfl rfl fun _ => by
    rw [decodeOp_system (by decide)]
    delta decodeSystem
    simp

theorem ifence (g : Guard) : Statement (.ifence g) :=
  of_parts rfl rfl fun _ => by
    rw [decodeOp_system (by decide)]
    delta decodeSystem
    simp

theorem flushi (g : Guard) (a : Reg) (b : Reg) : Statement (.flushi g a b) :=
  of_parts rfl rfl fun _ => by
    rw [decodeOp_system (by decide)]
    delta decodeSystem
    simp

theorem trap (g : Guard) (n : BitVec 16) : Statement (.trap g n) :=
  of_parts rfl rfl fun _ => by
    rw [decodeOp_system (by decide)]
    delta decodeSystem
    simp

theorem uret (g : Guard) : Statement (.uret g) :=
  of_parts rfl rfl fun _ => by
    rw [decodeOp_system (by decide)]
    delta decodeSystem
    simp

theorem eret (g : Guard) : Statement (.eret g) :=
  of_parts rfl rfl fun _ => by
    rw [decodeOp_system (by decide)]
    delta decodeSystem
    simp

theorem exit (g : Guard) : Statement (.exit g) :=
  of_parts rfl rfl fun _ => by
    rw [decodeOp_system (by decide)]
    delta decodeSystem
    simp

theorem taskend (g : Guard) : Statement (.taskend g) :=
  of_parts rfl rfl fun _ => by
    rw [decodeOp_system (by decide)]
    delta decodeSystem
    simp

theorem yield (g : Guard) : Statement (.yield g) :=
  of_parts rfl rfl fun _ => by
    rw [decodeOp_system (by decide)]
    delta decodeSystem
    simp

theorem haltd (g : Guard) (a : Reg) (drain : Bool) : Statement (.haltd g a drain) :=
  of_parts rfl rfl fun _ => by
    rw [decodeOp_system (by decide)]
    delta decodeSystem
    simp

theorem tick (g : Guard) (n : BitVec 16) : Statement (.tick g n) :=
  of_parts rfl rfl fun _ => by
    rw [decodeOp_system (by decide)]
    delta decodeSystem
    simp

theorem level (g : Guard) (on : Bool) : Statement (.level g on) :=
  of_parts rfl rfl fun _ => by
    rw [decodeOp_system (by decide)]
    delta decodeSystem
    simp

theorem csrr (g : Guard) (d : Reg) (csr : BitVec 12) : Statement (.csrr g d csr) :=
  of_parts rfl rfl fun _ => by
    rw [decodeOp_system (by decide)]
    delta decodeSystem
    simp

theorem csrw (g : Guard) (a : Reg) (csr : BitVec 12) : Statement (.csrw g a csr) :=
  of_parts rfl rfl fun _ => by
    rw [decodeOp_system (by decide)]
    delta decodeSystem
    simp

theorem csrs (g : Guard) (a : Reg) (csr : BitVec 12) : Statement (.csrs g a csr) :=
  of_parts rfl rfl fun _ => by
    rw [decodeOp_system (by decide)]
    delta decodeSystem
    simp

theorem csrc (g : Guard) (a : Reg) (csr : BitVec 12) : Statement (.csrc g a csr) :=
  of_parts rfl rfl fun _ => by
    rw [decodeOp_system (by decide)]
    delta decodeSystem
    simp

theorem plbw (g : Guard) (a : Reg) (b : Reg) : Statement (.plbw g a b) :=
  of_parts rfl rfl fun _ => by
    rw [decodeOp_system (by decide)]
    delta decodeSystem
    simp

theorem pinc (g : Guard) (a : Reg) : Statement (.pinc g a) :=
  of_parts rfl rfl fun _ => by
    rw [decodeOp_system (by decide)]
    delta decodeSystem
    simp

theorem pdec (g : Guard) (a : Reg) : Statement (.pdec g a) :=
  of_parts rfl rfl fun _ => by
    rw [decodeOp_system (by decide)]
    delta decodeSystem
    simp

theorem add (g : Guard) (d : Reg) (a : Reg) (b : Reg) (sat : Bool) : Statement (.add g d a b sat) :=
  of_parts rfl rfl fun _ => by
    rw [decodeOp_register (by decide)]
    delta decodeRegister
    simp

theorem sub (g : Guard) (d : Reg) (a : Reg) (b : Reg) (sat : Bool) : Statement (.sub g d a b sat) :=
  of_parts rfl rfl fun _ => by
    rw [decodeOp_register (by decide)]
    delta decodeRegister
    simp

theorem mul (g : Guard) (d : Reg) (a : Reg) (b : Reg) (sat : Bool) : Statement (.mul g d a b sat) :=
  of_parts rfl rfl fun _ => by
    rw [decodeOp_register (by decide)]
    delta decodeRegister
    simp

theorem mulh (g : Guard) (d : Reg) (a : Reg) (b : Reg) : Statement (.mulh g d a b) :=
  of_parts rfl rfl fun _ => by
    rw [decodeOp_register (by decide)]
    delta decodeRegister
    simp

theorem mulhu (g : Guard) (d : Reg) (a : Reg) (b : Reg) : Statement (.mulhu g d a b) :=
  of_parts rfl rfl fun _ => by
    rw [decodeOp_register (by decide)]
    delta decodeRegister
    simp

theorem div (g : Guard) (d : Reg) (a : Reg) (b : Reg) : Statement (.div g d a b) :=
  of_parts rfl rfl fun _ => by
    rw [decodeOp_register (by decide)]
    delta decodeRegister
    simp

theorem divu (g : Guard) (d : Reg) (a : Reg) (b : Reg) : Statement (.divu g d a b) :=
  of_parts rfl rfl fun _ => by
    rw [decodeOp_register (by decide)]
    delta decodeRegister
    simp

theorem rem (g : Guard) (d : Reg) (a : Reg) (b : Reg) : Statement (.rem g d a b) :=
  of_parts rfl rfl fun _ => by
    rw [decodeOp_register (by decide)]
    delta decodeRegister
    simp

theorem remu (g : Guard) (d : Reg) (a : Reg) (b : Reg) : Statement (.remu g d a b) :=
  of_parts rfl rfl fun _ => by
    rw [decodeOp_register (by decide)]
    delta decodeRegister
    simp

theorem and (g : Guard) (d : Reg) (a : Reg) (b : Reg) : Statement (.and g d a b) :=
  of_parts rfl rfl fun _ => by
    rw [decodeOp_register (by decide)]
    delta decodeRegister
    simp

theorem or (g : Guard) (d : Reg) (a : Reg) (b : Reg) : Statement (.or g d a b) :=
  of_parts rfl rfl fun _ => by
    rw [decodeOp_register (by decide)]
    delta decodeRegister
    simp

theorem xor (g : Guard) (d : Reg) (a : Reg) (b : Reg) : Statement (.xor g d a b) :=
  of_parts rfl rfl fun _ => by
    rw [decodeOp_register (by decide)]
    delta decodeRegister
    simp

theorem andn (g : Guard) (d : Reg) (a : Reg) (b : Reg) : Statement (.andn g d a b) :=
  of_parts rfl rfl fun _ => by
    rw [decodeOp_register (by decide)]
    delta decodeRegister
    simp

theorem shl (g : Guard) (d : Reg) (a : Reg) (b : Reg) : Statement (.shl g d a b) :=
  of_parts rfl rfl fun _ => by
    rw [decodeOp_register (by decide)]
    delta decodeRegister
    simp

theorem shr (g : Guard) (d : Reg) (a : Reg) (b : Reg) : Statement (.shr g d a b) :=
  of_parts rfl rfl fun _ => by
    rw [decodeOp_register (by decide)]
    delta decodeRegister
    simp

theorem sar (g : Guard) (d : Reg) (a : Reg) (b : Reg) : Statement (.sar g d a b) :=
  of_parts rfl rfl fun _ => by
    rw [decodeOp_register (by decide)]
    delta decodeRegister
    simp

theorem rol (g : Guard) (d : Reg) (a : Reg) (b : Reg) : Statement (.rol g d a b) :=
  of_parts rfl rfl fun _ => by
    rw [decodeOp_register (by decide)]
    delta decodeRegister
    simp

theorem ror (g : Guard) (d : Reg) (a : Reg) (b : Reg) : Statement (.ror g d a b) :=
  of_parts rfl rfl fun _ => by
    rw [decodeOp_register (by decide)]
    delta decodeRegister
    simp

theorem min (g : Guard) (d : Reg) (a : Reg) (b : Reg) : Statement (.min g d a b) :=
  of_parts rfl rfl fun _ => by
    rw [decodeOp_register (by decide)]
    delta decodeRegister
    simp

theorem max (g : Guard) (d : Reg) (a : Reg) (b : Reg) : Statement (.max g d a b) :=
  of_parts rfl rfl fun _ => by
    rw [decodeOp_register (by decide)]
    delta decodeRegister
    simp

theorem minu (g : Guard) (d : Reg) (a : Reg) (b : Reg) : Statement (.minu g d a b) :=
  of_parts rfl rfl fun _ => by
    rw [decodeOp_register (by decide)]
    delta decodeRegister
    simp

theorem maxu (g : Guard) (d : Reg) (a : Reg) (b : Reg) : Statement (.maxu g d a b) :=
  of_parts rfl rfl fun _ => by
    rw [decodeOp_register (by decide)]
    delta decodeRegister
    simp

theorem neg (g : Guard) (d : Reg) (a : Reg) (sat : Bool) : Statement (.neg g d a sat) :=
  of_parts rfl rfl fun _ => by
    rw [decodeOp_register (by decide)]
    delta decodeRegister
    simp

theorem abs (g : Guard) (d : Reg) (a : Reg) (sat : Bool) : Statement (.abs g d a sat) :=
  of_parts rfl rfl fun _ => by
    rw [decodeOp_register (by decide)]
    delta decodeRegister
    simp

theorem clz (g : Guard) (d : Reg) (a : Reg) : Statement (.clz g d a) :=
  of_parts rfl rfl fun _ => by
    rw [decodeOp_register (by decide)]
    delta decodeRegister
    simp

theorem popc (g : Guard) (d : Reg) (a : Reg) : Statement (.popc g d a) :=
  of_parts rfl rfl fun _ => by
    rw [decodeOp_register (by decide)]
    delta decodeRegister
    simp

theorem sel (g : Guard) (d : Reg) (k : BitVec 4) (a : Reg) (b : Reg) : Statement (.sel g d k a b) :=
  of_parts rfl rfl fun _ => by
    rw [decodeOp_register (by decide)]
    delta decodeRegister
    simp

theorem cmp (g : Guard) (pd : BitVec 4) (c : Cond) (a : Reg) (b : Reg) : Statement (.cmp g pd c a b) :=
  of_parts rfl rfl fun _ => by
    rw [decodeOp_register (by decide)]
    delta decodeRegister
    simp

theorem mov (g : Guard) (d : Reg) (a : Reg) : Statement (.mov g d a) :=
  of_parts rfl rfl fun _ => by
    rw [decodeOp_register (by decide)]
    delta decodeRegister
    simp

theorem pand (g : Guard) (pd : BitVec 4) (pa : BitVec 4) (pb : BitVec 4) : Statement (.pand g pd pa pb) :=
  of_parts rfl rfl fun _ => by
    rw [decodeOp_register (by decide)]
    delta decodeRegister
    simp

theorem por (g : Guard) (pd : BitVec 4) (pa : BitVec 4) (pb : BitVec 4) : Statement (.por g pd pa pb) :=
  of_parts rfl rfl fun _ => by
    rw [decodeOp_register (by decide)]
    delta decodeRegister
    simp

theorem pxor (g : Guard) (pd : BitVec 4) (pa : BitVec 4) (pb : BitVec 4) : Statement (.pxor g pd pa pb) :=
  of_parts rfl rfl fun _ => by
    rw [decodeOp_register (by decide)]
    delta decodeRegister
    simp

theorem pnot (g : Guard) (pd : BitVec 4) (pa : BitVec 4) : Statement (.pnot g pd pa) :=
  of_parts rfl rfl fun _ => by
    rw [decodeOp_register (by decide)]
    delta decodeRegister
    simp

theorem pmov (g : Guard) (pd : BitVec 4) (pa : BitVec 4) : Statement (.pmov g pd pa) :=
  of_parts rfl rfl fun _ => by
    rw [decodeOp_register (by decide)]
    delta decodeRegister
    simp

theorem addi (g : Guard) (d : Reg) (a : Reg) (imm : BitVec 32) (sat : Bool) : Statement (.addi g d a imm sat) :=
  of_parts rfl rfl fun _ => by
    rw [decodeOp_immediate (by decide)]
    delta decodeImmediate
    simp

theorem andi (g : Guard) (d : Reg) (a : Reg) (imm : BitVec 32) : Statement (.andi g d a imm) :=
  of_parts rfl rfl fun _ => by
    rw [decodeOp_immediate (by decide)]
    delta decodeImmediate
    simp

theorem ori (g : Guard) (d : Reg) (a : Reg) (imm : BitVec 32) : Statement (.ori g d a imm) :=
  of_parts rfl rfl fun _ => by
    rw [decodeOp_immediate (by decide)]
    delta decodeImmediate
    simp

theorem xori (g : Guard) (d : Reg) (a : Reg) (imm : BitVec 32) : Statement (.xori g d a imm) :=
  of_parts rfl rfl fun _ => by
    rw [decodeOp_immediate (by decide)]
    delta decodeImmediate
    simp

theorem shli (g : Guard) (d : Reg) (a : Reg) (n : BitVec 6) : Statement (.shli g d a n) :=
  of_parts rfl rfl fun _ => by
    rw [decodeOp_immediate (by decide)]
    delta decodeImmediate
    simp
    omega

theorem shri (g : Guard) (d : Reg) (a : Reg) (n : BitVec 6) : Statement (.shri g d a n) :=
  of_parts rfl rfl fun _ => by
    rw [decodeOp_immediate (by decide)]
    delta decodeImmediate
    simp
    omega

theorem sari (g : Guard) (d : Reg) (a : Reg) (n : BitVec 6) : Statement (.sari g d a n) :=
  of_parts rfl rfl fun _ => by
    rw [decodeOp_immediate (by decide)]
    delta decodeImmediate
    simp
    omega

theorem cmpi (g : Guard) (pd : BitVec 4) (c : Cond) (a : Reg) (imm : BitVec 32) : Statement (.cmpi g pd c a imm) :=
  of_parts rfl rfl fun _ => by
    rw [decodeOp_immediate (by decide)]
    delta decodeImmediate
    simp

theorem movi (g : Guard) (d : Reg) (imm : BitVec 32) : Statement (.movi g d imm) :=
  of_parts rfl rfl fun _ => by
    rw [decodeOp_immediate (by decide)]
    delta decodeImmediate
    simp

theorem movhi (g : Guard) (d : Reg) (imm : BitVec 32) : Statement (.movhi g d imm) :=
  of_parts rfl rfl fun _ => by
    rw [decodeOp_immediate (by decide)]
    delta decodeImmediate
    simp

theorem paddReg (g : Guard) (d : Reg) (a : Reg) (b : Reg) : Statement (.paddReg g d a b) :=
  of_parts rfl rfl fun _ => by
    rw [decodeOp_immediate (by decide)]
    delta decodeImmediate
    simp

theorem paddImm (g : Guard) (d : Reg) (a : Reg) (imm : BitVec 32) : Statement (.paddImm g d a imm) :=
  of_parts rfl rfl fun _ => by
    rw [decodeOp_immediate (by decide)]
    delta decodeImmediate
    simp

theorem pfmt (g : Guard) (d : Reg) (a : Reg) (code : BitVec 5) (l : BitVec 4) : Statement (.pfmt g d a code l) :=
  of_parts rfl rfl fun _ => by
    rw [decodeOp_immediate (by decide)]
    delta decodeImmediate
    simp
    omega

theorem ptag (g : Guard) (d : Reg) (a : Reg) : Statement (.ptag g d a) :=
  of_parts rfl rfl fun _ => by
    rw [decodeOp_immediate (by decide)]
    delta decodeImmediate
    simp

theorem contid (g : Guard) (d : Reg) (n : BitVec 8) : Statement (.contid g d n) :=
  of_parts rfl rfl fun _ => by
    rw [decodeOp_immediate (by decide)]
    delta decodeImmediate
    simp

theorem fadd (g : Guard) (d : Reg) (a : Reg) (b : Reg) (m : FMod) : Statement (.fadd g d a b m) :=
  of_parts rfl rfl fun _ => by
    rw [decodeOp_float (by decide)]
    delta decodeFloat
    simp

theorem fsub (g : Guard) (d : Reg) (a : Reg) (b : Reg) (m : FMod) : Statement (.fsub g d a b m) :=
  of_parts rfl rfl fun _ => by
    rw [decodeOp_float (by decide)]
    delta decodeFloat
    simp

theorem fmul (g : Guard) (d : Reg) (a : Reg) (b : Reg) (m : FMod) : Statement (.fmul g d a b m) :=
  of_parts rfl rfl fun _ => by
    rw [decodeOp_float (by decide)]
    delta decodeFloat
    simp

theorem fdiv (g : Guard) (d : Reg) (a : Reg) (b : Reg) (m : FMod) : Statement (.fdiv g d a b m) :=
  of_parts rfl rfl fun _ => by
    rw [decodeOp_float (by decide)]
    delta decodeFloat
    simp

theorem fsqrt (g : Guard) (d : Reg) (a : Reg) (m : FMod) : Statement (.fsqrt g d a m) :=
  of_parts rfl rfl fun _ => by
    rw [decodeOp_float (by decide)]
    delta decodeFloat
    simp

theorem fma (g : Guard) (d : Reg) (a : Reg) (b : Reg) (c : Reg) (m : FMod) : Statement (.fma g d a b c m) :=
  of_parts rfl rfl fun _ => by
    rw [decodeOp_float (by decide)]
    delta decodeFloat
    simp

theorem fpma (g : Guard) (d : Reg) (a : Reg) (b : Reg) (c : Reg) (r : RMod) : Statement (.fpma g d a b c r) :=
  of_parts rfl rfl fun _ => by
    rw [decodeOp_float (by decide)]
    delta decodeFloat
    simp

theorem fmin (g : Guard) (d : Reg) (a : Reg) (b : Reg) (f : FF) : Statement (.fmin g d a b f) :=
  of_parts rfl rfl fun _ => by
    rw [decodeOp_float (by decide)]
    delta decodeFloat
    simp

theorem fmax (g : Guard) (d : Reg) (a : Reg) (b : Reg) (f : FF) : Statement (.fmax g d a b f) :=
  of_parts rfl rfl fun _ => by
    rw [decodeOp_float (by decide)]
    delta decodeFloat
    simp

theorem fabs (g : Guard) (d : Reg) (a : Reg) (f : FF) : Statement (.fabs g d a f) :=
  of_parts rfl rfl fun _ => by
    rw [decodeOp_float (by decide)]
    delta decodeFloat
    simp

theorem fneg (g : Guard) (d : Reg) (a : Reg) (f : FF) : Statement (.fneg g d a f) :=
  of_parts rfl rfl fun _ => by
    rw [decodeOp_float (by decide)]
    delta decodeFloat
    simp

theorem fcmp (g : Guard) (pd : BitVec 4) (c : FCond) (f : FF) (a : Reg) (b : Reg) : Statement (.fcmp g pd c f a b) :=
  of_parts rfl rfl fun _ => by
    rw [decodeOp_float (by decide)]
    delta decodeFloat
    simp

theorem fcvt (g : Guard) (d : Reg) (a : Reg) (r : RMod) (tgt : CvtFmt) (src : CvtFmt) : Statement (.fcvt g d a r tgt src) :=
  of_parts rfl rfl fun h => by
    have h : cvtWf r tgt src = true := h
    rw [decodeOp_float (by decide)]
    delta decodeFloat
    simp [h]

theorem fclass (g : Guard) (d : Reg) (a : Reg) (f : FF) : Statement (.fclass g d a f) :=
  of_parts rfl rfl fun _ => by
    rw [decodeOp_float (by decide)]
    delta decodeFloat
    simp

theorem bdot (g : Guard) (d : Reg) (a : Reg) (b : Reg) (r : RMod) : Statement (.bdot g d a b r) :=
  of_parts rfl rfl fun _ => by
    rw [decodeOp_float (by decide)]
    delta decodeFloat
    simp

theorem bdq (g : Guard) (d : Reg) (a : Reg) (m : FMod) : Statement (.bdq g d a m) :=
  of_parts rfl rfl fun _ => by
    rw [decodeOp_float (by decide)]
    delta decodeFloat
    simp

theorem bqnt (g : Guard) (d : Reg) (a : Reg) (spread : BitVec 4) : Statement (.bqnt g d a spread) :=
  of_parts rfl rfl fun _ => by
    rw [decodeOp_float (by decide)]
    delta decodeFloat
    simp

theorem vargmax (g : Guard) (d : Reg) (a : Reg) (b : Reg) (f : FF) : Statement (.vargmax g d a b f) :=
  of_parts rfl rfl fun _ => by
    rw [decodeOp_float (by decide)]
    delta decodeFloat
    simp

theorem vperm (g : Guard) (d : Reg) (a : Reg) (b : Reg) (f : FF) : Statement (.vperm g d a b f) :=
  of_parts rfl rfl fun _ => by
    rw [decodeOp_float (by decide)]
    delta decodeFloat
    simp

theorem vsum (g : Guard) (d : Reg) (a : Reg) (b : Reg) (m : FMod) : Statement (.vsum g d a b m) :=
  of_parts rfl rfl fun _ => by
    rw [decodeOp_float (by decide)]
    delta decodeFloat
    simp

theorem ld (g : Guard) (d : Reg) (b : Reg) (m : MMod) (nu : BitVec 8) (off : BitVec 16) : Statement (.ld g d b m nu off) :=
  of_parts rfl rfl fun h => by
    have h : m.wf = true := h
    rw [decodeOp_memory (by decide)]
    delta decodeMemory
    simp [mmod_ofByte? m h]

theorem st (g : Guard) (d : Reg) (b : Reg) (m : MMod) (nu : BitVec 8) (off : BitVec 16) : Statement (.st g d b m nu off) :=
  of_parts rfl rfl fun h => by
    have h : m.wf = true := h
    rw [decodeOp_memory (by decide)]
    delta decodeMemory
    simp [mmod_ofByte? m h]

theorem ldp (g : Guard) (d : Reg) (b : Reg) (nu : BitVec 8) (off : BitVec 16) : Statement (.ldp g d b nu off) :=
  of_parts rfl rfl fun _ => by
    rw [decodeOp_memory (by decide)]
    delta decodeMemory
    simp

theorem stp (g : Guard) (d : Reg) (b : Reg) (nu : BitVec 8) (off : BitVec 16) : Statement (.stp g d b nu off) :=
  of_parts rfl rfl fun _ => by
    rw [decodeOp_memory (by decide)]
    delta decodeMemory
    simp

theorem pref (g : Guard) (b : Reg) (nu : BitVec 8) (off : BitVec 16) : Statement (.pref g b nu off) :=
  of_parts rfl rfl fun _ => by
    rw [decodeOp_memory (by decide)]
    delta decodeMemory
    simp

theorem smap (g : Guard) (b : Reg) (d : Reg) (sc : MapScope) (nu : BitVec 8) : Statement (.smap g b d sc nu) :=
  of_parts rfl rfl fun _ => by
    rw [decodeOp_memory (by decide)]
    delta decodeMemory
    simp

theorem swb (g : Guard) (a : Reg) (b : Reg) (sc : WbScope) : Statement (.swb g a b sc) :=
  of_parts rfl rfl fun _ => by
    rw [decodeOp_memory (by decide)]
    delta decodeMemory
    simp

theorem sdrop (g : Guard) (a : Reg) (b : Reg) : Statement (.sdrop g a b) :=
  of_parts rfl rfl fun _ => by
    rw [decodeOp_memory (by decide)]
    delta decodeMemory
    simp

theorem aadd (g : Guard) (d : Reg) (b : Reg) (v : Reg) (off : BitVec 16) : Statement (.aadd g d b v off) :=
  of_parts rfl rfl fun _ => by
    rw [decodeOp_home (by decide)]
    delta decodeHome
    simp

theorem aaddc (g : Guard) (d : Reg) (b : Reg) (v : Reg) (off : BitVec 16) : Statement (.aaddc g d b v off) :=
  of_parts rfl rfl fun _ => by
    rw [decodeOp_home (by decide)]
    delta decodeHome
    simp

theorem aand (g : Guard) (d : Reg) (b : Reg) (v : Reg) (off : BitVec 16) : Statement (.aand g d b v off) :=
  of_parts rfl rfl fun _ => by
    rw [decodeOp_home (by decide)]
    delta decodeHome
    simp

theorem aor (g : Guard) (d : Reg) (b : Reg) (v : Reg) (off : BitVec 16) : Statement (.aor g d b v off) :=
  of_parts rfl rfl fun _ => by
    rw [decodeOp_home (by decide)]
    delta decodeHome
    simp

theorem axor (g : Guard) (d : Reg) (b : Reg) (v : Reg) (off : BitVec 16) : Statement (.axor g d b v off) :=
  of_parts rfl rfl fun _ => by
    rw [decodeOp_home (by decide)]
    delta decodeHome
    simp

theorem amin (g : Guard) (d : Reg) (b : Reg) (v : Reg) (off : BitVec 16) : Statement (.amin g d b v off) :=
  of_parts rfl rfl fun _ => by
    rw [decodeOp_home (by decide)]
    delta decodeHome
    simp

theorem amax (g : Guard) (d : Reg) (b : Reg) (v : Reg) (off : BitVec 16) : Statement (.amax g d b v off) :=
  of_parts rfl rfl fun _ => by
    rw [decodeOp_home (by decide)]
    delta decodeHome
    simp

theorem aswap (g : Guard) (d : Reg) (b : Reg) (v : Reg) (off : BitVec 16) : Statement (.aswap g d b v off) :=
  of_parts rfl rfl fun _ => by
    rw [decodeOp_home (by decide)]
    delta decodeHome
    simp

theorem acas (g : Guard) (d : Reg) (b : Reg) (v : Reg) (off : BitVec 16) : Statement (.acas g d b v off) :=
  of_parts rfl rfl fun _ => by
    rw [decodeOp_home (by decide)]
    delta decodeHome
    simp

theorem lds (g : Guard) (d : Reg) (b : Reg) (nu : BitVec 8) (off : BitVec 16) : Statement (.lds g d b nu off) :=
  of_parts rfl rfl fun _ => by
    rw [decodeOp_home (by decide)]
    delta decodeHome
    simp

theorem sts (g : Guard) (d : Reg) (b : Reg) (nu : BitVec 8) (off : BitVec 16) : Statement (.sts g d b nu off) :=
  of_parts rfl rfl fun _ => by
    rw [decodeOp_home (by decide)]
    delta decodeHome
    simp

theorem ldf (g : Guard) (d : Reg) (b : Reg) (nu : BitVec 8) (off : BitVec 16) : Statement (.ldf g d b nu off) :=
  of_parts rfl rfl fun _ => by
    rw [decodeOp_home (by decide)]
    delta decodeHome
    simp

theorem fec (g : Guard) (b : Reg) (nu : BitVec 8) (off : BitVec 16) : Statement (.fec g b nu off) :=
  of_parts rfl rfl fun _ => by
    rw [decodeOp_home (by decide)]
    delta decodeHome
    simp

theorem fef (g : Guard) (b : Reg) (nu : BitVec 8) (off : BitVec 16) : Statement (.fef g b nu off) :=
  of_parts rfl rfl fun _ => by
    rw [decodeOp_home (by decide)]
    delta decodeHome
    simp

theorem join (g : Guard) (pd : BitVec 4) (a : Reg) : Statement (.join g pd a) :=
  of_parts rfl rfl fun _ => by
    rw [decodeOp_home (by decide)]
    delta decodeHome
    simp

theorem spawn (g : Guard) (pd : BitVec 4) (a : Reg) (b : Reg) : Statement (.spawn g pd a b) :=
  of_parts rfl rfl fun _ => by
    rw [decodeOp_thread (by decide)]
    delta decodeThread
    simp

theorem post (g : Guard) (a : Reg) : Statement (.post g a) :=
  of_parts rfl rfl fun _ => by
    rw [decodeOp_thread (by decide)]
    delta decodeThread
    simp

theorem hop (g : Guard) (a : Reg) : Statement (.hop g a) :=
  of_parts rfl rfl fun _ => by
    rw [decodeOp_thread (by decide)]
    delta decodeThread
    simp

theorem susp (g : Guard) : Statement (.susp g) :=
  of_parts rfl rfl fun _ => by
    rw [decodeOp_thread (by decide)]
    delta decodeThread
    simp

theorem send (g : Guard) (a : Reg) (b : Reg) (nm1 : BitVec 3) : Statement (.send g a b nm1) :=
  of_parts rfl rfl fun _ => by
    rw [decodeOp_thread (by decide)]
    delta decodeThread
    simp
    omega

theorem waitm (g : Guard) : Statement (.waitm g) :=
  of_parts rfl rfl fun _ => by
    rw [decodeOp_thread (by decide)]
    delta decodeThread
    simp

theorem mbxpop (g : Guard) (a : Reg) : Statement (.mbxpop g a) :=
  of_parts rfl rfl fun _ => by
    rw [decodeOp_thread (by decide)]
    delta decodeThread
    simp

theorem alt (g : Guard) (d : Reg) (mask : BitVec 5) (fair : Bool) : Statement (.alt g d mask fair) :=
  of_parts rfl rfl fun h => by
    have h : (mask != 0) = true := h
    rw [decodeOp_thread (by decide)]
    delta decodeThread
    simp [altOk_altByte mask fair h]

theorem chopen (g : Guard) (n : BitVec 8) (a : Reg) (b : Reg) : Statement (.chopen g n a b) :=
  of_parts rfl rfl fun _ => by
    rw [decodeOp_thread (by decide)]
    delta decodeThread
    simp

theorem chgrant (g : Guard) (n : BitVec 8) (a : Reg) : Statement (.chgrant g n a) :=
  of_parts rfl rfl fun _ => by
    rw [decodeOp_thread (by decide)]
    delta decodeThread
    simp

theorem chsend (g : Guard) (n : BitVec 8) (a : Reg) : Statement (.chsend g n a) :=
  of_parts rfl rfl fun _ => by
    rw [decodeOp_thread (by decide)]
    delta decodeThread
    simp

theorem chrecv (g : Guard) (d : Reg) (n : BitVec 8) : Statement (.chrecv g d n) :=
  of_parts rfl rfl fun _ => by
    rw [decodeOp_thread (by decide)]
    delta decodeThread
    simp

theorem chclose (g : Guard) (n : BitVec 8) : Statement (.chclose g n) :=
  of_parts rfl rfl fun _ => by
    rw [decodeOp_thread (by decide)]
    delta decodeThread
    simp

theorem cpyq (g : Guard) (blk : Reg) (ec : BitVec 2) (pin : Bool) (nu : BitVec 8) : Statement (.cpyq g blk ec pin nu) :=
  of_parts rfl rfl fun _ => by
    rw [decodeOp_thread (by decide)]
    delta decodeThread
    simp

theorem cpyst (g : Guard) (d : Reg) (a : Reg) : Statement (.cpyst g d a) :=
  of_parts rfl rfl fun _ => by
    rw [decodeOp_thread (by decide)]
    delta decodeThread
    simp

theorem cpycan (g : Guard) (a : Reg) : Statement (.cpycan g a) :=
  of_parts rfl rfl fun _ => by
    rw [decodeOp_thread (by decide)]
    delta decodeThread
    simp

theorem waitc (g : Guard) (a : Reg) (b : Reg) : Statement (.waitc g a b) :=
  of_parts rfl rfl fun _ => by
    rw [decodeOp_thread (by decide)]
    delta decodeThread
    simp

theorem landst (g : Guard) (d : Reg) (b : Reg) (m : MMod) (nu : BitVec 8) (off : BitVec 16) : Statement (.landst g d b m nu off) :=
  of_parts rfl rfl fun h => by
    have h : m.wf = true := h
    rw [decodeOp_thread (by decide)]
    delta decodeThread
    simp [mmod_ofByte? m h]

theorem landend (g : Guard) : Statement (.landend g) :=
  of_parts rfl rfl fun _ => by
    rw [decodeOp_thread (by decide)]
    delta decodeThread
    simp

theorem mma (g : Guard) (blk : Reg) (t : MTail) : Statement (.mma g blk t) :=
  of_parts rfl rfl fun _ => by
    rw [decodeOp_engine (by decide)]
    delta decodeEngine
    simp

theorem mmr (g : Guard) (blk : Reg) (t : MTail) : Statement (.mmr g blk t) :=
  of_parts rfl rfl fun _ => by
    rw [decodeOp_engine (by decide)]
    delta decodeEngine
    simp

theorem mq (g : Guard) (blk : Reg) (t : MTail) : Statement (.mq g blk t) :=
  of_parts rfl rfl fun _ => by
    rw [decodeOp_engine (by decide)]
    delta decodeEngine
    simp

theorem mcmd (g : Guard) (blk : Reg) (t : MTail) (core : CoreId) : Statement (.mcmd g blk t core) :=
  of_parts rfl rfl fun _ => by
    rw [decodeOp_engine (by decide)]
    delta decodeEngine
    simp
    omega

theorem mwait (g : Guard) (hi : Bool) : Statement (.mwait g hi) :=
  of_parts rfl rfl fun _ => by
    rw [decodeOp_engine (by decide)]
    delta decodeEngine
    simp

theorem walk (g : Guard) (d : Reg) (blk : Reg) (ec : BitVec 2) (resume : Bool) (nu : BitVec 8) : Statement (.walk g d blk ec resume nu) :=
  of_parts rfl rfl fun _ => by
    rw [decodeOp_engine (by decide)]
    delta decodeEngine
    simp

theorem forest (g : Guard) (d : Reg) (blk : Reg) (ec : BitVec 2) (nu : BitVec 8) : Statement (.forest g d blk ec nu) :=
  of_parts rfl rfl fun _ => by
    rw [decodeOp_engine (by decide)]
    delta decodeEngine
    simp
    omega

theorem gbfac (g : Guard) (blk : Reg) (ec : BitVec 2) (nu : BitVec 8) : Statement (.gbfac g blk ec nu) :=
  of_parts rfl rfl fun _ => by
    rw [decodeOp_engine (by decide)]
    delta decodeEngine
    simp
    omega

theorem gbvar (g : Guard) (blk : Reg) (ec : BitVec 2) (nu : BitVec 8) : Statement (.gbvar g blk ec nu) :=
  of_parts rfl rfl fun _ => by
    rw [decodeOp_engine (by decide)]
    delta decodeEngine
    simp
    omega

theorem gbpop (g : Guard) (a : Reg) : Statement (.gbpop g a) :=
  of_parts rfl rfl fun _ => by
    rw [decodeOp_engine (by decide)]
    delta decodeEngine
    simp

theorem gbwr (g : Guard) (blk : Reg) (ec : BitVec 2) (nu : BitVec 8) : Statement (.gbwr g blk ec nu) :=
  of_parts rfl rfl fun _ => by
    rw [decodeOp_engine (by decide)]
    delta decodeEngine
    simp
    omega

theorem dispatch (core : CoreId) : Statement (.dispatch core) :=
  of_event rfl

theorem taskRecordArrival (k : Nat) : Statement (.taskRecordArrival k) :=
  of_event rfl

theorem hopArrival (k : Nat) : Statement (.hopArrival k) :=
  of_event rfl

theorem arrivalRefill (core : CoreId) : Statement (.arrivalRefill core) :=
  of_event rfl

theorem messageArrival (k : Nat) : Statement (.messageArrival k) :=
  of_event rfl

theorem refusalResend (w : Resend) : Statement (.refusalResend w) :=
  of_event rfl

theorem portWordArrival (k : Nat) : Statement (.portWordArrival k) :=
  of_event rfl

theorem channelWordArrival (k : Nat) : Statement (.channelWordArrival k) :=
  of_event rfl

theorem channelGrantArrival (k : Nat) : Statement (.channelGrantArrival k) :=
  of_event rfl

theorem rakeSample (core : CoreId) : Statement (.rakeSample core) :=
  of_event rfl

theorem userHandlerEntry (core : CoreId) : Statement (.userHandlerEntry core) :=
  of_event rfl

theorem memoryReply (core : CoreId) (slot : Nat) : Statement (.memoryReply core slot) :=
  of_event rfl

theorem homeAccess (k : Nat) : Statement (.homeAccess k) :=
  of_event rfl

theorem sliceFill (pa : Nat) : Statement (.sliceFill pa) :=
  of_event rfl

theorem syncAtHome (k : Nat) : Statement (.syncAtHome k) :=
  of_event rfl

theorem atomicAtHome (k : Nat) : Statement (.atomicAtHome k) :=
  of_event rfl

theorem joinAtHome (k : Nat) : Statement (.joinAtHome k) :=
  of_event rfl

theorem parkRetry (core : CoreId) (idx : Nat) : Statement (.parkRetry core idx) :=
  of_event rfl

theorem chunkCommit (core : CoreId) (slot : Nat) : Statement (.chunkCommit core slot) :=
  of_event rfl

theorem stashRecall (pa : Nat) (write : Bool) : Statement (.stashRecall pa write) :=
  of_event rfl

theorem directoryOverflowHandler (core : CoreId) : Statement (.directoryOverflowHandler core) :=
  of_event rfl

theorem sliceTick (core : CoreId) : Statement (.sliceTick core) :=
  of_event rfl

theorem credenceNotice (k : Nat) : Statement (.credenceNotice k) :=
  of_event rfl

theorem engineOwnershipGrant (cmd : Nat) : Statement (.engineOwnershipGrant cmd) :=
  of_event rfl

theorem barrowAccept (core : CoreId) : Statement (.barrowAccept core) :=
  of_event rfl

theorem copyLineRead (core : CoreId) : Statement (.copyLineRead core) :=
  of_event rfl

theorem landingPacket (core : CoreId) : Statement (.landingPacket core) :=
  of_event rfl

theorem copyCompletion (core : CoreId) (reg : Nat) : Statement (.copyCompletion core reg) :=
  of_event rfl

theorem revocationAck (core : CoreId) (node : Nat) (idx : Nat) : Statement (.revocationAck core node idx) :=
  of_event rfl

theorem tileStep (core : CoreId) : Statement (.tileStep core) :=
  of_event rfl

theorem triggerRead (core : CoreId) (hi : Bool) : Statement (.triggerRead core hi) :=
  of_event rfl

theorem raggedRead (core : CoreId) (hi : Bool) : Statement (.raggedRead core hi) :=
  of_event rfl

theorem ringTileArrival (k : Nat) : Statement (.ringTileArrival k) :=
  of_event rfl

theorem mcmdArrival (k : Nat) : Statement (.mcmdArrival k) :=
  of_event rfl

theorem matrixCompletion (core : CoreId) (hi : Bool) : Statement (.matrixCompletion core hi) :=
  of_event rfl

theorem energyReplenish (core : CoreId) : Statement (.energyReplenish core) :=
  of_event rfl

theorem walkStep (core : CoreId) : Statement (.walkStep core) :=
  of_event rfl

theorem walkRetire (core : CoreId) : Statement (.walkRetire core) :=
  of_event rfl

theorem forestRetire (core : CoreId) : Statement (.forestRetire core) :=
  of_event rfl

theorem gaussCommandDone (core : CoreId) : Statement (.gaussCommandDone core) :=
  of_event rfl

theorem gaussDelivery (core : CoreId) : Statement (.gaussDelivery core) :=
  of_event rfl

theorem translationWalk (core : CoreId) (vdev : VDev) (ga : Pc) : Statement (.translationWalk core vdev ga) :=
  of_event rfl

theorem migrationRetry (k : Nat) : Statement (.migrationRetry k) :=
  of_event rfl

theorem mapRequest (core : CoreId) (ctx : Nat) : Statement (.mapRequest core ctx) :=
  of_event rfl

theorem unmapRequest (core : CoreId) (ctx : Nat) : Statement (.unmapRequest core ctx) :=
  of_event rfl

theorem handleCreate (core : CoreId) (ctx : Nat) : Statement (.handleCreate core ctx) :=
  of_event rfl

theorem handleRevoke (core : CoreId) (ctx : Nat) : Statement (.handleRevoke core ctx) :=
  of_event rfl

theorem handleFree (core : CoreId) (ctx : Nat) : Statement (.handleFree core ctx) :=
  of_event rfl

theorem pageMigration (vdev : VDev) (ga : Pc) (frame : Option Nat) : Statement (.pageMigration vdev ga frame) :=
  of_event rfl

theorem debugBreakpoint (core : CoreId) (slot : Nat) : Statement (.debugBreakpoint core slot) :=
  of_event rfl

theorem launchRecord (qp : Nat) (bytes : List Byte) : Statement (.launchRecord qp bytes) :=
  of_event rfl

theorem launchStart (node : Nat) : Statement (.launchStart node) :=
  of_event rfl

theorem launchCompletion (launch : Nat) : Statement (.launchCompletion launch) :=
  of_event rfl

theorem completionCoalesceExpiry (qp : Nat) : Statement (.completionCoalesceExpiry qp) :=
  of_event rfl

theorem ueSend (qp : Nat) (bytes : List Byte) : Statement (.ueSend qp bytes) :=
  of_event rfl

theorem ueWrite (qp : Nat) (ga : Pc) (bytes : List Byte) : Statement (.ueWrite qp ga bytes) :=
  of_event rfl

theorem ueRead (qp : Nat) (ga : Pc) (n : Nat) : Statement (.ueRead qp ga n) :=
  of_event rfl

theorem ueFetchAdd (qp : Nat) (ga : Pc) (v : UeOperand) : Statement (.ueFetchAdd qp ga v) :=
  of_event rfl

theorem ueSwap (qp : Nat) (ga : Pc) (v : Word) : Statement (.ueSwap qp ga v) :=
  of_event rfl

theorem ueCompareSwap (qp : Nat) (ga : Pc) (expect : Word) (v : Word) : Statement (.ueCompareSwap qp ga expect v) :=
  of_event rfl

theorem queuePairCreate (vdev : VDev) (port : Nat) (kind : PairKind) : Statement (.queuePairCreate vdev port kind) :=
  of_event rfl

theorem partitionAllot (node : Nat) (owners : List VDev) : Statement (.partitionAllot node owners) :=
  of_event rfl

theorem partitionSplit (node : Nat) : Statement (.partitionSplit node) :=
  of_event rfl

theorem partitionMerge (node : Nat) : Statement (.partitionMerge node) :=
  of_event rfl

theorem partitionFree (node : Nat) : Statement (.partitionFree node) :=
  of_event rfl

theorem partitionShrink (node : Nat) (keepFirst : Bool) : Statement (.partitionShrink node keepFirst) :=
  of_event rfl

theorem threadEviction (core : CoreId) (slot : Nat) : Statement (.threadEviction core slot) :=
  of_event rfl

theorem evictedReentry (k : Nat) : Statement (.evictedReentry k) :=
  of_event rfl

theorem rotationHandover (core : CoreId) (slots : List Nat) (vdev : VDev) : Statement (.rotationHandover core slots vdev) :=
  of_event rfl

theorem lendSlots (core : CoreId) (lender : VDev) (borrower : VDev) (slots : List Nat) : Statement (.lendSlots core lender borrower slots) :=
  of_event rfl

theorem lendRecall (core : CoreId) (lender : VDev) : Statement (.lendRecall core lender) :=
  of_event rfl

theorem accountingWindow : Statement (.accountingWindow) :=
  of_event rfl

theorem usageSnapshot (node : Nat) (vdev : VDev) : Statement (.usageSnapshot node vdev) :=
  of_event rfl

theorem ownerConfiguration (node : Nat) (cfg : OwnerCfg) : Statement (.ownerConfiguration node cfg) :=
  of_event rfl

theorem erateWrite (core : CoreId) (vdev : VDev) (grant : Half) : Statement (.erateWrite core vdev grant) :=
  of_event rfl

theorem managementRegisterWrite (w : MgmtWrite) : Statement (.managementRegisterWrite w) :=
  of_event rfl

theorem measureRequest (node : Nat) (ga : Pc) (n : Nat) : Statement (.measureRequest node ga n) :=
  of_event rfl

theorem attestationReport (node : Nat) (nonce : List Byte) : Statement (.attestationReport node nonce) :=
  of_event rfl

theorem bootStage (image : List Byte) (signed : Bool) : Statement (.bootStage image signed) :=
  of_event rfl

theorem stbyOk : Statement (.stbyOk) :=
  of_event rfl

theorem coreOk : Statement (.coreOk) :=
  of_event rfl

theorem memOk : Statement (.memOk) :=
  of_event rfl

theorem powerOkTimeout : Statement (.powerOkTimeout) :=
  of_event rfl

theorem powerDown : Statement (.powerDown) :=
  of_event rfl

theorem thermalSample (stack : Nat) (celsius : Int) : Statement (.thermalSample stack celsius) :=
  of_event rfl

theorem throttleRelease : Statement (.throttleRelease) :=
  of_event rfl

theorem selfTest (core : CoreId) (result : TestResult) : Statement (.selfTest core result) :=
  of_event rfl

theorem boundaryLinkFailure (boundary : Nat) (cacheLayer : Bool) : Statement (.boundaryLinkFailure boundary cacheLayer) :=
  of_event rfl

theorem fullServiceSwitch : Statement (.fullServiceSwitch) :=
  of_event rfl

theorem patrolScrub (core : CoreId) : Statement (.patrolScrub core) :=
  of_event rfl

theorem launchAbort (launch : Nat) : Statement (.launchAbort launch) :=
  of_event rfl

theorem virtualDeviceCreate (vdev : VDev) (root : Nat) : Statement (.virtualDeviceCreate vdev root) :=
  of_event rfl

theorem virtualDeviceDestroy (vdev : VDev) : Statement (.virtualDeviceDestroy vdev) :=
  of_event rfl

theorem earlyServiceStart : Statement (.earlyServiceStart) :=
  of_event rfl

end Sys2Proof.Laws.Encoding
end

