-- ==== Sys2Proof/Laws/Tables.lean ====
section
/-! SUPPORT. The association tables: a read after a write, and that every operation keeps the keys rising. -/

namespace Sys2Proof

/-- A key that was just bound reads as its value. -/
@[simp] theorem Tbl.find?_put_same {α : Type} (t : Tbl α) (k : Nat) (a : α) : (t.put k a).find? k = some a := by
  induction t with
  | nil => simp [Tbl.put, Tbl.find?]
  | cons p t ih =>
    obtain ⟨j, b⟩ := p
    simp only [Tbl.put]
    split
    · simp [Tbl.find?]
    · split
      · simp [Tbl.find?]
      · have h1 : ¬ j = k := by omega
        have h2 : ¬ k < j := by omega
        simpa [Tbl.find?, h1, h2] using ih

/-- Another key reads as before. -/
theorem Tbl.find?_put_other {α : Type} (t : Tbl α) {k m : Nat} (a : α) (h : m ≠ k) :
    (t.put k a).find? m = t.find? m := by
  induction t with
  | nil => simp [Tbl.put, Tbl.find?, Ne.symm h]
  | cons p t ih =>
    obtain ⟨j, b⟩ := p
    simp only [Tbl.put]
    split
    · rename_i hk
      by_cases hm : m < k
      · simp [Tbl.find?, Ne.symm h, hm, show ¬ j = m by omega, show m < j by omega]
      · simp [Tbl.find?, Ne.symm h, hm]
    · split
      · rename_i hk
        subst hk
        simp [Tbl.find?, Ne.symm h]
      · by_cases hj : j = m
        · simp [Tbl.find?, hj]
        · by_cases hm : m < j
          · simp [Tbl.find?, hj, hm]
          · simpa [Tbl.find?, hj, hm] using ih

@[simp] theorem Tbl.get_put_same {α : Type} (t : Tbl α) (k : Nat) (a d : α) : (t.put k a).get k d = a := by
  simp [Tbl.get]

theorem Tbl.get_put_other {α : Type} (t : Tbl α) {k m : Nat} (a d : α) (h : m ≠ k) :
    (t.put k a).get m d = t.get m d := by
  simp [Tbl.get, Tbl.find?_put_other t a h]

/-- The later of two writes of one key stands. -/
@[simp] theorem Tbl.put_put {α : Type} (t : Tbl α) (k : Nat) (a b : α) : (t.put k a).put k b = t.put k b := by
  induction t with
  | nil => simp [Tbl.put]
  | cons p t ih =>
    obtain ⟨j, c⟩ := p
    simp only [Tbl.put]
    split
    · simp [Tbl.put]
    · split
      · simp [Tbl.put]
      · rename_i h1 h2
        simpa [Tbl.put, h1, h2] using ih

/-- Binding a key at the front of a table whose keys rise keeps the keys rising. -/
theorem Tbl.wf_cons {α : Type} (j : Nat) (b : α) (t : Tbl α) :
    Tbl.wf ((j, b) :: t) = true ↔ Tbl.wf t = true ∧ ∀ p ∈ t, j < p.1 := by
  induction t generalizing j b with
  | nil => simp [Tbl.wf]
  | cons q t ih =>
    obtain ⟨k, c⟩ := q
    simp only [Tbl.wf, Bool.and_eq_true, decide_eq_true_eq, List.mem_cons, forall_eq_or_imp, ih k c]
    constructor
    · rintro ⟨hjk, hw, hall⟩
      exact ⟨⟨hw, hall⟩, hjk, fun p hp => Nat.lt_trans hjk (hall p hp)⟩
    · rintro ⟨⟨hw, hall⟩, hjk, _⟩
      exact ⟨hjk, hw, hall⟩

/-- The keys of a table after a write. -/
theorem Tbl.mem_put {α : Type} {t : Tbl α} {k : Nat} {a : α} {p : Nat × α} (h : p ∈ t.put k a) :
    p = (k, a) ∨ p ∈ t := by
  induction t with
  | nil => simpa [Tbl.put] using h
  | cons q t ih =>
    obtain ⟨j, b⟩ := q
    simp only [Tbl.put] at h
    split at h
    · rcases List.mem_cons.mp h with h | h
      · exact .inl h
      · exact .inr h
    · split at h
      · rcases List.mem_cons.mp h with h | h
        · exact .inl h
        · exact .inr (List.mem_cons_of_mem _ h)
      · rcases List.mem_cons.mp h with h | h
        · exact .inr (h ▸ List.mem_cons_self ..)
        · rcases ih h with h | h
          · exact .inl h
          · exact .inr (List.mem_cons_of_mem _ h)

/-- A write keeps the keys rising. -/
theorem Tbl.wf_put {α : Type} (t : Tbl α) (k : Nat) (a : α) (h : t.wf = true) : (t.put k a).wf = true := by
  induction t with
  | nil => simp [Tbl.put, Tbl.wf]
  | cons p t ih =>
    obtain ⟨j, b⟩ := p
    rw [Tbl.wf_cons] at h
    obtain ⟨hw, hall⟩ := h
    simp only [Tbl.put]
    split
    · rename_i hk
      rw [Tbl.wf_cons, Tbl.wf_cons]
      refine ⟨⟨hw, hall⟩, ?_⟩
      intro p hp
      rcases List.mem_cons.mp hp with rfl | hp
      · exact hk
      · exact Nat.lt_trans hk (hall p hp)
    · split
      · rename_i _ hk
        subst hk
        exact (Tbl.wf_cons _ _ _).mpr ⟨hw, hall⟩
      · rename_i h1 h2
        refine (Tbl.wf_cons _ _ _).mpr ⟨ih hw, ?_⟩
        intro p hp
        rcases Tbl.mem_put hp with rfl | hp
        · show j < k
          omega
        · exact hall p hp

/-- The keys that a deletion leaves were keys before. -/
theorem Tbl.mem_del {α : Type} {t : Tbl α} {k : Nat} {p : Nat × α} (h : p ∈ t.del k) : p ∈ t := by
  induction t with
  | nil => simp [Tbl.del] at h
  | cons q t ih =>
    obtain ⟨j, b⟩ := q
    simp only [Tbl.del] at h
    split at h
    · exact List.mem_cons_of_mem _ h
    · split at h
      · exact h
      · rcases List.mem_cons.mp h with h | h
        · exact h ▸ List.mem_cons_self ..
        · exact List.mem_cons_of_mem _ (ih h)

/-- A deletion keeps the keys rising. -/
theorem Tbl.wf_del {α : Type} (t : Tbl α) (k : Nat) (h : t.wf = true) : (t.del k).wf = true := by
  induction t with
  | nil => simp [Tbl.del, Tbl.wf]
  | cons p t ih =>
    obtain ⟨j, b⟩ := p
    have h' := (Tbl.wf_cons _ _ _).mp h
    simp only [Tbl.del]
    split
    · exact h'.1
    · split
      · exact h
      · exact (Tbl.wf_cons _ _ _).mpr ⟨ih h'.1, fun p hp => h'.2 p (Tbl.mem_del hp)⟩

/-- Where the keys rise, a deleted key is unbound. -/
theorem Tbl.find?_del_same {α : Type} (t : Tbl α) (k : Nat) (h : t.wf = true) : (t.del k).find? k = none := by
  induction t with
  | nil => simp [Tbl.del, Tbl.find?]
  | cons p t ih =>
    obtain ⟨j, b⟩ := p
    have h' := (Tbl.wf_cons _ _ _).mp h
    simp only [Tbl.del]
    split
    · rename_i hj
      subst hj
      cases t with
      | nil => simp [Tbl.find?]
      | cons q t =>
        obtain ⟨m, c⟩ := q
        have hm := h'.2 (m, c) (List.mem_cons_self ..)
        simp [Tbl.find?, show ¬ m = j by simp at hm; omega, show j < m by simpa using hm]
    · split
      · rename_i h1 h2
        simp [Tbl.find?, h1, h2]
      · rename_i h1 h2
        simpa [Tbl.find?, h1, h2] using ih h'.1

/-- Changing the entry of a bound key. -/
theorem Tbl.mod_some {α : Type} {t : Tbl α} {k : Nat} {a : α} (f : α → α) (h : t.find? k = some a) :
    t.mod k f = t.put k (f a) := by
  simp [Tbl.mod, h]

/-- Changing the entry of an unbound key does nothing. -/
theorem Tbl.mod_none {α : Type} {t : Tbl α} {k : Nat} (f : α → α) (h : t.find? k = none) : t.mod k f = t := by
  simp [Tbl.mod, h]

end Sys2Proof
end

