-- ==== Sys2Proof/Laws/State.lean ====
section
/-! SUPPORT. One lemma per field of the state and per update of it, and what the accessors read after an update. -/

namespace Sys2Proof.Machine

/-! ## Fields that an update leaves alone -/

/-! ### setCore -/

@[simp] theorem State.setCore_now (s : State) (c : Nat) (k : Core) : (s.setCore c k).now = s.now := rfl
@[simp] theorem State.setCore_turns (s : State) (c : Nat) (k : Core) : (s.setCore c k).turns = s.turns := rfl
@[simp] theorem State.setCore_turn (s : State) (c : Nat) (k : Core) : (s.setCore c k).turn = s.turn := rfl
@[simp] theorem State.setCore_inputs (s : State) (c : Nat) (k : Core) : (s.setCore c k).inputs = s.inputs := rfl
@[simp] theorem State.setCore_agenda (s : State) (c : Nat) (k : Core) : (s.setCore c k).agenda = s.agenda := rfl
@[simp] theorem State.setCore_wire (s : State) (c : Nat) (k : Core) : (s.setCore c k).wire = s.wire := rfl
@[simp] theorem State.setCore_mem (s : State) (c : Nat) (k : Core) : (s.setCore c k).mem = s.mem := rfl
@[simp] theorem State.setCore_metas (s : State) (c : Nat) (k : Core) : (s.setCore c k).metas = s.metas := rfl
@[simp] theorem State.setCore_soft (s : State) (c : Nat) (k : Core) : (s.setCore c k).soft = s.soft := rfl
@[simp] theorem State.setCore_metaBad (s : State) (c : Nat) (k : Core) : (s.setCore c k).metaBad = s.metaBad := rfl
@[simp] theorem State.setCore_selfTested (s : State) (c : Nat) (k : Core) : (s.setCore c k).selfTested = s.selfTested := rfl
@[simp] theorem State.setCore_granules (s : State) (c : Nat) (k : Core) : (s.setCore c k).granules = s.granules := rfl
@[simp] theorem State.setCore_pins (s : State) (c : Nat) (k : Core) : (s.setCore c k).pins = s.pins := rfl
@[simp] theorem State.setCore_vdevs (s : State) (c : Nat) (k : Core) : (s.setCore c k).vdevs = s.vdevs := rfl
@[simp] theorem State.setCore_nodes (s : State) (c : Nat) (k : Core) : (s.setCore c k).nodes = s.nodes := rfl
@[simp] theorem State.setCore_launches (s : State) (c : Nat) (k : Core) : (s.setCore c k).launches = s.launches := rfl
@[simp] theorem State.setCore_nextLaunch (s : State) (c : Nat) (k : Core) : (s.setCore c k).nextLaunch = s.nextLaunch := rfl
@[simp] theorem State.setCore_qps (s : State) (c : Nat) (k : Core) : (s.setCore c k).qps = s.qps := rfl
@[simp] theorem State.setCore_evicted (s : State) (c : Nat) (k : Core) : (s.setCore c k).evicted = s.evicted := rfl
@[simp] theorem State.setCore_migrations (s : State) (c : Nat) (k : Core) : (s.setCore c k).migrations = s.migrations := rfl
@[simp] theorem State.setCore_arbiters (s : State) (c : Nat) (k : Core) : (s.setCore c k).arbiters = s.arbiters := rfl
@[simp] theorem State.setCore_bloom (s : State) (c : Nat) (k : Core) : (s.setCore c k).bloom = s.bloom := rfl
@[simp] theorem State.setCore_nextCmd (s : State) (c : Nat) (k : Core) : (s.setCore c k).nextCmd = s.nextCmd := rfl
@[simp] theorem State.setCore_nextId (s : State) (c : Nat) (k : Core) : (s.setCore c k).nextId = s.nextId := rfl
@[simp] theorem State.setCore_ridge (s : State) (c : Nat) (k : Core) : (s.setCore c k).ridge = s.ridge := rfl

/-! ### modCore -/

@[simp] theorem State.modCore_now (s : State) (c : Nat) (f : Core → Core) : (s.modCore c f).now = s.now := rfl
@[simp] theorem State.modCore_turns (s : State) (c : Nat) (f : Core → Core) : (s.modCore c f).turns = s.turns := rfl
@[simp] theorem State.modCore_turn (s : State) (c : Nat) (f : Core → Core) : (s.modCore c f).turn = s.turn := rfl
@[simp] theorem State.modCore_inputs (s : State) (c : Nat) (f : Core → Core) : (s.modCore c f).inputs = s.inputs := rfl
@[simp] theorem State.modCore_agenda (s : State) (c : Nat) (f : Core → Core) : (s.modCore c f).agenda = s.agenda := rfl
@[simp] theorem State.modCore_wire (s : State) (c : Nat) (f : Core → Core) : (s.modCore c f).wire = s.wire := rfl
@[simp] theorem State.modCore_mem (s : State) (c : Nat) (f : Core → Core) : (s.modCore c f).mem = s.mem := rfl
@[simp] theorem State.modCore_metas (s : State) (c : Nat) (f : Core → Core) : (s.modCore c f).metas = s.metas := rfl
@[simp] theorem State.modCore_soft (s : State) (c : Nat) (f : Core → Core) : (s.modCore c f).soft = s.soft := rfl
@[simp] theorem State.modCore_metaBad (s : State) (c : Nat) (f : Core → Core) : (s.modCore c f).metaBad = s.metaBad := rfl
@[simp] theorem State.modCore_selfTested (s : State) (c : Nat) (f : Core → Core) : (s.modCore c f).selfTested = s.selfTested := rfl
@[simp] theorem State.modCore_granules (s : State) (c : Nat) (f : Core → Core) : (s.modCore c f).granules = s.granules := rfl
@[simp] theorem State.modCore_pins (s : State) (c : Nat) (f : Core → Core) : (s.modCore c f).pins = s.pins := rfl
@[simp] theorem State.modCore_vdevs (s : State) (c : Nat) (f : Core → Core) : (s.modCore c f).vdevs = s.vdevs := rfl
@[simp] theorem State.modCore_nodes (s : State) (c : Nat) (f : Core → Core) : (s.modCore c f).nodes = s.nodes := rfl
@[simp] theorem State.modCore_launches (s : State) (c : Nat) (f : Core → Core) : (s.modCore c f).launches = s.launches := rfl
@[simp] theorem State.modCore_nextLaunch (s : State) (c : Nat) (f : Core → Core) : (s.modCore c f).nextLaunch = s.nextLaunch := rfl
@[simp] theorem State.modCore_qps (s : State) (c : Nat) (f : Core → Core) : (s.modCore c f).qps = s.qps := rfl
@[simp] theorem State.modCore_evicted (s : State) (c : Nat) (f : Core → Core) : (s.modCore c f).evicted = s.evicted := rfl
@[simp] theorem State.modCore_migrations (s : State) (c : Nat) (f : Core → Core) : (s.modCore c f).migrations = s.migrations := rfl
@[simp] theorem State.modCore_arbiters (s : State) (c : Nat) (f : Core → Core) : (s.modCore c f).arbiters = s.arbiters := rfl
@[simp] theorem State.modCore_bloom (s : State) (c : Nat) (f : Core → Core) : (s.modCore c f).bloom = s.bloom := rfl
@[simp] theorem State.modCore_nextCmd (s : State) (c : Nat) (f : Core → Core) : (s.modCore c f).nextCmd = s.nextCmd := rfl
@[simp] theorem State.modCore_nextId (s : State) (c : Nat) (f : Core → Core) : (s.modCore c f).nextId = s.nextId := rfl
@[simp] theorem State.modCore_ridge (s : State) (c : Nat) (f : Core → Core) : (s.modCore c f).ridge = s.ridge := rfl

/-! ### setThread -/

@[simp] theorem State.setThread_now (s : State) (c i : Nat) (h : Thread) : (s.setThread c i h).now = s.now := rfl
@[simp] theorem State.setThread_turns (s : State) (c i : Nat) (h : Thread) : (s.setThread c i h).turns = s.turns := rfl
@[simp] theorem State.setThread_turn (s : State) (c i : Nat) (h : Thread) : (s.setThread c i h).turn = s.turn := rfl
@[simp] theorem State.setThread_inputs (s : State) (c i : Nat) (h : Thread) : (s.setThread c i h).inputs = s.inputs := rfl
@[simp] theorem State.setThread_agenda (s : State) (c i : Nat) (h : Thread) : (s.setThread c i h).agenda = s.agenda := rfl
@[simp] theorem State.setThread_wire (s : State) (c i : Nat) (h : Thread) : (s.setThread c i h).wire = s.wire := rfl
@[simp] theorem State.setThread_mem (s : State) (c i : Nat) (h : Thread) : (s.setThread c i h).mem = s.mem := rfl
@[simp] theorem State.setThread_metas (s : State) (c i : Nat) (h : Thread) : (s.setThread c i h).metas = s.metas := rfl
@[simp] theorem State.setThread_soft (s : State) (c i : Nat) (h : Thread) : (s.setThread c i h).soft = s.soft := rfl
@[simp] theorem State.setThread_metaBad (s : State) (c i : Nat) (h : Thread) : (s.setThread c i h).metaBad = s.metaBad := rfl
@[simp] theorem State.setThread_selfTested (s : State) (c i : Nat) (h : Thread) : (s.setThread c i h).selfTested = s.selfTested := rfl
@[simp] theorem State.setThread_granules (s : State) (c i : Nat) (h : Thread) : (s.setThread c i h).granules = s.granules := rfl
@[simp] theorem State.setThread_pins (s : State) (c i : Nat) (h : Thread) : (s.setThread c i h).pins = s.pins := rfl
@[simp] theorem State.setThread_vdevs (s : State) (c i : Nat) (h : Thread) : (s.setThread c i h).vdevs = s.vdevs := rfl
@[simp] theorem State.setThread_nodes (s : State) (c i : Nat) (h : Thread) : (s.setThread c i h).nodes = s.nodes := rfl
@[simp] theorem State.setThread_launches (s : State) (c i : Nat) (h : Thread) : (s.setThread c i h).launches = s.launches := rfl
@[simp] theorem State.setThread_nextLaunch (s : State) (c i : Nat) (h : Thread) : (s.setThread c i h).nextLaunch = s.nextLaunch := rfl
@[simp] theorem State.setThread_qps (s : State) (c i : Nat) (h : Thread) : (s.setThread c i h).qps = s.qps := rfl
@[simp] theorem State.setThread_evicted (s : State) (c i : Nat) (h : Thread) : (s.setThread c i h).evicted = s.evicted := rfl
@[simp] theorem State.setThread_migrations (s : State) (c i : Nat) (h : Thread) : (s.setThread c i h).migrations = s.migrations := rfl
@[simp] theorem State.setThread_arbiters (s : State) (c i : Nat) (h : Thread) : (s.setThread c i h).arbiters = s.arbiters := rfl
@[simp] theorem State.setThread_bloom (s : State) (c i : Nat) (h : Thread) : (s.setThread c i h).bloom = s.bloom := rfl
@[simp] theorem State.setThread_nextCmd (s : State) (c i : Nat) (h : Thread) : (s.setThread c i h).nextCmd = s.nextCmd := rfl
@[simp] theorem State.setThread_nextId (s : State) (c i : Nat) (h : Thread) : (s.setThread c i h).nextId = s.nextId := rfl
@[simp] theorem State.setThread_ridge (s : State) (c i : Nat) (h : Thread) : (s.setThread c i h).ridge = s.ridge := rfl

/-! ### modCtx -/

@[simp] theorem State.modCtx_now (s : State) (c x : Nat) (f : Context → Context) : (s.modCtx c x f).now = s.now := rfl
@[simp] theorem State.modCtx_turns (s : State) (c x : Nat) (f : Context → Context) : (s.modCtx c x f).turns = s.turns := rfl
@[simp] theorem State.modCtx_turn (s : State) (c x : Nat) (f : Context → Context) : (s.modCtx c x f).turn = s.turn := rfl
@[simp] theorem State.modCtx_inputs (s : State) (c x : Nat) (f : Context → Context) : (s.modCtx c x f).inputs = s.inputs := rfl
@[simp] theorem State.modCtx_agenda (s : State) (c x : Nat) (f : Context → Context) : (s.modCtx c x f).agenda = s.agenda := rfl
@[simp] theorem State.modCtx_wire (s : State) (c x : Nat) (f : Context → Context) : (s.modCtx c x f).wire = s.wire := rfl
@[simp] theorem State.modCtx_mem (s : State) (c x : Nat) (f : Context → Context) : (s.modCtx c x f).mem = s.mem := rfl
@[simp] theorem State.modCtx_metas (s : State) (c x : Nat) (f : Context → Context) : (s.modCtx c x f).metas = s.metas := rfl
@[simp] theorem State.modCtx_soft (s : State) (c x : Nat) (f : Context → Context) : (s.modCtx c x f).soft = s.soft := rfl
@[simp] theorem State.modCtx_metaBad (s : State) (c x : Nat) (f : Context → Context) : (s.modCtx c x f).metaBad = s.metaBad := rfl
@[simp] theorem State.modCtx_selfTested (s : State) (c x : Nat) (f : Context → Context) : (s.modCtx c x f).selfTested = s.selfTested := rfl
@[simp] theorem State.modCtx_granules (s : State) (c x : Nat) (f : Context → Context) : (s.modCtx c x f).granules = s.granules := rfl
@[simp] theorem State.modCtx_pins (s : State) (c x : Nat) (f : Context → Context) : (s.modCtx c x f).pins = s.pins := rfl
@[simp] theorem State.modCtx_vdevs (s : State) (c x : Nat) (f : Context → Context) : (s.modCtx c x f).vdevs = s.vdevs := rfl
@[simp] theorem State.modCtx_nodes (s : State) (c x : Nat) (f : Context → Context) : (s.modCtx c x f).nodes = s.nodes := rfl
@[simp] theorem State.modCtx_launches (s : State) (c x : Nat) (f : Context → Context) : (s.modCtx c x f).launches = s.launches := rfl
@[simp] theorem State.modCtx_nextLaunch (s : State) (c x : Nat) (f : Context → Context) : (s.modCtx c x f).nextLaunch = s.nextLaunch := rfl
@[simp] theorem State.modCtx_qps (s : State) (c x : Nat) (f : Context → Context) : (s.modCtx c x f).qps = s.qps := rfl
@[simp] theorem State.modCtx_evicted (s : State) (c x : Nat) (f : Context → Context) : (s.modCtx c x f).evicted = s.evicted := rfl
@[simp] theorem State.modCtx_migrations (s : State) (c x : Nat) (f : Context → Context) : (s.modCtx c x f).migrations = s.migrations := rfl
@[simp] theorem State.modCtx_arbiters (s : State) (c x : Nat) (f : Context → Context) : (s.modCtx c x f).arbiters = s.arbiters := rfl
@[simp] theorem State.modCtx_bloom (s : State) (c x : Nat) (f : Context → Context) : (s.modCtx c x f).bloom = s.bloom := rfl
@[simp] theorem State.modCtx_nextCmd (s : State) (c x : Nat) (f : Context → Context) : (s.modCtx c x f).nextCmd = s.nextCmd := rfl
@[simp] theorem State.modCtx_nextId (s : State) (c x : Nat) (f : Context → Context) : (s.modCtx c x f).nextId = s.nextId := rfl
@[simp] theorem State.modCtx_ridge (s : State) (c x : Nat) (f : Context → Context) : (s.modCtx c x f).ridge = s.ridge := rfl

/-! ### setReg -/

@[simp] theorem State.setReg_now (s : State) (c e : Nat) (v : Word) : (s.setReg c e v).now = s.now := rfl
@[simp] theorem State.setReg_turns (s : State) (c e : Nat) (v : Word) : (s.setReg c e v).turns = s.turns := rfl
@[simp] theorem State.setReg_turn (s : State) (c e : Nat) (v : Word) : (s.setReg c e v).turn = s.turn := rfl
@[simp] theorem State.setReg_inputs (s : State) (c e : Nat) (v : Word) : (s.setReg c e v).inputs = s.inputs := rfl
@[simp] theorem State.setReg_agenda (s : State) (c e : Nat) (v : Word) : (s.setReg c e v).agenda = s.agenda := rfl
@[simp] theorem State.setReg_wire (s : State) (c e : Nat) (v : Word) : (s.setReg c e v).wire = s.wire := rfl
@[simp] theorem State.setReg_mem (s : State) (c e : Nat) (v : Word) : (s.setReg c e v).mem = s.mem := rfl
@[simp] theorem State.setReg_metas (s : State) (c e : Nat) (v : Word) : (s.setReg c e v).metas = s.metas := rfl
@[simp] theorem State.setReg_soft (s : State) (c e : Nat) (v : Word) : (s.setReg c e v).soft = s.soft := rfl
@[simp] theorem State.setReg_metaBad (s : State) (c e : Nat) (v : Word) : (s.setReg c e v).metaBad = s.metaBad := rfl
@[simp] theorem State.setReg_selfTested (s : State) (c e : Nat) (v : Word) : (s.setReg c e v).selfTested = s.selfTested := rfl
@[simp] theorem State.setReg_granules (s : State) (c e : Nat) (v : Word) : (s.setReg c e v).granules = s.granules := rfl
@[simp] theorem State.setReg_pins (s : State) (c e : Nat) (v : Word) : (s.setReg c e v).pins = s.pins := rfl
@[simp] theorem State.setReg_vdevs (s : State) (c e : Nat) (v : Word) : (s.setReg c e v).vdevs = s.vdevs := rfl
@[simp] theorem State.setReg_nodes (s : State) (c e : Nat) (v : Word) : (s.setReg c e v).nodes = s.nodes := rfl
@[simp] theorem State.setReg_launches (s : State) (c e : Nat) (v : Word) : (s.setReg c e v).launches = s.launches := rfl
@[simp] theorem State.setReg_nextLaunch (s : State) (c e : Nat) (v : Word) : (s.setReg c e v).nextLaunch = s.nextLaunch := rfl
@[simp] theorem State.setReg_qps (s : State) (c e : Nat) (v : Word) : (s.setReg c e v).qps = s.qps := rfl
@[simp] theorem State.setReg_evicted (s : State) (c e : Nat) (v : Word) : (s.setReg c e v).evicted = s.evicted := rfl
@[simp] theorem State.setReg_migrations (s : State) (c e : Nat) (v : Word) : (s.setReg c e v).migrations = s.migrations := rfl
@[simp] theorem State.setReg_arbiters (s : State) (c e : Nat) (v : Word) : (s.setReg c e v).arbiters = s.arbiters := rfl
@[simp] theorem State.setReg_bloom (s : State) (c e : Nat) (v : Word) : (s.setReg c e v).bloom = s.bloom := rfl
@[simp] theorem State.setReg_nextCmd (s : State) (c e : Nat) (v : Word) : (s.setReg c e v).nextCmd = s.nextCmd := rfl
@[simp] theorem State.setReg_nextId (s : State) (c e : Nat) (v : Word) : (s.setReg c e v).nextId = s.nextId := rfl
@[simp] theorem State.setReg_ridge (s : State) (c e : Nat) (v : Word) : (s.setReg c e v).ridge = s.ridge := rfl

/-! ### setMeta -/

@[simp] theorem State.setMeta_now (s : State) (l : Nat) (m : Meta) : (s.setMeta l m).now = s.now := rfl
@[simp] theorem State.setMeta_turns (s : State) (l : Nat) (m : Meta) : (s.setMeta l m).turns = s.turns := rfl
@[simp] theorem State.setMeta_turn (s : State) (l : Nat) (m : Meta) : (s.setMeta l m).turn = s.turn := rfl
@[simp] theorem State.setMeta_inputs (s : State) (l : Nat) (m : Meta) : (s.setMeta l m).inputs = s.inputs := rfl
@[simp] theorem State.setMeta_agenda (s : State) (l : Nat) (m : Meta) : (s.setMeta l m).agenda = s.agenda := rfl
@[simp] theorem State.setMeta_wire (s : State) (l : Nat) (m : Meta) : (s.setMeta l m).wire = s.wire := rfl
@[simp] theorem State.setMeta_cores (s : State) (l : Nat) (m : Meta) : (s.setMeta l m).cores = s.cores := rfl
@[simp] theorem State.setMeta_mem (s : State) (l : Nat) (m : Meta) : (s.setMeta l m).mem = s.mem := rfl
@[simp] theorem State.setMeta_soft (s : State) (l : Nat) (m : Meta) : (s.setMeta l m).soft = s.soft := rfl
@[simp] theorem State.setMeta_metaBad (s : State) (l : Nat) (m : Meta) : (s.setMeta l m).metaBad = s.metaBad := rfl
@[simp] theorem State.setMeta_selfTested (s : State) (l : Nat) (m : Meta) : (s.setMeta l m).selfTested = s.selfTested := rfl
@[simp] theorem State.setMeta_granules (s : State) (l : Nat) (m : Meta) : (s.setMeta l m).granules = s.granules := rfl
@[simp] theorem State.setMeta_pins (s : State) (l : Nat) (m : Meta) : (s.setMeta l m).pins = s.pins := rfl
@[simp] theorem State.setMeta_vdevs (s : State) (l : Nat) (m : Meta) : (s.setMeta l m).vdevs = s.vdevs := rfl
@[simp] theorem State.setMeta_nodes (s : State) (l : Nat) (m : Meta) : (s.setMeta l m).nodes = s.nodes := rfl
@[simp] theorem State.setMeta_launches (s : State) (l : Nat) (m : Meta) : (s.setMeta l m).launches = s.launches := rfl
@[simp] theorem State.setMeta_nextLaunch (s : State) (l : Nat) (m : Meta) : (s.setMeta l m).nextLaunch = s.nextLaunch := rfl
@[simp] theorem State.setMeta_qps (s : State) (l : Nat) (m : Meta) : (s.setMeta l m).qps = s.qps := rfl
@[simp] theorem State.setMeta_evicted (s : State) (l : Nat) (m : Meta) : (s.setMeta l m).evicted = s.evicted := rfl
@[simp] theorem State.setMeta_migrations (s : State) (l : Nat) (m : Meta) : (s.setMeta l m).migrations = s.migrations := rfl
@[simp] theorem State.setMeta_arbiters (s : State) (l : Nat) (m : Meta) : (s.setMeta l m).arbiters = s.arbiters := rfl
@[simp] theorem State.setMeta_bloom (s : State) (l : Nat) (m : Meta) : (s.setMeta l m).bloom = s.bloom := rfl
@[simp] theorem State.setMeta_nextCmd (s : State) (l : Nat) (m : Meta) : (s.setMeta l m).nextCmd = s.nextCmd := rfl
@[simp] theorem State.setMeta_nextId (s : State) (l : Nat) (m : Meta) : (s.setMeta l m).nextId = s.nextId := rfl
@[simp] theorem State.setMeta_ridge (s : State) (l : Nat) (m : Meta) : (s.setMeta l m).ridge = s.ridge := rfl

/-! ### modNode -/

@[simp] theorem State.modNode_now (s : State) (n : Nat) (f : Node → Node) : (s.modNode n f).now = s.now := rfl
@[simp] theorem State.modNode_turns (s : State) (n : Nat) (f : Node → Node) : (s.modNode n f).turns = s.turns := rfl
@[simp] theorem State.modNode_turn (s : State) (n : Nat) (f : Node → Node) : (s.modNode n f).turn = s.turn := rfl
@[simp] theorem State.modNode_inputs (s : State) (n : Nat) (f : Node → Node) : (s.modNode n f).inputs = s.inputs := rfl
@[simp] theorem State.modNode_agenda (s : State) (n : Nat) (f : Node → Node) : (s.modNode n f).agenda = s.agenda := rfl
@[simp] theorem State.modNode_wire (s : State) (n : Nat) (f : Node → Node) : (s.modNode n f).wire = s.wire := rfl
@[simp] theorem State.modNode_cores (s : State) (n : Nat) (f : Node → Node) : (s.modNode n f).cores = s.cores := rfl
@[simp] theorem State.modNode_mem (s : State) (n : Nat) (f : Node → Node) : (s.modNode n f).mem = s.mem := rfl
@[simp] theorem State.modNode_metas (s : State) (n : Nat) (f : Node → Node) : (s.modNode n f).metas = s.metas := rfl
@[simp] theorem State.modNode_soft (s : State) (n : Nat) (f : Node → Node) : (s.modNode n f).soft = s.soft := rfl
@[simp] theorem State.modNode_metaBad (s : State) (n : Nat) (f : Node → Node) : (s.modNode n f).metaBad = s.metaBad := rfl
@[simp] theorem State.modNode_selfTested (s : State) (n : Nat) (f : Node → Node) : (s.modNode n f).selfTested = s.selfTested := rfl
@[simp] theorem State.modNode_granules (s : State) (n : Nat) (f : Node → Node) : (s.modNode n f).granules = s.granules := rfl
@[simp] theorem State.modNode_pins (s : State) (n : Nat) (f : Node → Node) : (s.modNode n f).pins = s.pins := rfl
@[simp] theorem State.modNode_vdevs (s : State) (n : Nat) (f : Node → Node) : (s.modNode n f).vdevs = s.vdevs := rfl
@[simp] theorem State.modNode_launches (s : State) (n : Nat) (f : Node → Node) : (s.modNode n f).launches = s.launches := rfl
@[simp] theorem State.modNode_nextLaunch (s : State) (n : Nat) (f : Node → Node) : (s.modNode n f).nextLaunch = s.nextLaunch := rfl
@[simp] theorem State.modNode_qps (s : State) (n : Nat) (f : Node → Node) : (s.modNode n f).qps = s.qps := rfl
@[simp] theorem State.modNode_evicted (s : State) (n : Nat) (f : Node → Node) : (s.modNode n f).evicted = s.evicted := rfl
@[simp] theorem State.modNode_migrations (s : State) (n : Nat) (f : Node → Node) : (s.modNode n f).migrations = s.migrations := rfl
@[simp] theorem State.modNode_arbiters (s : State) (n : Nat) (f : Node → Node) : (s.modNode n f).arbiters = s.arbiters := rfl
@[simp] theorem State.modNode_bloom (s : State) (n : Nat) (f : Node → Node) : (s.modNode n f).bloom = s.bloom := rfl
@[simp] theorem State.modNode_nextCmd (s : State) (n : Nat) (f : Node → Node) : (s.modNode n f).nextCmd = s.nextCmd := rfl
@[simp] theorem State.modNode_nextId (s : State) (n : Nat) (f : Node → Node) : (s.modNode n f).nextId = s.nextId := rfl
@[simp] theorem State.modNode_ridge (s : State) (n : Nat) (f : Node → Node) : (s.modNode n f).ridge = s.ridge := rfl

/-! ### useLeaf -/

theorem State.modOwner_frame (s : State) (c : Nat) (v : VDev) (f : Owner → Owner) :
    ∃ ns, s.modOwner c v f = { s with nodes := ns } := by
  unfold State.modOwner
  split
  · exact ⟨_, rfl⟩
  · exact ⟨s.nodes, rfl⟩

theorem State.correct_frame (s : State) (pl : Nat) : ∃ cs ls, s.correct pl = { s with cores := cs, soft := ls } := by
  unfold State.correct
  dsimp only
  split
  · exact ⟨s.cores, s.soft, rfl⟩
  · exact ⟨_, _, rfl⟩

/-- What a walk changes beside what it answers: counters of correctable errors and of DRAM bytes. -/
theorem State.walked_frame (s : State) (c : Nat) (v : VDev) (ga : Nat) :
    ∃ cs ls ns, s.walked c v ga = { s with cores := cs, soft := ls, nodes := ns } := by
  unfold State.walked
  split
  · next d _ =>
    generalize walkLines s c ga 6 0 d.root = l
    clear * -
    induction l generalizing s with
    | nil => exact ⟨s.cores, s.soft, s.nodes, rfl⟩
    | cons pl rest ih =>
      simp only [List.foldl_cons]
      obtain ⟨cs, ls, ns, h⟩ := ih ((if (s.sliceFind pl).isSome then s else s.dram c v 64).correct pl)
      rw [h]
      split
      · obtain ⟨cs', ls', h'⟩ := s.correct_frame pl
        rw [h']
        exact ⟨_, _, _, rfl⟩
      · obtain ⟨cs', ls', h'⟩ := (s.dram c v 64).correct_frame pl
        obtain ⟨ns', h2⟩ := s.modOwner_frame c v (fun o => { o with dramBytes := o.dramBytes + BitVec.ofNat 64 64 })
        rw [h', show s.dram c v 64 = _ from h2]
        exact ⟨_, _, _, rfl⟩
  · exact ⟨s.cores, s.soft, s.nodes, rfl⟩

/-- What the use of a leaf changes: its core's cache, and what a walk counts. -/
theorem State.useLeaf_frame (s : State) (c : Nat) (l : Leaf) :
    ∃ cs ls ns, s.useLeaf c l = { s with cores := cs, soft := ls, nodes := ns } := by
  unfold State.useLeaf
  split
  · exact ⟨_, s.soft, s.nodes, rfl⟩
  · obtain ⟨cs, ls, ns, h⟩ := s.walked_frame c l.vdev l.ga
    rw [h]
    exact ⟨_, _, _, rfl⟩

@[simp] theorem State.useLeaf_now (s : State) (c : Nat) (l : Leaf) : (s.useLeaf c l).now = s.now := by
  obtain ⟨_, _, _, h⟩ := s.useLeaf_frame c l
  rw [h]
@[simp] theorem State.useLeaf_turns (s : State) (c : Nat) (l : Leaf) : (s.useLeaf c l).turns = s.turns := by
  obtain ⟨_, _, _, h⟩ := s.useLeaf_frame c l
  rw [h]
@[simp] theorem State.useLeaf_turn (s : State) (c : Nat) (l : Leaf) : (s.useLeaf c l).turn = s.turn := by
  obtain ⟨_, _, _, h⟩ := s.useLeaf_frame c l
  rw [h]
@[simp] theorem State.useLeaf_inputs (s : State) (c : Nat) (l : Leaf) : (s.useLeaf c l).inputs = s.inputs := by
  obtain ⟨_, _, _, h⟩ := s.useLeaf_frame c l
  rw [h]
@[simp] theorem State.useLeaf_agenda (s : State) (c : Nat) (l : Leaf) : (s.useLeaf c l).agenda = s.agenda := by
  obtain ⟨_, _, _, h⟩ := s.useLeaf_frame c l
  rw [h]
@[simp] theorem State.useLeaf_wire (s : State) (c : Nat) (l : Leaf) : (s.useLeaf c l).wire = s.wire := by
  obtain ⟨_, _, _, h⟩ := s.useLeaf_frame c l
  rw [h]
@[simp] theorem State.useLeaf_mem (s : State) (c : Nat) (l : Leaf) : (s.useLeaf c l).mem = s.mem := by
  obtain ⟨_, _, _, h⟩ := s.useLeaf_frame c l
  rw [h]
@[simp] theorem State.useLeaf_metas (s : State) (c : Nat) (l : Leaf) : (s.useLeaf c l).metas = s.metas := by
  obtain ⟨_, _, _, h⟩ := s.useLeaf_frame c l
  rw [h]
@[simp] theorem State.useLeaf_metaBad (s : State) (c : Nat) (l : Leaf) : (s.useLeaf c l).metaBad = s.metaBad := by
  obtain ⟨_, _, _, h⟩ := s.useLeaf_frame c l
  rw [h]
@[simp] theorem State.useLeaf_selfTested (s : State) (c : Nat) (l : Leaf) : (s.useLeaf c l).selfTested = s.selfTested := by
  obtain ⟨_, _, _, h⟩ := s.useLeaf_frame c l
  rw [h]
@[simp] theorem State.useLeaf_granules (s : State) (c : Nat) (l : Leaf) : (s.useLeaf c l).granules = s.granules := by
  obtain ⟨_, _, _, h⟩ := s.useLeaf_frame c l
  rw [h]
@[simp] theorem State.useLeaf_pins (s : State) (c : Nat) (l : Leaf) : (s.useLeaf c l).pins = s.pins := by
  obtain ⟨_, _, _, h⟩ := s.useLeaf_frame c l
  rw [h]
@[simp] theorem State.useLeaf_vdevs (s : State) (c : Nat) (l : Leaf) : (s.useLeaf c l).vdevs = s.vdevs := by
  obtain ⟨_, _, _, h⟩ := s.useLeaf_frame c l
  rw [h]
@[simp] theorem State.useLeaf_launches (s : State) (c : Nat) (l : Leaf) : (s.useLeaf c l).launches = s.launches := by
  obtain ⟨_, _, _, h⟩ := s.useLeaf_frame c l
  rw [h]
@[simp] theorem State.useLeaf_nextLaunch (s : State) (c : Nat) (l : Leaf) : (s.useLeaf c l).nextLaunch = s.nextLaunch := by
  obtain ⟨_, _, _, h⟩ := s.useLeaf_frame c l
  rw [h]
@[simp] theorem State.useLeaf_qps (s : State) (c : Nat) (l : Leaf) : (s.useLeaf c l).qps = s.qps := by
  obtain ⟨_, _, _, h⟩ := s.useLeaf_frame c l
  rw [h]
@[simp] theorem State.useLeaf_evicted (s : State) (c : Nat) (l : Leaf) : (s.useLeaf c l).evicted = s.evicted := by
  obtain ⟨_, _, _, h⟩ := s.useLeaf_frame c l
  rw [h]
@[simp] theorem State.useLeaf_migrations (s : State) (c : Nat) (l : Leaf) : (s.useLeaf c l).migrations = s.migrations := by
  obtain ⟨_, _, _, h⟩ := s.useLeaf_frame c l
  rw [h]
@[simp] theorem State.useLeaf_arbiters (s : State) (c : Nat) (l : Leaf) : (s.useLeaf c l).arbiters = s.arbiters := by
  obtain ⟨_, _, _, h⟩ := s.useLeaf_frame c l
  rw [h]
@[simp] theorem State.useLeaf_bloom (s : State) (c : Nat) (l : Leaf) : (s.useLeaf c l).bloom = s.bloom := by
  obtain ⟨_, _, _, h⟩ := s.useLeaf_frame c l
  rw [h]
@[simp] theorem State.useLeaf_nextCmd (s : State) (c : Nat) (l : Leaf) : (s.useLeaf c l).nextCmd = s.nextCmd := by
  obtain ⟨_, _, _, h⟩ := s.useLeaf_frame c l
  rw [h]
@[simp] theorem State.useLeaf_nextId (s : State) (c : Nat) (l : Leaf) : (s.useLeaf c l).nextId = s.nextId := by
  obtain ⟨_, _, _, h⟩ := s.useLeaf_frame c l
  rw [h]
@[simp] theorem State.useLeaf_ridge (s : State) (c : Nat) (l : Leaf) : (s.useLeaf c l).ridge = s.ridge := by
  obtain ⟨_, _, _, h⟩ := s.useLeaf_frame c l
  rw [h]

/-! ### plbUse -/

@[simp] theorem State.plbUse_now (s : State) (c x d : Nat) : (s.plbUse c x d).now = s.now := rfl
@[simp] theorem State.plbUse_turns (s : State) (c x d : Nat) : (s.plbUse c x d).turns = s.turns := rfl
@[simp] theorem State.plbUse_turn (s : State) (c x d : Nat) : (s.plbUse c x d).turn = s.turn := rfl
@[simp] theorem State.plbUse_inputs (s : State) (c x d : Nat) : (s.plbUse c x d).inputs = s.inputs := rfl
@[simp] theorem State.plbUse_agenda (s : State) (c x d : Nat) : (s.plbUse c x d).agenda = s.agenda := rfl
@[simp] theorem State.plbUse_wire (s : State) (c x d : Nat) : (s.plbUse c x d).wire = s.wire := rfl
@[simp] theorem State.plbUse_mem (s : State) (c x d : Nat) : (s.plbUse c x d).mem = s.mem := rfl
@[simp] theorem State.plbUse_metas (s : State) (c x d : Nat) : (s.plbUse c x d).metas = s.metas := rfl
@[simp] theorem State.plbUse_soft (s : State) (c x d : Nat) : (s.plbUse c x d).soft = s.soft := rfl
@[simp] theorem State.plbUse_metaBad (s : State) (c x d : Nat) : (s.plbUse c x d).metaBad = s.metaBad := rfl
@[simp] theorem State.plbUse_selfTested (s : State) (c x d : Nat) : (s.plbUse c x d).selfTested = s.selfTested := rfl
@[simp] theorem State.plbUse_granules (s : State) (c x d : Nat) : (s.plbUse c x d).granules = s.granules := rfl
@[simp] theorem State.plbUse_pins (s : State) (c x d : Nat) : (s.plbUse c x d).pins = s.pins := rfl
@[simp] theorem State.plbUse_vdevs (s : State) (c x d : Nat) : (s.plbUse c x d).vdevs = s.vdevs := rfl
@[simp] theorem State.plbUse_nodes (s : State) (c x d : Nat) : (s.plbUse c x d).nodes = s.nodes := rfl
@[simp] theorem State.plbUse_launches (s : State) (c x d : Nat) : (s.plbUse c x d).launches = s.launches := rfl
@[simp] theorem State.plbUse_nextLaunch (s : State) (c x d : Nat) : (s.plbUse c x d).nextLaunch = s.nextLaunch := rfl
@[simp] theorem State.plbUse_qps (s : State) (c x d : Nat) : (s.plbUse c x d).qps = s.qps := rfl
@[simp] theorem State.plbUse_evicted (s : State) (c x d : Nat) : (s.plbUse c x d).evicted = s.evicted := rfl
@[simp] theorem State.plbUse_migrations (s : State) (c x d : Nat) : (s.plbUse c x d).migrations = s.migrations := rfl
@[simp] theorem State.plbUse_arbiters (s : State) (c x d : Nat) : (s.plbUse c x d).arbiters = s.arbiters := rfl
@[simp] theorem State.plbUse_bloom (s : State) (c x d : Nat) : (s.plbUse c x d).bloom = s.bloom := rfl
@[simp] theorem State.plbUse_nextCmd (s : State) (c x d : Nat) : (s.plbUse c x d).nextCmd = s.nextCmd := rfl
@[simp] theorem State.plbUse_nextId (s : State) (c x d : Nat) : (s.plbUse c x d).nextId = s.nextId := rfl
@[simp] theorem State.plbUse_ridge (s : State) (c x d : Nat) : (s.plbUse c x d).ridge = s.ridge := rfl

/-! ### setEntry -/

@[simp] theorem State.setEntry_now (s : State) (c i : Nat) (e : Entry) : (s.setEntry c i e).now = s.now := rfl
@[simp] theorem State.setEntry_turns (s : State) (c i : Nat) (e : Entry) : (s.setEntry c i e).turns = s.turns := rfl
@[simp] theorem State.setEntry_turn (s : State) (c i : Nat) (e : Entry) : (s.setEntry c i e).turn = s.turn := rfl
@[simp] theorem State.setEntry_inputs (s : State) (c i : Nat) (e : Entry) : (s.setEntry c i e).inputs = s.inputs := rfl
@[simp] theorem State.setEntry_agenda (s : State) (c i : Nat) (e : Entry) : (s.setEntry c i e).agenda = s.agenda := rfl
@[simp] theorem State.setEntry_wire (s : State) (c i : Nat) (e : Entry) : (s.setEntry c i e).wire = s.wire := rfl
@[simp] theorem State.setEntry_mem (s : State) (c i : Nat) (e : Entry) : (s.setEntry c i e).mem = s.mem := rfl
@[simp] theorem State.setEntry_metas (s : State) (c i : Nat) (e : Entry) : (s.setEntry c i e).metas = s.metas := rfl
@[simp] theorem State.setEntry_soft (s : State) (c i : Nat) (e : Entry) : (s.setEntry c i e).soft = s.soft := rfl
@[simp] theorem State.setEntry_metaBad (s : State) (c i : Nat) (e : Entry) : (s.setEntry c i e).metaBad = s.metaBad := rfl
@[simp] theorem State.setEntry_selfTested (s : State) (c i : Nat) (e : Entry) : (s.setEntry c i e).selfTested = s.selfTested := rfl
@[simp] theorem State.setEntry_granules (s : State) (c i : Nat) (e : Entry) : (s.setEntry c i e).granules = s.granules := rfl
@[simp] theorem State.setEntry_pins (s : State) (c i : Nat) (e : Entry) : (s.setEntry c i e).pins = s.pins := rfl
@[simp] theorem State.setEntry_vdevs (s : State) (c i : Nat) (e : Entry) : (s.setEntry c i e).vdevs = s.vdevs := rfl
@[simp] theorem State.setEntry_nodes (s : State) (c i : Nat) (e : Entry) : (s.setEntry c i e).nodes = s.nodes := rfl
@[simp] theorem State.setEntry_launches (s : State) (c i : Nat) (e : Entry) : (s.setEntry c i e).launches = s.launches := rfl
@[simp] theorem State.setEntry_nextLaunch (s : State) (c i : Nat) (e : Entry) : (s.setEntry c i e).nextLaunch = s.nextLaunch := rfl
@[simp] theorem State.setEntry_qps (s : State) (c i : Nat) (e : Entry) : (s.setEntry c i e).qps = s.qps := rfl
@[simp] theorem State.setEntry_evicted (s : State) (c i : Nat) (e : Entry) : (s.setEntry c i e).evicted = s.evicted := rfl
@[simp] theorem State.setEntry_migrations (s : State) (c i : Nat) (e : Entry) : (s.setEntry c i e).migrations = s.migrations := rfl
@[simp] theorem State.setEntry_arbiters (s : State) (c i : Nat) (e : Entry) : (s.setEntry c i e).arbiters = s.arbiters := rfl
@[simp] theorem State.setEntry_bloom (s : State) (c i : Nat) (e : Entry) : (s.setEntry c i e).bloom = s.bloom := rfl
@[simp] theorem State.setEntry_nextCmd (s : State) (c i : Nat) (e : Entry) : (s.setEntry c i e).nextCmd = s.nextCmd := rfl
@[simp] theorem State.setEntry_nextId (s : State) (c i : Nat) (e : Entry) : (s.setEntry c i e).nextId = s.nextId := rfl
@[simp] theorem State.setEntry_ridge (s : State) (c i : Nat) (e : Entry) : (s.setEntry c i e).ridge = s.ridge := rfl

/-! ### riddleFree -/

@[simp] theorem State.riddleFree_now (s : State) (c : Nat) : (s.riddleFree c).now = s.now := rfl
@[simp] theorem State.riddleFree_turns (s : State) (c : Nat) : (s.riddleFree c).turns = s.turns := rfl
@[simp] theorem State.riddleFree_turn (s : State) (c : Nat) : (s.riddleFree c).turn = s.turn := rfl
@[simp] theorem State.riddleFree_inputs (s : State) (c : Nat) : (s.riddleFree c).inputs = s.inputs := rfl
@[simp] theorem State.riddleFree_agenda (s : State) (c : Nat) : (s.riddleFree c).agenda = s.agenda := rfl
@[simp] theorem State.riddleFree_wire (s : State) (c : Nat) : (s.riddleFree c).wire = s.wire := rfl
@[simp] theorem State.riddleFree_mem (s : State) (c : Nat) : (s.riddleFree c).mem = s.mem := rfl
@[simp] theorem State.riddleFree_metas (s : State) (c : Nat) : (s.riddleFree c).metas = s.metas := rfl
@[simp] theorem State.riddleFree_soft (s : State) (c : Nat) : (s.riddleFree c).soft = s.soft := rfl
@[simp] theorem State.riddleFree_metaBad (s : State) (c : Nat) : (s.riddleFree c).metaBad = s.metaBad := rfl
@[simp] theorem State.riddleFree_selfTested (s : State) (c : Nat) : (s.riddleFree c).selfTested = s.selfTested := rfl
@[simp] theorem State.riddleFree_granules (s : State) (c : Nat) : (s.riddleFree c).granules = s.granules := rfl
@[simp] theorem State.riddleFree_pins (s : State) (c : Nat) : (s.riddleFree c).pins = s.pins := rfl
@[simp] theorem State.riddleFree_vdevs (s : State) (c : Nat) : (s.riddleFree c).vdevs = s.vdevs := rfl
@[simp] theorem State.riddleFree_nodes (s : State) (c : Nat) : (s.riddleFree c).nodes = s.nodes := rfl
@[simp] theorem State.riddleFree_launches (s : State) (c : Nat) : (s.riddleFree c).launches = s.launches := rfl
@[simp] theorem State.riddleFree_nextLaunch (s : State) (c : Nat) : (s.riddleFree c).nextLaunch = s.nextLaunch := rfl
@[simp] theorem State.riddleFree_qps (s : State) (c : Nat) : (s.riddleFree c).qps = s.qps := rfl
@[simp] theorem State.riddleFree_evicted (s : State) (c : Nat) : (s.riddleFree c).evicted = s.evicted := rfl
@[simp] theorem State.riddleFree_migrations (s : State) (c : Nat) : (s.riddleFree c).migrations = s.migrations := rfl
@[simp] theorem State.riddleFree_arbiters (s : State) (c : Nat) : (s.riddleFree c).arbiters = s.arbiters := rfl
@[simp] theorem State.riddleFree_bloom (s : State) (c : Nat) : (s.riddleFree c).bloom = s.bloom := rfl
@[simp] theorem State.riddleFree_nextCmd (s : State) (c : Nat) : (s.riddleFree c).nextCmd = s.nextCmd := rfl
@[simp] theorem State.riddleFree_nextId (s : State) (c : Nat) : (s.riddleFree c).nextId = s.nextId := rfl
@[simp] theorem State.riddleFree_ridge (s : State) (c : Nat) : (s.riddleFree c).ridge = s.ridge := rfl

/-! ### putWord -/

@[simp] theorem State.putWord_now (s : State) (pa : Nat) (v : Word) : (s.putWord pa v).now = s.now := rfl
@[simp] theorem State.putWord_turns (s : State) (pa : Nat) (v : Word) : (s.putWord pa v).turns = s.turns := rfl
@[simp] theorem State.putWord_turn (s : State) (pa : Nat) (v : Word) : (s.putWord pa v).turn = s.turn := rfl
@[simp] theorem State.putWord_inputs (s : State) (pa : Nat) (v : Word) : (s.putWord pa v).inputs = s.inputs := rfl
@[simp] theorem State.putWord_agenda (s : State) (pa : Nat) (v : Word) : (s.putWord pa v).agenda = s.agenda := rfl
@[simp] theorem State.putWord_wire (s : State) (pa : Nat) (v : Word) : (s.putWord pa v).wire = s.wire := rfl
@[simp] theorem State.putWord_cores (s : State) (pa : Nat) (v : Word) : (s.putWord pa v).cores = s.cores := rfl
@[simp] theorem State.putWord_metas (s : State) (pa : Nat) (v : Word) : (s.putWord pa v).metas = s.metas := rfl
@[simp] theorem State.putWord_soft (s : State) (pa : Nat) (v : Word) : (s.putWord pa v).soft = s.soft := rfl
@[simp] theorem State.putWord_metaBad (s : State) (pa : Nat) (v : Word) : (s.putWord pa v).metaBad = s.metaBad := rfl
@[simp] theorem State.putWord_selfTested (s : State) (pa : Nat) (v : Word) : (s.putWord pa v).selfTested = s.selfTested := rfl
@[simp] theorem State.putWord_granules (s : State) (pa : Nat) (v : Word) : (s.putWord pa v).granules = s.granules := rfl
@[simp] theorem State.putWord_pins (s : State) (pa : Nat) (v : Word) : (s.putWord pa v).pins = s.pins := rfl
@[simp] theorem State.putWord_vdevs (s : State) (pa : Nat) (v : Word) : (s.putWord pa v).vdevs = s.vdevs := rfl
@[simp] theorem State.putWord_nodes (s : State) (pa : Nat) (v : Word) : (s.putWord pa v).nodes = s.nodes := rfl
@[simp] theorem State.putWord_launches (s : State) (pa : Nat) (v : Word) : (s.putWord pa v).launches = s.launches := rfl
@[simp] theorem State.putWord_nextLaunch (s : State) (pa : Nat) (v : Word) : (s.putWord pa v).nextLaunch = s.nextLaunch := rfl
@[simp] theorem State.putWord_qps (s : State) (pa : Nat) (v : Word) : (s.putWord pa v).qps = s.qps := rfl
@[simp] theorem State.putWord_evicted (s : State) (pa : Nat) (v : Word) : (s.putWord pa v).evicted = s.evicted := rfl
@[simp] theorem State.putWord_migrations (s : State) (pa : Nat) (v : Word) : (s.putWord pa v).migrations = s.migrations := rfl
@[simp] theorem State.putWord_arbiters (s : State) (pa : Nat) (v : Word) : (s.putWord pa v).arbiters = s.arbiters := rfl
@[simp] theorem State.putWord_bloom (s : State) (pa : Nat) (v : Word) : (s.putWord pa v).bloom = s.bloom := rfl
@[simp] theorem State.putWord_nextCmd (s : State) (pa : Nat) (v : Word) : (s.putWord pa v).nextCmd = s.nextCmd := rfl
@[simp] theorem State.putWord_nextId (s : State) (pa : Nat) (v : Word) : (s.putWord pa v).nextId = s.nextId := rfl
@[simp] theorem State.putWord_ridge (s : State) (pa : Nat) (v : Word) : (s.putWord pa v).ridge = s.ridge := rfl


/-! ## Cores, threads and registers -/

@[simp] theorem State.core_setCore_same (s : State) (c : Nat) (k : Core) : (s.setCore c k).core c = k := by
  simp [State.core, State.setCore]

theorem State.core_setCore_other (s : State) {c d : Nat} (k : Core) (h : d ≠ c) : (s.setCore c k).core d = s.core d := by
  simp [State.core, State.setCore, Tbl.get_put_other _ _ _ h]

@[simp] theorem State.core_modCore_same (s : State) (c : Nat) (f : Core → Core) : (s.modCore c f).core c = f (s.core c) := by
  simp [State.modCore]

theorem State.core_modCore_other (s : State) {c d : Nat} (f : Core → Core) (h : d ≠ c) :
    (s.modCore c f).core d = s.core d := by
  simp [State.modCore, State.core_setCore_other _ _ h]

@[simp] theorem State.setCore_setCore (s : State) (c : Nat) (k k' : Core) :
    (s.setCore c k).setCore c k' = s.setCore c k' := by
  simp [State.setCore]

@[simp] theorem State.modCore_modCore (s : State) (c : Nat) (f g : Core → Core) :
    (s.modCore c f).modCore c g = s.modCore c (fun k => g (f k)) := by
  simp [State.modCore]

@[simp] theorem State.core_setThread_same (s : State) (c i : Nat) (h : Thread) :
    (s.setThread c i h).core c = { s.core c with slots := (s.core c).slots.put i h } := by
  simp [State.setThread]

theorem State.core_setThread_other (s : State) {c d : Nat} (i : Nat) (h : Thread) (hd : d ≠ c) :
    (s.setThread c i h).core d = s.core d := by
  simp [State.setThread, State.core_modCore_other _ _ hd]

@[simp] theorem State.thread?_setThread_same (s : State) (c i : Nat) (h : Thread) :
    (s.setThread c i h).thread? c i = some h := by
  simp [State.thread?]

theorem State.thread?_setThread_slot (s : State) {c i j : Nat} (h : Thread) (hj : j ≠ i) :
    (s.setThread c i h).thread? c j = s.thread? c j := by
  simp [State.thread?, Tbl.find?_put_other _ _ hj]

theorem State.thread?_setThread_core (s : State) {c d : Nat} (i j : Nat) (h : Thread) (hd : d ≠ c) :
    (s.setThread c i h).thread? d j = s.thread? d j := by
  simp [State.thread?, State.core_setThread_other _ _ _ hd]

@[simp] theorem State.setThread_setThread (s : State) (c i : Nat) (h h' : Thread) :
    (s.setThread c i h).setThread c i h' = s.setThread c i h' := by
  simp [State.setThread]

@[simp] theorem State.reg_setThread (s : State) (c i d e : Nat) (h : Thread) :
    (s.setThread c i h).reg d e = s.reg d e := by
  by_cases hd : d = c
  · subst hd
    simp [State.reg]
  · simp [State.reg, State.core_setThread_other _ _ _ hd]

@[simp] theorem State.reg_setReg_same (s : State) (c e : Nat) (v : Word) : (s.setReg c e v).reg c e = v := by
  simp [State.reg, State.setReg]

theorem State.reg_setReg_other (s : State) {c e f : Nat} (v : Word) (h : f ≠ e) :
    (s.setReg c e v).reg c f = s.reg c f := by
  simp [State.reg, State.setReg, Tbl.get_put_other _ _ _ h]

theorem State.reg_setReg_core (s : State) {c d : Nat} (e f : Nat) (v : Word) (h : d ≠ c) :
    (s.setReg c e v).reg d f = s.reg d f := by
  simp [State.reg, State.setReg, State.core_modCore_other _ _ h]

@[simp] theorem State.thread?_setReg (s : State) (c e d i : Nat) (v : Word) :
    (s.setReg c e v).thread? d i = s.thread? d i := by
  by_cases hd : d = c
  · subst hd
    simp [State.thread?, State.setReg]
  · simp [State.thread?, State.setReg, State.core_modCore_other _ _ hd]

theorem State.modThread_some {s : State} {c i : Nat} {h : Thread} (f : Thread → Thread) (hh : s.thread? c i = some h) :
    s.modThread c i f = s.setThread c i (f h) := by
  simp [State.modThread, hh]

theorem State.modThread_none {s : State} {c i : Nat} (f : Thread → Thread) (hh : s.thread? c i = none) :
    s.modThread c i f = s := by
  simp [State.modThread, hh]

@[simp] theorem State.modThread_mem (s : State) (c i : Nat) (f : Thread → Thread) : (s.modThread c i f).mem = s.mem := by
  unfold State.modThread
  split <;> rfl

@[simp] theorem State.modThread_turn (s : State) (c i : Nat) (f : Thread → Thread) : (s.modThread c i f).turn = s.turn := by
  unfold State.modThread
  split <;> rfl

/-- A register write and a change of a thread of the same core commute. -/
theorem State.setThread_setReg (s : State) (c i e : Nat) (h : Thread) (v : Word) :
    (s.setReg c e v).setThread c i h = (s.setThread c i h).setReg c e v := by
  simp [State.setThread, State.setReg]

end Sys2Proof.Machine
end

