-- ==== Sys2Proof/Laws/Run.lean ====
section
/-! SUPPORT. How a step's body runs: the step monad, what the running thread reads and writes, and what the end of a body
makes of the state. -/

namespace Sys2Proof.Machine

/-! ## The step monad -/

/-- A part that is performed hands its value and its state on. -/
theorem run_bind_ok {α β : Type} {x : Act α} {f : α → Act β} {s s' : State} {a : α} (h : x.run s = .ok (a, s')) :
    (x >>= f).run s = (f a).run s' := by
  show (StateT.bind x f) s = _
  have h' : x s = .ok (a, s') := h
  simp only [StateT.bind, h']
  rfl

/-- A part that stops, stops the whole. -/
theorem run_bind_error {α β : Type} {x : Act α} {f : α → Act β} {s : State} {e : Stop} (h : x.run s = .error e) :
    (x >>= f).run s = .error e := by
  show (StateT.bind x f) s = _
  have h' : x s = .error e := h
  simp only [StateT.bind, h']
  rfl

/-- What a sequence that is performed did: its first part was performed, and then its second. -/
theorem run_bind_inv {α β : Type} {x : Act α} {f : α → Act β} {s s' : State} {b : β}
    (h : (x >>= f).run s = .ok (b, s')) : ∃ a s1, x.run s = .ok (a, s1) ∧ (f a).run s1 = .ok (b, s') := by
  cases hx : x.run s with
  | error e =>
    rw [run_bind_error hx] at h
    cases h
  | ok p =>
    rw [run_bind_ok (a := p.1) (s' := p.2) hx] at h
    exact ⟨p.1, p.2, rfl, h⟩

@[simp] theorem run_pure {α : Type} (a : α) (s : State) : (pure a : Act α).run s = .ok (a, s) := rfl
@[simp] theorem run_get (s : State) : (get : Act State).run s = .ok (s, s) := rfl
@[simp] theorem run_modify (f : State → State) (s : State) : (modify f : Act Unit).run s = .ok ((), f s) := rfl
@[simp] theorem run_throw {α : Type} (e : Stop) (s : State) : (throw e : Act α).run s = .error e := rfl
@[simp] theorem run_raise {α : Type} (c : Nat) (a b d : Word) (l : List Log) (s : State) :
    (raise c a b d l : Act α).run s = .error (.trap ⟨c, a, b, d⟩ l) := rfl
@[simp] theorem run_waitTurn {α : Type} (s : State) : (waitTurn : Act α).run s = .error (.wait .quiet) := rfl
@[simp] theorem run_waitIrq {α : Type} (s : State) : (waitIrq : Act α).run s = .error (.wait .irq) := rfl

@[simp] theorem run_bind_pure {α β : Type} (a : α) (f : α → Act β) (s : State) :
    ((pure a : Act α) >>= f).run s = (f a).run s := rfl
@[simp] theorem run_bind_get {β : Type} (f : State → Act β) (s : State) :
    ((get : Act State) >>= f).run s = (f s).run s := rfl
@[simp] theorem run_bind_modify {β : Type} (g : State → State) (f : Unit → Act β) (s : State) :
    ((modify g : Act Unit) >>= f).run s = (f ()).run (g s) := rfl

/-! ## The running thread -/

theorem Running.setThread {s : State} {t : Turn} {h : Thread} (r : Running s t h) (h' : Thread) :
    Running (s.setThread t.core t.slot h') t h' :=
  ⟨r.turn, State.thread?_setThread_same .., r.clean⟩

variable {s : State} {t : Turn} {h : Thread}

theorem run_me (r : s.turn = some t) : me.run s = .ok ((t.core, t.slot), s) := by
  unfold me
  simp only [run_bind_get, r, run_pure]

theorem run_thr (r : Running s t h) : thr.run s = .ok (h, s) := by
  unfold thr
  rw [run_bind_ok (run_me r.turn)]
  simp only [run_bind_get, r.thread, run_pure]

theorem run_modThr (r : Running s t h) (f : Thread → Thread) :
    (modThr f).run s = .ok ((), s.setThread t.core t.slot (f h)) := by
  unfold modThr
  rw [run_bind_ok (run_me r.turn)]
  simp only [run_modify, State.modThread_some f r.thread]

theorem run_nextPc (r : s.turn = some t) : nextPc.run s = .ok (t.next, s) := by
  unfold nextPc
  simp only [run_bind_get, r, run_pure]

theorem run_goto (r : s.turn = some t) (pc : Pc) :
    (goto pc).run s = .ok ((), { s with turn := some { t with next := pc } }) := by
  unfold goto
  simp only [run_modify, r, Option.map_some]

theorem run_onRiddle (r : s.turn = some t) : onRiddle.run s = .ok (t.slot == 63, s) := by
  unfold onRiddle
  rw [run_bind_ok (run_me r)]
  rfl

theorem run_orFlags (r : Running s t h) (f : Flags) :
    (orFlags f).run s = .ok ((), s.setThread t.core t.slot { h with flags := h.flags ||| f }) := by
  unfold orFlags
  exact run_modThr r _

theorem run_rdP (r : Running s t h) (p : BitVec 4) : (rdP p).run s = .ok (h.pred p, s) := by
  unfold rdP
  rw [run_bind_ok (run_thr r)]
  rfl

theorem run_wrP (r : Running s t h) (p : BitVec 4) (b : Bool) :
    (wrP p b).run s = .ok ((), s.setThread t.core t.slot (h.setPred p b)) := by
  unfold wrP
  exact run_modThr r _

/-! ## Registers -/

theorem run_rd (r : Running s t h) {q : Reg} {v : Word} (hr : s.reads t.core h q v) : (rd q).run s = .ok (v, s) := by
  unfold rd
  rw [run_bind_ok (run_me r.turn)]
  dsimp only
  rw [run_bind_ok (run_thr r)]
  cases q with
  | x n =>
    obtain ⟨_, hp, he, hv⟩ := hr
    dsimp only
    unfold rdX
    rw [run_bind_ok (run_me r.turn)]
    dsimp only
    rw [run_bind_ok (run_thr r), run_bind_get]
    have hp' : ((s.core t.core).regPoison.contains (h.base + n.toNat)) = false := by simpa using hp
    have he' : ((s.core t.core).regSoft.contains (h.base + n.toNat)) = false := by simpa using he
    simp only [hp', he', Bool.false_eq_true, if_false, hv]
    rfl
  | zr =>
    subst hr
    rfl
  | h n =>
    obtain ⟨_, hv⟩ := hr
    subst hv
    rfl
  | port d => exact hr.elim
  | mbx => exact hr.elim

theorem run_wr (r : Running s t h) {q : Reg} (hq : h.takes q) (v : Word) :
    (wr q v).run s = .ok ((), s.put t.core h q v) := by
  unfold wr
  rw [run_bind_ok (run_me r.turn)]
  dsimp only
  cases q with
  | x n =>
    dsimp only
    unfold wrX
    rw [run_bind_ok (run_me r.turn)]
    dsimp only
    rw [run_bind_ok (run_thr r)]
    rfl
  | zr => rfl
  | h n => rfl
  | port d => exact hq.elim
  | mbx => exact hq.elim

/-- Reading a source is not changed by a write to a thread's own record. -/
theorem State.reads_setThread {c i d : Nat} {h h' : Thread} {q : Reg} {v : Word} (hr : s.reads d h q v) :
    (s.setThread c i h').reads d h q v := by
  by_cases hd : d = c
  · subst hd
    cases q <;> simp [State.reads] at hr ⊢ <;> exact hr
  · cases q <;> simp [State.reads, State.core_setThread_other _ _ _ hd] at hr ⊢ <;> exact hr

/-! ## Fields -/

theorem takes_of_reads {c : Nat} {q : Reg} {v : Word} (hr : s.reads c h q v) : h.takes q := by
  cases q <;> simp_all [State.reads, Thread.takes]

/-- Fields of registers that a thread has pass without effect (R106, R203). -/
theorem run_checkFields (r : Running s t h) {fs : List Fld} (hf : ∀ f ∈ fs, h.field f) :
    (checkFields fs).run s = .ok ((), s) := by
  have hw : firstSome (fs.map (Fld.window? h.size)) = none := by
    induction fs with
    | nil => rfl
    | cons f fs ih =>
      have h1 : Fld.window? h.size f = none := by
        have := hf f (List.mem_cons_self ..)
        cases f with
        | group q n =>
          obtain ⟨k, rfl, hk⟩ := this
          simp only [Fld.window?]
          rw [if_neg (by omega)]
        | num v b => rfl
        | win q =>
          obtain ⟨k, rfl, hk⟩ := this
          simp only [Fld.window?]
          rw [if_neg (by omega)]
        | _ q =>
          cases q <;> simp_all [Thread.field, Thread.takes, Fld.window?]
      simpa [firstSome, h1] using ih (fun f hm => hf f (List.mem_cons_of_mem _ hm))
  have hb : firstSome (fs.map (s.fieldBad t.core t.slot h)) = none := by
    clear hw
    induction fs with
    | nil => rfl
    | cons f fs ih =>
      have h1 : s.fieldBad t.core t.slot h f = none := by
        have := hf f (List.mem_cons_self ..)
        cases f with
        | group q n =>
          obtain ⟨k, rfl, hk⟩ := this
          rfl
        | num v b =>
          have hv : v < b := this
          simp only [State.fieldBad]
          rw [if_neg (by omega)]
        | win q =>
          obtain ⟨k, rfl, hk⟩ := this
          rfl
        | _ q =>
          cases q <;> simp_all [Thread.field, Thread.takes, State.fieldBad]
      simpa [firstSome, h1] using ih (fun f hm => hf f (List.mem_cons_of_mem _ hm))
  have hio : fs.any Fld.io = false := by
    clear hw hb
    rw [List.any_eq_false]
    intro f hm
    have := hf f hm
    clear hf hm
    cases f with
    | group q n =>
      obtain ⟨k, rfl, hk⟩ := this
      simp [Fld.io, Fld.reg?]
    | num v b => simp [Fld.io, Fld.reg?]
    | win q =>
      obtain ⟨k, rfl, hk⟩ := this
      simp [Fld.io, Fld.reg?]
    | _ q =>
      cases q <;> simp_all [Thread.field, Thread.takes, Fld.io, Fld.reg?]
  unfold checkFields
  rw [run_bind_ok (run_me r.turn)]
  dsimp only
  rw [run_bind_ok (run_thr r), run_bind_get]
  simp only [hw, hb, hio]
  rfl

/-! ## What the end of a body makes of the state -/

/-- A false guard only takes the turn (R58). -/
theorem runInstr_skip (r : Running s t h) {g : Guard} (hg : h.guard g = false) (body : Act Done) :
    runInstr g body s = .next ((s.readied t h).retire t) := by
  simp [runInstr, r.turn, r.thread, hg, State.readied]

/-- A body that goes on to the next instruction. -/
theorem runNext_ok (r : Running s t h) {g : Guard} (hg : h.guard g = true) {body : Act Unit} {s' : State}
    (hb : body.run (s.readied t h) = .ok ((), s')) (hc : s'.turn.bind Turn.poison = none) :
    runNext g body s = .next (s'.retire (s'.turn.getD t)) := by
  have : (do body; return Done.next : Act Done).run (s.readied t h)
      = .ok (.next, s') := by rw [run_bind_ok hb]; rfl
  unfold runNext runInstr
  simp only [r.turn, r.thread, hg, if_true]
  rw [show s.setThread t.core t.slot { h with status := .ready, issued := none } = s.readied t h from rfl, this]
  simp only [State.finish, hc]

/-- A body that traps takes the exception and leaves no other effect. -/
theorem runInstr_trap (r : Running s t h) {g : Guard} (hg : h.guard g = true) {body : Act Done} {tr : Trap}
    {logs : List Log}
    (hb : body.run (s.readied t h) = .error (.trap tr logs)) :
    runInstr g body s =
      .next ((s.readied t h).takeTrap t.core t.slot tr logs) := by
  unfold runInstr
  simp only [r.turn, r.thread, hg, if_true]
  rw [show s.setThread t.core t.slot { h with status := .ready, issued := none } = s.readied t h from rfl, hb]
  rfl

theorem runNext_trap (r : Running s t h) {g : Guard} (hg : h.guard g = true) {body : Act Unit} {tr : Trap}
    {logs : List Log}
    (hb : body.run (s.readied t h) = .error (.trap tr logs)) :
    runNext g body s =
      .next ((s.readied t h).takeTrap t.core t.slot tr logs) :=
  runInstr_trap r hg (run_bind_error hb)

/-- A body that waits leaves the thread to issue again, or to go on with what stood at its turn (R53). -/
theorem runInstr_wait (r : Running s t h) {g : Guard} (hg : h.guard g = true) {body : Act Done} {w : WaitOn}
    (hb : body.run (s.readied t h) = .error (.wait w)) :
    runInstr g body s =
      .next (s.setThread t.core t.slot { h with status := .poll w, issued := if w.issued then some t.at_ else none }) := by
  unfold runInstr
  simp only [r.turn, r.thread, hg, if_true]
  rw [show s.setThread t.core t.slot { h with status := .ready, issued := none } = s.readied t h from rfl, hb]
  simp [State.finish, State.pollAgain, State.modThread, State.readied, r.turn]

/-- A body whose chunk has to commit first asks for its commit, and issues again (R144). -/
theorem runInstr_close (r : Running s t h) {g : Guard} (hg : h.guard g = true) {body : Act Done}
    (hb : body.run (s.readied t h) = .error .close) :
    runInstr g body s = .next ((s.readied t h).closeChunk t.core t.slot) := by
  unfold runInstr
  simp only [r.turn, r.thread, hg, if_true]
  rw [show s.setThread t.core t.slot { h with status := .ready, issued := none } = s.readied t h from rfl, hb]
  rfl

/-- A body that ends its chunk has issued, and waits while the chunk's other instructions commit (R145). -/
theorem runInstr_commit (r : Running s t h) {g : Guard} (hg : h.guard g = true) {body : Act Done}
    (hb : body.run (s.readied t h) = .error .commit) :
    runInstr g body s = .next ((s.readied t h).awaitCommit t.core t.slot) := by
  unfold runInstr
  simp only [r.turn, r.thread, hg, if_true]
  rw [show s.setThread t.core t.slot { h with status := .ready, issued := none } = s.readied t h from rfl, hb]
  rfl

end Sys2Proof.Machine
end

