-- ==== Sys2Proof/Laws/Results.lean ====
section
/-! SUPPORT. One lemma per shape of a register instruction: what it answers where its operands are a window register, `zr`
or a handler's `h0`-`h7`. -/

namespace Sys2Proof.Machine

variable {s : State} {t : Turn} {h : Thread} {g : Guard}

/-! ## The state in which a body runs -/

theorem Running.readied (r : Running s t h) : Running (s.readied t h) t { h with status := .ready, issued := none } := r.setThread _

theorem reads_readied {c : Nat} {q : Reg} {v : Word} (hr : s.reads c h q v) :
    (s.readied t h).reads c { h with status := .ready, issued := none } q v := by
  have := State.reads_setThread (c := t.core) (i := t.slot) (h' := { h with status := .ready, issued := none }) hr
  cases q <;> exact this

@[simp] theorem takes_status (w : Status) (a : Option AtIssue) (q : Reg) :
    ({ h with status := w, issued := a } : Thread).takes q ↔ h.takes q := by
  cases q <;> rfl

@[simp] theorem takes_flags (f : Flags) (q : Reg) : ({ h with flags := f } : Thread).takes q ↔ h.takes q := by
  cases q <;> rfl

@[simp] theorem put_status (w : Status) (a : Option AtIssue) (c : Nat) (q : Reg) (v : Word) :
    s.put c { h with status := w, issued := a } q v = s.put c h q v := by
  cases q <;> rfl

@[simp] theorem put_flags (f : Flags) (c : Nat) (q : Reg) (v : Word) :
    s.put c { h with flags := f } q v = s.put c h q v := by
  cases q <;> rfl

@[simp] theorem put_turn (c : Nat) (q : Reg) (v : Word) : (s.put c h q v).turn = s.turn := by
  cases q <;> rfl

@[simp] theorem put_mem (c : Nat) (q : Reg) (v : Word) : (s.put c h q v).mem = s.mem := by
  cases q <;> rfl

@[simp] theorem thread?_put (c : Nat) (q : Reg) (v : Word) (d i : Nat) :
    (s.put c h q v).thread? d i = s.thread? d i := by
  cases q with
  | h n =>
    by_cases hd : d = c
    · subst hd
      simp [State.put, State.thread?]
    · simp [State.put, State.thread?, State.core_modCore_other _ _ hd]
  | _ => simp [State.put]

theorem setThread_put (c i : Nat) (h' : Thread) (q : Reg) (v : Word) :
    (s.put c h q v).setThread c i h' = (s.setThread c i h').put c h q v := by
  cases q <;> simp [State.put, State.setThread_setReg]
  simp [State.setThread]

theorem Running.put (r : Running s t h) (q : Reg) (v : Word) : Running (s.put t.core h q v) t h :=
  ⟨by simpa using r.turn, by simpa using r.thread, r.clean⟩

/-! ## Shapes -/

/-- A body that ORs flags and then writes its destination. -/
theorem run_orFlags_wr (r : Running s t h) {d : Reg} (hd : h.takes d) (v : Word) (f : Flags) :
    (do orFlags f; wr d v).run s =
      .ok ((), (s.setThread t.core t.slot { h with flags := h.flags ||| f }).put t.core h d v) := by
  rw [run_bind_ok (run_orFlags r f)]
  rw [run_wr (r.setThread _) (by simpa using hd)]
  simp

theorem result_of_flagged {d : Reg} (v : Word) (f : Flags) (n : Nat) (r : s.turn = some t) :
    (((s.setThread t.core t.slot (h.flagged f n)).put t.core h d v).retire
      (((s.setThread t.core t.slot (h.flagged f n)).put t.core h d v).turn.getD t)) = s.result t h d v f n := by
  simp [State.result, r]

/-- Two sources, a destination and flags (R291). -/
theorem op2_ok (r : Running s t h) (hg : h.guard g = true) {d a b : Reg} {x y : Word} (hd : h.takes d)
    (ha : s.reads t.core h a x) (hb : s.reads t.core h b y) (f : Word → Word → Word × Flags) :
    op2 g d a b f s = .next (s.result t h d (f x y).1 (f x y).2) := by
  unfold op2
  rw [runNext_ok r hg (s' := (s.setThread t.core t.slot (h.flagged (f x y).2 0)).put t.core h d (f x y).1)]
  · rw [result_of_flagged _ _ _ r.turn]
  · rw [run_bind_ok (run_checkFields r.readied (by
      simp [Thread.field, hd, takes_of_reads ha, takes_of_reads hb]))]
    rw [run_bind_ok (run_rd r.readied (reads_readied ha)), run_bind_ok (run_rd r.readied (reads_readied hb))]
    dsimp only
    rw [run_orFlags_wr r.readied (by simpa using hd)]
    simp [State.readied, Thread.flagged]
  · simp [r.turn, r.clean]

/-- One source, a destination and flags (R291). -/
theorem op1_ok (r : Running s t h) (hg : h.guard g = true) {d a : Reg} {x : Word} (hd : h.takes d)
    (ha : s.reads t.core h a x) (f : Word → Word × Flags) :
    op1 g d a f s = .next (s.result t h d (f x).1 (f x).2) := by
  unfold op1
  rw [runNext_ok r hg (s' := (s.setThread t.core t.slot (h.flagged (f x).2 0)).put t.core h d (f x).1)]
  · rw [result_of_flagged _ _ _ r.turn]
  · rw [run_bind_ok (run_checkFields r.readied (by simp [Thread.field, hd, takes_of_reads ha]))]
    rw [run_bind_ok (run_rd r.readied (reads_readied ha))]
    dsimp only
    rw [run_orFlags_wr r.readied (by simpa using hd)]
    simp [State.readied, Thread.flagged]
  · simp [r.turn, r.clean]

end Sys2Proof.Machine
end

