-- ==== Sys2Proof/Tests/Slice0.lean ====
section
/-! SUPPORT. Tests: ill-formed terms, words written out from the spec's encodings, single steps with results taken from the
spec's own examples and tables, and for every statement a state and operands that meet its hypotheses. -/

set_option Elab.async false

namespace Sys2Proof.Tests

open Sys2Proof.Machine

/-- No guard. -/
def g0 : Guard := ⟨false, 0⟩

/-! ## Ill-formed terms -/

/-- The guard 0b1000 (R98). -/
theorem test_never_guard_ill_formed : (Instr.nop ⟨true, 0⟩).wellFormed = false := by decide

/-- Odd branch offsets (R108). -/
theorem test_odd_offset_ill_formed :
    (Instr.br g0 3).wellFormed = false ∧ (Instr.brl g0 (.x 1) (-1)).wellFormed = false ∧
      (Instr.loop g0 (.x 1) 5).wellFormed = false := by decide

/-- An integer to integer conversion that names a rounding mode (R323). -/
theorem test_integer_conversion_rounding_ill_formed :
    (Instr.fcvt g0 (.x 1) (.x 2) ⟨.rz, false⟩ .i8 .i64).wellFormed = false ∧
      (Instr.fcvt g0 (.x 1) (.x 2) ⟨.ne, true⟩ .i8 .i64).wellFormed = true := by decide

/-- Format overrides above 11 (R109). -/
theorem test_format_override_ill_formed :
    (Instr.ld g0 (.x 1) (.x 2) ⟨12, false⟩ 255 0).wellFormed = false ∧
      (Instr.st g0 (.x 1) (.x 2) ⟨15, false⟩ 255 0).wellFormed = false ∧
      (Instr.landst g0 (.x 1) (.x 2) ⟨13, true⟩ 255 0).wellFormed = false ∧
      (Instr.ld g0 (.x 1) (.x 2) ⟨11, false⟩ 255 0).wellFormed = true := by decide

/-- An ALT that names no alternative (R114). -/
theorem test_empty_alternatives_ill_formed : (Instr.alt g0 (.x 1) 0 false).wellFormed = false := by decide

/-! ## Words -/

/-- A line with one instruction holds it at its first head. -/
def reads (head : Nat) (tail : List Byte) (i : Instr) : Bool := lineAt (lineOf head tail) 0 == .ins i

/-! ## A small state -/

/-- The 64 KiB page at 0x10000 of device 1, in domain 1. -/
def leaf : Leaf := ⟨1, 0x10000, 4, 0x10000, 1⟩

/-- A thread of device 1 whose window is the file entries 16 to 47. -/
def thread : Thread :=
  let t := { Thread.blank with id := 1, vdev := 1, launch := 1, base := 16, size := 32, pc := 0x10000 }
  { t with chunk := Chunk.fresh t (List.replicate 32 0) }

/-- A context of device 1 with energy. -/
def ctx : Context := { Context.fresh 1 16 with ebud := 1000000000 }

/-- A core that runs one thread, its registers x0, x1, … at `ws`. -/
def core (ws : List Word) (h : Thread) : Core :=
  { Core.reset with
    slots := [(0, h)], regs := ((List.range ws.length).zip ws).map (fun p => (16 + p.1, p.2)), ctxs := [(0, ctx)]
    tasks := [(0, Task.fresh 0 0 0)], mtc := [leaf] }

/-- One owner, device 1. -/
def owner : Owner := Owner.fresh (OwnerEntry.plain 1) 0

/-- The whole module as a partition of device 1. -/
def node : Node := { Node.free with st := .part, owners := [owner] }

/-- The turn of the states below: nothing taken before, and what their task and context hold. -/
def turn : Turn := ⟨0, 0, 0x10004, [], none, ⟨0, 64, 32, 0, 4096, none, 0, none⟩⟩

/-- A state around a core 0. -/
def around (k : Core) : State :=
  { State.reset with
    turn := some turn, cores := [(0, k)], vdevs := [(1, ⟨0x200000, [(1, 7)], []⟩)]
    granules := (List.range 16).map (fun n => (16 + n, ⟨1, true, false⟩)), nodes := [(1, node)] }

/-- The thread of slot 0 of core 0 holds the turn. -/
def state (ws : List Word) (h : Thread := thread) : State := around (core ws h)

/-- Such a state, its core changed. -/
def withCore (f : Core → Core) (ws : List Word := []) (h : Thread := thread) : State := around (f (core ws h))

/-- The instruction completes in a state with `p`. -/
def runs (i : Instr) (s : State) (p : State → Bool) : Bool :=
  match exec i s with
  | .next u => p u
  | _ => false

/-- The instruction completes with `v` in x4 and with the flags `f`. -/
def gives (i : Instr) (ws : List Word) (v : Word) (f : Flags := 0) : Bool :=
  runs i (state ws) (fun u => u.reg 0 20 == v && (u.thread? 0 0).map Thread.flags == some f)

/-- A run of a body that ends well, with `p` of its value and its state. -/
def okAnd {α : Type} (r : Except Stop (α × State)) (p : α → State → Bool) : Bool :=
  match r with
  | .ok (a, s) => p a s
  | .error _ => false

/-- `Running` as a test. -/
def running (s : State) (t : Turn) (h : Thread) : Bool :=
  s.turn == some t && s.thread? t.core t.slot == some h && t.poison == none

theorem running_iff {s : State} {t : Turn} {h : Thread} :
    Running s t h ↔ s.turn = some t ∧ s.thread? t.core t.slot = some h ∧ t.poison = none :=
  ⟨fun a => ⟨a.turn, a.thread, a.clean⟩, fun a => ⟨a.1, a.2.1, a.2.2⟩⟩

/-- `State.reads` on core 0 as a test. -/
def rd (s : State) (h : Thread) (r : Reg) (v : Word) : Bool :=
  match r with
  | .x n => decide (n.toNat < h.size) && !(s.core 0).regPoison.contains (h.base + n.toNat) &&
    !(s.core 0).regSoft.contains (h.base + n.toNat) && v == s.reg 0 (h.base + n.toNat)
  | .zr => v == 0
  | .h n => h.handler && v == (s.core 0).shadow.h.getD n.toNat 0
  | .port _ | .mbx => false

theorem rd_iff {s : State} {h : Thread} {r : Reg} {v : Word} : rd s h r v = true ↔ s.reads 0 h r v := by
  cases r <;> simp [rd, State.reads, and_assoc]

/-- The turn is still the thread's: `Running` holds of the state for the thread that slot 0 of core 0 then holds. -/
def stays (s : State) : Bool := s.turn == some turn && (s.thread? 0 0).isSome

/-- A running thread without a guard whose chunk has read and written nothing. -/
def ready (s : State) (h : Thread) : Bool := running s turn h && h.guard g0 && h.chunk.quiet

/-- A stash entry of line 0x400 (address 0x10000) that holds the byte 5, written, and zeros. -/
def entry (priv : Bool) (st : EntrySt) (excl : Bool) : Entry :=
  ⟨0x400, 0, priv, st, excl, 5 :: List.replicate 63 0, 0xFF, 3 :: List.replicate 63 0, 1, Reuse.new 0 (some 64) 0 0 false, none,
    false, [], none⟩

/-- F0, F2, I2, F4, J4, J6 and C4 of the control and system group (R108, R111, R114). -/
theorem test_words_control_1 : ([
    (0x0080, [], .nop g0),
    (0x0120, [0xF4, 0xFF, 0xFF, 0xFF], .br g0 (-12)),
    (0x01B0, [0x16, 0, 2, 0, 0, 0], .brl g0 (.x 22) 2),
    (0x0210, [0x16, 0], .jmp g0 (.x 22)),
    (0x02A0, [1, 0x16, 0, 0], .jmpl g0 (.x 1) (.x 22)),
    (0x0330, [3, 0, 0xF8, 0xFF, 0xFF, 0xFF], .loop g0 (.x 3) (-8)),
    (0x0380, [], .chunk g0),
    (0x0410, [0, 6], .fence g0 .module),
    (0x0480, [], .ifence g0),
    (0x0520, [0, 4, 5, 0], .flushi g0 (.x 4) (.x 5)),
    (0x0590, [1, 2], .trap g0 0x201),
    (0x0600, [], .uret g0)] : List (Nat × List Byte × Instr)).all (fun p => reads p.1 p.2.1 p.2.2) = true := by
  decide +kernel

/-- F0, F2, I2, F4, J4, J6 and C4 of the control and system group (R108, R111, R114). -/
theorem test_words_control_2 : ([
    (0x0680, [], .eret g0),
    (0x0700, [], .exit g0),
    (0x0780, [], .taskend g0),
    (0x0800, [], .yield g0),
    (0x0890, [9, 1], .haltd g0 (.x 9) true),
    (0x0910, [1, 2], .tick g0 0x201),
    (0x0990, [0, 1], .level g0 true),
    (0x0A20, [4, 0, 0x12, 0], .csrr g0 (.x 4) 0x012),
    (0x0AA0, [0, 4, 0x0C, 0], .csrw g0 (.x 4) 0x00C),
    (0x0B20, [0, 4, 6, 1], .csrs g0 (.x 4) 0x106),
    (0x0BA0, [0, 4, 0, 0], .csrc g0 (.x 4) 0),
    (0x0C20, [0, 4, 5, 0], .plbw g0 (.x 4) (.x 5))] : List (Nat × List Byte × Instr)).all (fun p => reads p.1 p.2.1 p.2.2) = true := by
  decide +kernel

/-- F0, F2, I2, F4, J4, J6 and C4 of the control and system group (R108, R111, R114). -/
theorem test_words_control_3 : ([
    (0x0C90, [8, 0], .pinc g0 (.x 8)),
    (0x0D10, [8, 0], .pdec g0 (.x 8))] : List (Nat × List Byte × Instr)).all (fun p => reads p.1 p.2.1 p.2.2) = true := by
  decide +kernel

/-- The integer register group: F4 (R108, R109, R114). -/
theorem test_words_integer_1 : ([
    (0x2020, [4, 5, 6, 8], .add g0 (.x 4) (.x 5) (.x 6) true),
    (0x20A0, [4, 5, 6, 8], .sub g0 (.x 4) (.x 5) (.x 6) true),
    (0x2120, [4, 5, 6, 8], .mul g0 (.x 4) (.x 5) (.x 6) true),
    (0x21A0, [4, 5, 6, 0], .mulh g0 (.x 4) (.x 5) (.x 6)),
    (0x2220, [4, 5, 6, 0], .mulhu g0 (.x 4) (.x 5) (.x 6)),
    (0x22A0, [4, 5, 6, 0], .div g0 (.x 4) (.x 5) (.x 6)),
    (0x2320, [4, 5, 6, 0], .divu g0 (.x 4) (.x 5) (.x 6)),
    (0x23A0, [4, 5, 6, 0], .rem g0 (.x 4) (.x 5) (.x 6)),
    (0x2420, [4, 5, 6, 0], .remu g0 (.x 4) (.x 5) (.x 6)),
    (0x24A0, [4, 5, 6, 0], .and g0 (.x 4) (.x 5) (.x 6)),
    (0x2520, [4, 5, 6, 0], .or g0 (.x 4) (.x 5) (.x 6)),
    (0x25A0, [4, 5, 6, 0], .xor g0 (.x 4) (.x 5) (.x 6))] : List (Nat × List Byte × Instr)).all (fun p => reads p.1 p.2.1 p.2.2) = true := by
  decide +kernel

/-- The integer register group: F4 (R108, R109, R114). -/
theorem test_words_integer_2 : ([
    (0x2620, [4, 5, 6, 0], .andn g0 (.x 4) (.x 5) (.x 6)),
    (0x26A0, [4, 5, 6, 0], .shl g0 (.x 4) (.x 5) (.x 6)),
    (0x2720, [4, 5, 6, 0], .shr g0 (.x 4) (.x 5) (.x 6)),
    (0x27A0, [4, 5, 6, 0], .sar g0 (.x 4) (.x 5) (.x 6)),
    (0x2820, [4, 5, 6, 0], .rol g0 (.x 4) (.x 5) (.x 6)),
    (0x28A0, [4, 5, 6, 0], .ror g0 (.x 4) (.x 5) (.x 6)),
    (0x2920, [4, 5, 6, 0], .min g0 (.x 4) (.x 5) (.x 6)),
    (0x29A0, [4, 5, 6, 0], .max g0 (.x 4) (.x 5) (.x 6)),
    (0x2A20, [4, 5, 6, 0], .minu g0 (.x 4) (.x 5) (.x 6)),
    (0x2AA0, [4, 5, 6, 0], .maxu g0 (.x 4) (.x 5) (.x 6)),
    (0x2B20, [4, 5, 0, 8], .neg g0 (.x 4) (.x 5) true),
    (0x2BA0, [4, 5, 0, 0], .abs g0 (.x 4) (.x 5) false)] : List (Nat × List Byte × Instr)).all (fun p => reads p.1 p.2.1 p.2.2) = true := by
  decide +kernel

/-- The integer register group: F4 (R108, R109, R114). -/
theorem test_words_integer_3 : ([
    (0x2C20, [4, 5, 0, 0], .clz g0 (.x 4) (.x 5)),
    (0x2CA0, [4, 5, 0, 0], .popc g0 (.x 4) (.x 5)),
    (0x2D20, [6, 4, 5, 2], .sel g0 (.x 6) 2 (.x 4) (.x 5)),
    (0x2DA0, [2, 4, 5, 9], .cmp g0 2 .geu (.x 4) (.x 5)),
    (0x2E20, [0x12, 0x0C, 0, 0], .mov g0 (.x 18) (.x 12)),
    (0x2EA0, [3, 1, 4, 0], .pand g0 3 1 4),
    (0x2F20, [3, 1, 4, 0], .por g0 3 1 4),
    (0x2FA0, [3, 1, 4, 0], .pxor g0 3 1 4),
    (0x3020, [9, 0, 0, 0], .pnot g0 9 0),
    (0x30A0, [9, 0x0F, 0, 0], .pmov g0 9 15)] : List (Nat × List Byte × Instr)).all (fun p => reads p.1 p.2.1 p.2.2) = true := by
  decide +kernel

/-- The integer immediate and address group: I8 and F4 (R108, R114). -/
theorem test_words_immediate_1 : ([
    (0x4040, [4, 5, 8, 0, 0x10, 0x32, 0x54, 0x76], .addi g0 (.x 4) (.x 5) 0x76543210 true),
    (0x40C0, [4, 5, 0, 0, 0x10, 0x32, 0x54, 0x76], .andi g0 (.x 4) (.x 5) 0x76543210),
    (0x4140, [4, 5, 0, 0, 0x10, 0x32, 0x54, 0x76], .ori g0 (.x 4) (.x 5) 0x76543210),
    (0x41C0, [0x0F, 0x0F, 0, 0, 0x3F, 0, 0, 0], .xori g0 (.x 15) (.x 15) 63),
    (0x4240, [4, 5, 0, 0, 0x3F, 0, 0, 0], .shli g0 (.x 4) (.x 5) 63),
    (0x42C0, [0x16, 0x14, 0, 0, 0x10, 0, 0, 0], .shri g0 (.x 22) (.x 20) 16),
    (0x4340, [4, 5, 0, 0, 1, 0, 0, 0], .sari g0 (.x 4) (.x 5) 1),
    (0x43C0, [3, 5, 4, 0, 0x10, 0x32, 0x54, 0x76], .cmpi g0 3 .gt (.x 5) 0x76543210),
    (0x4440, [0x14, 0, 0, 0, 0xFF, 0xFF, 0, 0], .movi g0 (.x 20) 0xFFFF),
    (0x44C0, [5, 0, 0, 0, 0x10, 0, 0, 0], .movhi g0 (.x 5) 0x10),
    (0x4520, [4, 5, 6, 0], .paddReg g0 (.x 4) (.x 5) (.x 6)),
    (0x4540, [4, 5, 0, 0, 0x10, 0x32, 0x54, 0x76], .paddImm g0 (.x 4) (.x 5) 0x76543210)] : List (Nat × List Byte × Instr)).all (fun p => reads p.1 p.2.1 p.2.2) = true := by
  decide +kernel

/-- The integer immediate and address group: I8 and F4 (R108, R114). -/
theorem test_words_immediate_2 : ([
    (0x45C0, [9, 8, 0, 0, 6, 0x0A, 0, 0], .pfmt g0 (.x 9) (.x 8) 6 10),
    (0x4620, [4, 9, 0, 0], .ptag g0 (.x 4) (.x 9)),
    (0x46A0, [2, 0x0C, 0, 0], .contid g0 (.x 2) 12)] : List (Nat × List Byte × Instr)).all (fun p => reads p.1 p.2.1 p.2.2) = true := by
  decide +kernel

/-- The float and block group (R109, R114, R115). -/
theorem test_words_float_1 : ([
    (0x6020, [4, 5, 6, 0x21], .fadd g0 (.x 4) (.x 5) (.x 6) ⟨.rz, false, .bf16⟩),
    (0x60A0, [4, 5, 6, 0x1A], .fsub g0 (.x 4) (.x 5) (.x 6) ⟨.ru, true, .fp32⟩),
    (0x6120, [4, 5, 6, 0x33], .fmul g0 (.x 4) (.x 5) (.x 6) ⟨.rd, false, .fp16⟩),
    (0x61A0, [4, 5, 6, 0], .fdiv g0 (.x 4) (.x 5) (.x 6) ⟨.ne, false, .fp32⟩),
    (0x6220, [4, 5, 0, 0x28], .fsqrt g0 (.x 4) (.x 5) ⟨.ne, true, .bf16⟩),
    (0x62B0, [4, 5, 6, 7, 0, 0], .fma g0 (.x 4) (.x 5) (.x 6) (.x 7) ⟨.ne, false, .fp32⟩),
    (0x6330, [4, 5, 6, 7, 0x19, 0], .fpma g0 (.x 4) (.x 5) (.x 6) (.x 7) ⟨.rz, true⟩),
    (0x63A0, [4, 5, 6, 0x20], .fmin g0 (.x 4) (.x 5) (.x 6) .bf16),
    (0x6420, [4, 5, 6, 0x30], .fmax g0 (.x 4) (.x 5) (.x 6) .fp16),
    (0x64A0, [4, 5, 0, 0x30], .fabs g0 (.x 4) (.x 5) .fp16),
    (0x6520, [4, 5, 0, 0x20], .fneg g0 (.x 4) (.x 5) .bf16),
    (0x65A0, [3, 5, 6, 0x32], .fcmp g0 3 .lt .fp16 (.x 5) (.x 6))] : List (Nat × List Byte × Instr)).all (fun p => reads p.1 p.2.1 p.2.2) = true := by
  decide +kernel

/-- The float and block group (R109, R114, R115). -/
theorem test_words_float_2 : ([
    (0x6630, [4, 5, 0, 0, 2, 0x41], .fcvt g0 (.x 4) (.x 5) ⟨.ru, false⟩ .e4m3 .fp32),
    (0x66A0, [4, 5, 0, 0x20], .fclass g0 (.x 4) (.x 5) .bf16),
    (0x6720, [4, 5, 6, 3], .bdot g0 (.x 4) (.x 5) (.x 6) ⟨.rd, false⟩),
    (0x67A0, [4, 5, 0, 0x21], .bdq g0 (.x 4) (.x 5) ⟨.rz, false, .bf16⟩),
    (0x6820, [4, 5, 0, 4], .bqnt g0 (.x 4) (.x 5) 4),
    (0x68A0, [8, 5, 6, 0x30], .vargmax g0 (.x 8) (.x 5) (.x 6) .fp16),
    (0x6920, [6, 5, 7, 0x30], .vperm g0 (.x 6) (.x 5) (.x 7) .fp16),
    (0x69A0, [4, 5, 0xE5, 0], .vsum g0 (.x 4) (.x 5) .zr ⟨.ne, false, .fp32⟩)] : List (Nat × List Byte × Instr)).all (fun p => reads p.1 p.2.1 p.2.2) = true := by
  decide +kernel

/-- The memory group: M6 and F4 (R108, R109, R114). -/
theorem test_words_memory : ([
    (0x8030, [4, 5, 0x1A, 7, 0xF8, 0xFF], .ld g0 (.x 4) (.x 5) ⟨10, true⟩ 7 (-8)),
    (0x80B0, [4, 5, 1, 0xFF, 8, 0], .st g0 (.x 4) (.x 5) ⟨1, false⟩ 255 8),
    (0x8130, [4, 5, 0, 7, 0x10, 0], .ldp g0 (.x 4) (.x 5) 7 16),
    (0x81B0, [4, 5, 0, 7, 0x10, 0], .stp g0 (.x 4) (.x 5) 7 16),
    (0x8230, [0, 5, 0, 7, 0x40, 0], .pref g0 (.x 5) 7 64),
    (0x82B0, [6, 5, 0x40, 7, 0, 0], .smap g0 (.x 5) (.x 6) .core 7),
    (0x8320, [0, 5, 6, 7], .swb g0 (.x 5) (.x 6) .sys),
    (0x83A0, [0, 5, 6, 0], .sdrop g0 (.x 5) (.x 6))] : List (Nat × List Byte × Instr)).all (fun p => reads p.1 p.2.1 p.2.2) = true := by
  decide +kernel

/-- The atomic and sync group: A6, M6 and F4 (R108, R114). -/
theorem test_words_atomic_1 : ([
    (0xA030, [4, 5, 6, 0, 0xF0, 0xFF], .aadd g0 (.x 4) (.x 5) (.x 6) (-16)),
    (0xA0B0, [4, 5, 6, 0, 0xF0, 0xFF], .aaddc g0 (.x 4) (.x 5) (.x 6) (-16)),
    (0xA130, [4, 5, 6, 0, 0xF0, 0xFF], .aand g0 (.x 4) (.x 5) (.x 6) (-16)),
    (0xA1B0, [4, 5, 6, 0, 0xF0, 0xFF], .aor g0 (.x 4) (.x 5) (.x 6) (-16)),
    (0xA230, [4, 5, 6, 0, 0xF0, 0xFF], .axor g0 (.x 4) (.x 5) (.x 6) (-16)),
    (0xA2B0, [4, 5, 6, 0, 0xF0, 0xFF], .amin g0 (.x 4) (.x 5) (.x 6) (-16)),
    (0xA330, [4, 5, 6, 0, 0xF0, 0xFF], .amax g0 (.x 4) (.x 5) (.x 6) (-16)),
    (0xA3B0, [4, 5, 6, 0, 0xF0, 0xFF], .aswap g0 (.x 4) (.x 5) (.x 6) (-16)),
    (0xA430, [4, 5, 6, 0, 0xF0, 0xFF], .acas g0 (.x 4) (.x 5) (.x 6) (-16)),
    (0xA4B0, [4, 5, 0, 7, 8, 0], .lds g0 (.x 4) (.x 5) 7 8),
    (0xA530, [4, 5, 0, 7, 8, 0], .sts g0 (.x 4) (.x 5) 7 8),
    (0xA5B0, [4, 5, 0, 7, 8, 0], .ldf g0 (.x 4) (.x 5) 7 8)] : List (Nat × List Byte × Instr)).all (fun p => reads p.1 p.2.1 p.2.2) = true := by
  decide +kernel

/-- The atomic and sync group: A6, M6 and F4 (R108, R114). -/
theorem test_words_atomic_2 : ([
    (0xA630, [0, 5, 0, 7, 8, 0], .fec g0 (.x 5) 7 8),
    (0xA6B0, [0, 5, 0, 7, 8, 0], .fef g0 (.x 5) 7 8),
    (0xA720, [2, 5, 0, 0], .join g0 2 (.x 5))] : List (Nat × List Byte × Instr)).all (fun p => reads p.1 p.2.1 p.2.2) = true := by
  decide +kernel

/-- Threads, messages, channels and copies (R108, R112, R114). -/
theorem test_words_thread_1 : ([
    (0xC020, [2, 5, 6, 0], .spawn g0 2 (.x 5) (.x 6)),
    (0xC090, [8, 0], .post g0 (.x 8)),
    (0xC110, [8, 0], .hop g0 (.x 8)),
    (0xC180, [], .susp g0),
    (0xC220, [0, 5, 6, 7], .send g0 (.x 5) (.x 6) 7),
    (0xC280, [], .waitm g0),
    (0xC310, [8, 0], .mbxpop g0 (.x 8)),
    (0xC3A0, [4, 0, 0, 0x91], .alt g0 (.x 4) 0x11 true),
    (0xC420, [0x0F, 5, 6, 0], .chopen g0 15 (.x 5) (.x 6)),
    (0xC4A0, [3, 5, 0, 0], .chgrant g0 3 (.x 5)),
    (0xC520, [3, 5, 0, 0], .chsend g0 3 (.x 5)),
    (0xC5A0, [4, 3, 0, 0], .chrecv g0 (.x 4) 3)] : List (Nat × List Byte × Instr)).all (fun p => reads p.1 p.2.1 p.2.2) = true := by
  decide +kernel

/-- Threads, messages, channels and copies (R108, R112, R114). -/
theorem test_words_thread_2 : ([
    (0xC610, [3, 0], .chclose g0 3),
    (0xC6D0, [8, 0, 0, 0, 0x0A, 7, 0, 0, 0, 0, 0, 0], .cpyq g0 (.x 8) 2 true 7),
    (0xC720, [4, 5, 0, 0], .cpyst g0 (.x 4) (.x 5)),
    (0xC790, [5, 0], .cpycan g0 (.x 5)),
    (0xC820, [0, 5, 6, 0], .waitc g0 (.x 5) (.x 6)),
    (0xC8B0, [4, 5, 0x11, 0xFF, 4, 0], .landst g0 (.x 4) (.x 5) ⟨1, true⟩ 255 4),
    (0xC900, [], .landend g0)] : List (Nat × List Byte × Instr)).all (fun p => reads p.1 p.2.1 p.2.2) = true := by
  decide +kernel

/-- Matrix, walk, forest and Gaussian: K12, K16 and F2 (R112, R114). -/
theorem test_words_engine : ([
    (0xE050, [8, 0, 0xFF, 2, 0x85, 7, 0, 0, 0, 0, 0, 0], .mma g0 (.x 8) ⟨0xFF, 2, 1, true, .int8, 7⟩),
    (0xE0D0, [8, 0, 0, 0, 0x20, 0xFF, 0, 0, 0, 0, 0, 0], .mmr g0 (.x 8) ⟨0, 0, 0, false, .bf16, 255⟩),
    (0xE150, [8, 0, 1, 2, 3, 0xFF, 0, 0, 0, 0, 0, 0], .mq g0 (.x 8) ⟨1, 2, 3, false, .ptr, 255⟩),
    (0xE1E0, [8, 0, 0, 0, 4, 0xFF, 0, 0, 0, 0, 0, 0, 3, 2, 1, 0], .mcmd g0 (.x 8) ⟨0, 0, 0, true, .ptr, 255⟩ 0x10203),
    (0xE210, [0, 1], .mwait g0 true),
    (0xE2D0, [8, 4, 0, 0, 0x0B, 0xFF, 0, 0, 0, 0, 0, 0], .walk g0 (.x 4) (.x 8) 3 true 255),
    (0xE350, [8, 4, 0, 0, 1, 0xFF, 0, 0, 0, 0, 0, 0], .forest g0 (.x 4) (.x 8) 1 255),
    (0xE3D0, [8, 0, 0, 0, 1, 0xFF, 0, 0, 0, 0, 0, 0], .gbfac g0 (.x 8) 1 255),
    (0xE450, [8, 0, 0, 0, 1, 0xFF, 0, 0, 0, 0, 0, 0], .gbvar g0 (.x 8) 1 255),
    (0xE490, [8, 0], .gbpop g0 (.x 8)),
    (0xE550, [8, 0, 0, 0, 1, 0xFF, 0, 0, 0, 0, 0, 0], .gbwr g0 (.x 8) 1 255)] : List (Nat × List Byte × Instr)).all (fun p => reads p.1 p.2.1 p.2.2) = true := by
  decide +kernel

/-! ## Single steps -/

/-- R345's table: (−1, 1), (2^64 − 1, 2) and (2^62, 4). -/
theorem test_multiply :
    gives (.mul g0 (.x 4) (.x 0) (.x 1) false) [-1, 1] (-1) ∧ gives (.mulhu g0 (.x 4) (.x 0) (.x 1)) [-1, 1] 0 ∧
    gives (.mul g0 (.x 4) (.x 0) (.x 1) true) [-1, 2] (-2) ∧ gives (.mulh g0 (.x 4) (.x 0) (.x 1)) [-1, 2] (-1) ∧
    gives (.mulhu g0 (.x 4) (.x 0) (.x 1)) [-1, 2] 1 ∧
    gives (.mul g0 (.x 4) (.x 0) (.x 1) true) [0x4000000000000000, 4] 0x7FFFFFFFFFFFFFFF 0x20 ∧
    gives (.mulh g0 (.x 4) (.x 0) (.x 1)) [0x4000000000000000, 4] 1 := by decide +kernel

/-- R340, R349, R356 and R297: the signed and unsigned lesser of −1 and 1, the remainders of −7 by 2, a shift by 64, and
the division corners. -/
theorem test_signed_unsigned :
    gives (.min g0 (.x 4) (.x 0) (.x 1)) [-1, 1] (-1) ∧ gives (.minu g0 (.x 4) (.x 0) (.x 1)) [-1, 1] 1 ∧
    gives (.rem g0 (.x 4) (.x 0) (.x 1)) [-7, 2] (-1) ∧ gives (.remu g0 (.x 4) (.x 0) (.x 1)) [-7, 2] 1 ∧
    gives (.shl g0 (.x 4) (.x 0) (.x 1)) [5, 64] 5 ∧ gives (.sar g0 (.x 4) (.x 0) (.x 1)) [-5, 1] (-3) ∧
    gives (.div g0 (.x 4) (.x 0) (.x 1)) [7, 0] (-1) ∧ gives (.rem g0 (.x 4) (.x 0) (.x 1)) [7, 0] 7 ∧
    gives (.div g0 (.x 4) (.x 0) (.x 1)) [0x8000000000000000, -1] 0x8000000000000000 ∧
    gives (.rem g0 (.x 4) (.x 0) (.x 1)) [0x8000000000000000, -1] 0 := by decide +kernel

/-- R295, R347, R344, R350 and R353. -/
theorem test_moves :
    gives (.abs g0 (.x 4) (.x 0) true) [0x8000000000000000] 0x7FFFFFFFFFFFFFFF 0x20 ∧
    gives (.neg g0 (.x 4) (.x 0) false) [0x8000000000000000] 0x8000000000000000 ∧
    gives (.clz g0 (.x 4) (.x 0)) [0] 64 ∧ gives (.popc g0 (.x 4) (.x 0)) [-1] 64 ∧
    gives (.movi g0 (.x 4) 0x80000000) [] 0xFFFFFFFF80000000 ∧
    gives (.movhi g0 (.x 4) 0x10) [0, 0, 0, 0, 0xFFFFFFFF80000000] 0x0000001080000000 ∧
    gives (.xori g0 (.x 4) (.x 0) 63) [10] 53 ∧
    gives (.pfmt g0 (.x 4) (.x 0) 6 10) [0x123] 0x3500000000000123 ∧
    gives (.ptag g0 (.x 4) (.x 0)) [0x3500000000000123] 0x0A06 := by decide +kernel

/-- R324's example: one rounding against two. -/
theorem test_fused_multiply_add :
    gives (.fma g0 (.x 4) (.x 0) (.x 1) (.x 2) ⟨.ne, false, .fp32⟩) [0x3F800001, 0x3F7FFFFE, 0xBF800000] 0xA8800000 ∧
    gives (.fmul g0 (.x 4) (.x 0) (.x 1) ⟨.ne, false, .fp32⟩) [0x3F800001, 0x3F7FFFFE] 0x3F800000 0x10 := by decide +kernel

/-- R323's examples. -/
theorem test_conversions :
    gives (.fcvt g0 (.x 4) (.x 0) ⟨.ne, false⟩ .e4m3 .fp32) [0x43960000] 0x79 0x10 ∧
    gives (.fcvt g0 (.x 4) (.x 0) ⟨.ru, false⟩ .e4m3 .fp32) [0x43960000] 0x7A 0x10 ∧
    gives (.fcvt g0 (.x 4) (.x 0) ⟨.ne, false⟩ .e4m3 .fp32) [0x43FA0000] 0x7E 0x14 := by decide +kernel

/-- R370's examples. -/
theorem test_lanes :
    gives (.vperm g0 (.x 4) (.x 0) (.x 1) .fp16) [0x4400420040003C00, 0x0123] 0x3C00400042004400 ∧
    gives (.vargmax g0 (.x 4) (.x 0) (.x 1) .fp16) [0x4400420040003C00, 0x3C00400042004400] 3 ∧
    gives (.vsum g0 (.x 4) (.x 0) (.x 1) ⟨.ne, false, .fp16⟩) [0x4400420040003C00, 0x3C00400042004400] 0x4D00 ∧
    gives (.vsum g0 (.x 4) (.x 0) .zr ⟨.ne, false, .fp32⟩) [0x4400420040003C00] 0x4400C23C := by decide +kernel

/-- R351's BFP4 step: nibble address 1,020 advanced by 10 is chunk 1, offset 6. -/
theorem test_pointer_add :
    gives (.paddImm g0 (.x 4) (.x 0) 10) [mkPtr 7 10 1020] (mkPtr 7 10 1158) ∧
    gives (.paddReg g0 (.x 4) (.x 0) (.x 1)) [mkPtr 3 0 0, -1] (mkPtr 3 0 (2 ^ 55 - 2)) := by decide +kernel

/-- R339: a counter of 0 wraps and branches, a counter of 1 ends. R332: JMPL reads xa before it writes xd. -/
theorem test_transfers :
    runs (.loop g0 (.x 4) (-8)) (state []) (fun u => u.reg 0 20 == -1 && (u.thread? 0 0).map Thread.pc == some 0xFFF8) ∧
    runs (.loop g0 (.x 4) (-8)) (state [0, 0, 0, 0, 1]) (fun u =>
      u.reg 0 20 == 0 && (u.thread? 0 0).map Thread.pc == some 0x10004) ∧
    runs (.jmpl g0 (.x 4) (.x 4)) (state [0, 0, 0, 0, 0x20000]) (fun u =>
      u.reg 0 20 == 0x7800000000010004 && (u.thread? 0 0).map Thread.pc == some 0x20000) := by decide +kernel

/-- R335 and R38's first block, as the BFP8 chunk 61 at 61 × 1,088 = 0x10340 with its exponents at 0x10740; an FP16 1.0 at
0x10800, the byte 0x80 at 0x10810. -/
def loads (ws : List Word) : State :=
  { state ws with mem := memWrite (memWrite (memWrite (memWrite [] 0x10340 [0xB2, 0x85, 0x02, 0x40]) 0x10740 [0x81, 0x85])
      0x10800 [0x00, 0x3C]) 0x10810 [0x80] }

theorem test_loads :
    [(Instr.ld g0 (.x 4) (.x 0) ⟨0, false⟩ 255 0, (0x42C80000 : Word)), (.ld g0 (.x 4) (.x 0) ⟨0, false⟩ 255 3, 0x80000000),
      (.ld g0 (.x 4) (.x 0) ⟨0, true⟩ 255 0, 0xB2), (.ld g0 (.x 4) (.x 1) ⟨0, false⟩ 1 0, 0x3F800000),
      (.ld g0 (.x 4) (.x 1) ⟨0, true⟩ 255 0, 0x3C00), (.ld g0 (.x 4) (.x 2) ⟨8, false⟩ 255 0, 0xFFFFFFFFFFFFFF80),
      (.ld g0 (.x 4) (.x 2) ⟨8, true⟩ 255 0, 0x80)].all (fun p =>
        runs p.1 (loads [mkPtr 6 10 0x10340, mkPtr 3 0 0x10800, 0x10810]) (fun u => u.reg 0 20 == p.2)) = true := by
  decide +kernel

/-- A store is held, and its bytes are in memory once the chunk has committed (R146). -/
theorem test_store_then_commit :
    runs (.st g0 (.x 0) (.x 1) ⟨11, false⟩ 255 0) (state [0x1122334455667788, 0x10040]) (fun u => u.mem.isEmpty &&
      runs (.chunk g0) { u with turn := some turn } (fun v => runs (.chunkCommit 0 0) v (fun w =>
        w.mem == [(0x10040, 0x88), (0x10041, 0x77), (0x10042, 0x66), (0x10043, 0x55), (0x10044, 0x44), (0x10045, 0x33),
          (0x10046, 0x22), (0x10047, 0x11)]))) = true := by decide +kernel

/-- R296 and R237: a compare that holds stores, and a sum beyond the cap changes nothing and sets bit 63. -/
theorem test_atomics :
    runs (.acas g0 (.x 4) (.x 0) (.x 1) 0) (state [0x10040, 0, 1]) (fun u =>
      u.reg 0 20 == 0 && u.mem == [(0x10040, 0x01)]) ∧
    runs (.aaddc g0 (.x 4) (.x 0) (.x 1) 0) { state [0x10040, 3, 5] with mem := [(0x10040, 0x03)] } (fun u =>
      u.reg 0 20 == 0x8000000000000003 && u.mem == [(0x10040, 0x03)]) := by decide +kernel

/-- R127: LDS takes a full word and empties it; at an empty one, a cycle later, it parks. -/
theorem test_load_sync :
    runs (.lds g0 (.x 4) (.x 0) 255 0) { state [0x10040] with mem := [(0x10041, 0x02)] } (fun u =>
      u.reg 0 20 == 0x200 && !u.full 0x10040 &&
      runs (.lds g0 (.x 4) (.x 0) 255 0) { u with turn := some turn, now := 1 } (fun v => (v.core 0).park.length == 1)) = true := by
  decide +kernel

/-- R368, R369: TRAP 7 with UHV set asks for the handler, which starts with h0 = 17 and h1 = 7, and URET goes on behind
the TRAP. -/
theorem test_soft_trap_and_return :
    runs (.trap g0 7) (around { core [] thread with ctxs := [(0, { ctx with uhv := 0x10100 })] }) (fun u =>
      runs (.userHandlerEntry 0) { u with mem := [(0x10100, 0x80), (0x10101, 0x00)].filter (fun p => p.2 != 0) } (fun v =>
        (v.core 0).shadow.h.take 2 == [17, 7] && (v.thread? 0 0).map Thread.pc == some 0x10100 &&
        runs (.uret g0) { v with turn := some { turn with next := 0x10102 } } (fun w =>
          (w.thread? 0 0).map Thread.pc == some 0x10004 && (w.core 0).shadow.holder == none))) = true := by decide +kernel

/-- NOP's word of R348 decodes and the opcode table's 0x0090 does not; FENCE's scope 0 and FCMP's condition 6 do not
(R99, R109, R321; notes/assumptions/8.md). -/
theorem test_refused_words :
    decodeTableWord 16 0x0080 = some (.nop g0) ∧ decodeTableWord 16 0x0090 = none ∧
      decodeHead 0x0410 [0, 0] = .error .illegalOp ∧ decodeHead 0x65A0 [1, 2, 3, 6] = .error .illegalOp := by decide +kernel


/-! ## Witnesses: a state and operands that meet the hypotheses of each statement -/

theorem witness_EncodedInstructionDecodes :
    (Instr.nop g0).wellFormed = true ∧ encode (.nop g0) = some (0x0080, []) ∧
      (Instr.fma g0 (.x 4) (.x 5) (.x 6) (.x 7) ⟨.ne, false, .fp32⟩).wellFormed = true ∧
      encode (.fma g0 (.x 4) (.x 5) (.x 6) (.x 7) ⟨.ne, false, .fp32⟩) = some (0x62B0, [4, 5, 6, 7, 0, 0]) := by
  decide +kernel

/-- A head with the guard 0b1000, opcodes without a row, BR's opcode with no tail, and two words that decode. -/
theorem witness_ReservedEncodingsRefused :
    0x0088 % 16 = 8 ∧ 0x1CB ≤ 0x1CB ∧ 0x1CB ≤ 0x1FF ∧ decodeOp 1 g0 [] = .ok (.nop g0) ∧
      decodeOp 0x040 g0 [1, 2, 3, 8] = .ok (.add g0 (.x 1) (.x 2) (.x 3) true) ∧
      (∀ (i : Instr) (bs : List Byte), encodeParts i = some (0, bs) → bs.length ≠ 1) ∧
      (∀ (i : Instr) (bs : List Byte), encodeParts i = some (2, bs) → bs.length ≠ 0) := by
  refine ⟨by decide, by decide, by decide, by decide +kernel, by decide +kernel, fun i bs h => ?_, fun i bs h => ?_⟩
  · cases i <;> simp [encodeParts] at h
  · cases i <;> simp [encodeParts] at h
    exact h ▸ by simp

/-- The placed NOP, and the placed CPYQ, which charges energy, in a context that has some. -/
theorem witness_StepRunsDecodedInstruction :
    ([(16, 0x0080, .nop g0), (112, 0xC6D0, .cpyq g0 (.x 0) 0 false 0)] : List (Nat × Nat × Instr)).all (fun p =>
      let s := State.reset.withFetchWord p.1 p.2.1
      match s.thread? 0 0 with
      | some h =>
        match h.image? (h.pc.toNat / 64) with
        | some img => s.inputs.isEmpty && s.agenda.isEmpty && s.turns == [0] && s.serving && s.cyc 0 % 64 == 0 &&
            s.threadAt 0 0 == some 0 && s.mayIssue 0 0 h && h.raised.isNone && h.doomed.isNone && !s.atBreak 0 0 && lineAt img (bitsOf h.pc.toNat 5 1) == .ins p.2.2 &&
            (!hasEnergy p.2.2 || decide (0 < (s.ctx 0 h.ctx).ebud))
        | none => false
      | none => false) = true := by decide +kernel

/-- A FENCE.core that has issued and whose chunk is new: it may go on. -/
def issuedState : State :=
  let s := State.reset.withFetchWord 64 0xB40
  let h := (s.thread? 0 0).getD Thread.blank
  { s.setThread 0 0 { h with issued := some turn.at_, fetch := [⟨0, lineOf 0x80 []⟩] } with turns := [] }

theorem witness_StepRunsDecodedInstruction_resume :
    issuedState.inputs = [] ∧ issuedState.agenda = [] ∧ issuedState.turns = [] ∧ issuedState.serving = true ∧
      issuedState.resume = some (.nop g0, issuedState.begin 0 0) := by decide +kernel

theorem witness_PlacedWordRuns :
    decodeTableWord 16 0x0080 = some (.nop g0) ∧
      decodeTableWord 112 0xC6D0 = some (.cpyq g0 (.x 0) 0 false 0) := by decide +kernel

/-- A branch whose guard p1 is 0. -/
theorem witness_FalseGuardOnlyTakesTheTurn :
    (Instr.br ⟨false, 1⟩ 8).guard? = some ⟨false, 1⟩ ∧ Running (state []) turn thread ∧ thread.guard ⟨false, 1⟩ = false := by
  simp only [running_iff]; decide +kernel

/-- ADD of x0 = 7 and x1 = 9. -/
theorem witness_BinaryIntegerResults :
    (Spec.binary (.add g0 (.x 4) (.x 0) (.x 1) true)).isSome = true ∧ g0.wf = true ∧ (9 : Byte) ≠ 0 ∧ (9 : Byte) ≠ 8 ∧
      (Spec.binaryHead (.mulh g0 (.x 4) (.x 0) (.x 1))).2 = none ∧
      Running (state [7, 9]) turn thread ∧ thread.guard g0 = true ∧ thread.takes (.x 4) ∧ thread.takes (.x 31) ∧
      thread.takes .zr ∧ (state [7, 9]).reads 0 thread (.x 0) 7 ∧ (state [7, 9]).reads 0 thread (.x 1) 9 ∧
      (state [7, 9]).reads 0 thread .zr 0 := by
  simp only [running_iff, State.reads, Thread.takes]; decide +kernel

theorem witness_UnaryIntegerResults :
    (Spec.unary (.neg g0 (.x 4) (.x 0) true)).isSome = true ∧ Running (state [7]) turn thread ∧ thread.guard g0 = true ∧
      thread.takes (.x 4) ∧ (state [7]).reads 0 thread (.x 0) 7 := by
  simp only [running_iff, State.reads, Thread.takes]; decide +kernel

/-- MOVHI reads its destination, SEL two registers, PFMT takes the codes up to 15, CONTID the registers up to 127. -/
theorem witness_MoveResults :
    Running (state [7, 9]) turn thread ∧ thread.guard g0 = true ∧ thread.takes (.x 0) ∧
      (state [7, 9]).reads 0 thread (.x 0) 7 ∧ (state [7, 9]).reads 0 thread (.x 1) 9 ∧ (15 : BitVec 5).toNat < 16 ∧
      turn.slot ≠ 63 ∧ turn.core < 2 ^ 20 ∧ (127 : BitVec 8).toNat < 128 := by
  simp only [running_iff, State.reads, Thread.takes]; decide +kernel

/-- Pointers of the clauses: formats 0 and 15; 16, and 6 and 7 with L 9; the first place of an exponent area; the last
place of an element area, from which a step of 1 leaves the chunk. -/
theorem witness_PaddResults :
    ([mkPtr 0 0 5, mkPtr 15 0 5, mkPtr 16 0 0, mkPtr 6 9 0, mkPtr 7 9 0, mkPtr 6 10 1024, mkPtr 7 10 1024, mkPtr 6 10 1023,
      mkPtr 7 10 2175] : List Word).all (fun p => rd (state [p, 1]) thread (.x 0) p &&
        rd (state [p, 1]) thread (.x 1) 1) = true ∧
    Running (state [mkPtr 0 0 5, 1]) turn thread ∧ thread.guard g0 = true ∧ thread.takes (.x 4) ∧
      (ptrFmt (mkPtr 0 0 5) = 0 ∧ ptrFmt (mkPtr 15 0 5) = 15 ∧ ptrFmt (mkPtr 16 0 0) = 16) ∧
      (ptrFmt (mkPtr 6 9 0) = 6 ∧ ptrL (mkPtr 6 9 0) < 10 ∧ ptrFmt (mkPtr 7 9 0) = 7 ∧ ptrL (mkPtr 7 9 0) < 10) ∧
      ([(6, 1024), (7, 1024)] : List (Nat × Nat)).all (fun p => decide (
        chunkElems 10 ≤ ptrAddr (mkPtr p.1 10 p.2) % chunkSize (p.1 == 6) 10)) = true ∧
      ([(6, 1023), (7, 2175)] : List (Nat × Nat)).all (fun p => decide (
        ptrAddr (mkPtr p.1 10 p.2) % chunkSize (p.1 == 6) 10 < chunkElems 10)) = true := by
  simp only [running_iff, Thread.takes]; decide +kernel

theorem witness_PredicateResults :
    g0.wf = true ∧ Running (state [7]) turn thread ∧ thread.guard g0 = true ∧ (state [7]).reads 0 thread (.x 0) 7 ∧
      (state [7]).reads 0 thread .zr 0 ∧ thread.preds.getLsbD 0 = true ∧ (15 : BitVec 4) ≠ 0 := by
  simp only [running_iff, State.reads]; decide +kernel

/-- Port east of core 0 holds three words and south none; core 1 claims its port west, core 256 none; an entry waits. -/
def ports : State :=
  let s := withCore (fun k => { k with
    ctxs := [(0, { ctx with nbind := 0x80808080 })], fifos := [(1, [5, 6, 7])], mail := [⟨1, 0, 3, 9, [1]⟩] }) [8]
  { s with cores := s.cores ++ [(1, { Core.reset with ctxs := [(0, { ctx with nbind := 0x80000000 })] })] }

theorem witness_PortAndMailboxOperands :
    Running ports turn thread ∧ thread.guard g0 = true ∧ turn.slot ≠ 63 ∧ thread.chunk.quiet = true ∧ turn.again = [] ∧
      (Running { ports with turn := some { turn with again := [5, 6] } } { turn with again := [5, 6] } thread ∧
        Running { ports with turn := some { turn with again := [5] } } { turn with again := [5] } thread) ∧
      thread.takes (.x 4) ∧ thread.takes (.x 0) ∧
      (ports.portDead 0 0 thread .e = false ∧ (ports.core 0).fifo .e = 5 :: 6 :: [7]) ∧
      ((ports.mailFor 0 1).head? = some ⟨1, 0, 3, 9, [1]⟩ ∧ 1 ≤ ports.mailFree 0 0 1) ∧
      (ports.reads 0 thread (.x 0) 8 ∧ neighbour 0 .e = some 1 ∧ (ports.portAccept 1 .w 1 0).isSome = true ∧
        ports.routeOk 0 1 = true) ∧
      (ports.portDead 0 0 thread .s = false ∧ (ports.core 0).fifo .s = []) ∧
      (neighbour 0 .s = some 256 ∧ ports.portAccept 256 .n 1 0 = none) := by
  simp only [running_iff, State.reads, Thread.takes]; decide +kernel

/-- x32 lies beyond the window of 32; h0 is named outside a handler; entry 16 is poisoned. -/
theorem witness_RegisterFieldTraps :
    (Spec.binary (.add g0 (.x 4) (.x 0) (.x 1) false)).isSome = true ∧ (Spec.unary (.mov g0 (.x 4) (.x 0))).isSome = true ∧
    Running (withCore (fun k => { k with regPoison := [16] })) turn thread ∧ thread.guard g0 = true ∧ thread.takes (.x 4) ∧
      thread.size ≤ (32 : BitVec 7).toNat ∧ thread.handler = false ∧ (0 : BitVec 7).toNat < thread.size ∧
      thread.base + (0 : BitVec 7).toNat ∈ ((withCore (fun k => { k with regPoison := [16] })).core 0).regPoison := by
  simp only [running_iff, Thread.takes]; decide +kernel

theorem witness_IntegerInstructionFrame :
    Running (state [7, 9]) turn thread ∧ thread.guard g0 = true ∧ turn.slot ≠ 63 ∧ thread.takes (.x 4) ∧
      (state [7, 9]).reads 0 thread (.x 0) 7 ∧ (state [7, 9]).reads 0 thread (.x 1) 9 ∧
      runs (.add g0 (.x 4) (.x 0) (.x 1) false) (state [7, 9]) (fun _ => true) = true ∧
      runs (.neg g0 (.x 4) (.x 0) false) (state [7, 9]) (fun _ => true) = true := by
  simp only [running_iff, State.reads, Thread.takes]; decide +kernel

/-- 1.0, a NaN and a signalling NaN of FP32 beside a third operand; a selector nibble with bit 3 set and one beyond the
lanes of FP32. -/
theorem witness_FloatResults :
    ([0x3F800000, 0x7FC00000, 0x7F800001] : List Word).all (fun x =>
      running (state [x, 9, 2]) turn thread && rd (state [x, 9, 2]) thread (.x 0) x && rd (state [x, 9, 2]) thread (.x 1) 9 &&
        rd (state [x, 9, 2]) thread (.x 2) 2) = true ∧ thread.guard g0 = true ∧ thread.takes (.x 4) ∧
      (unpack .fp32 0x3F800000).isNan = false ∧ (unpack .fp32 0x7FC00000).isNan = true ∧
      (unpack .fp32 0x7F800001).isSig = true ∧ 1 < 64 / FloatFmt.width .fp32 ∧
      (Spec.floatBinary (.fmin g0 (.x 4) (.x 0) (.x 1) .fp32)).isSome = true := by
  simp only [Thread.takes]; decide +kernel

theorem witness_FloatCompareResults :
    g0.wf = true ∧ 6 ≤ (6 : Byte).toNat % 16 ∧ Running (state [0x3F800000, 0x7FC00000]) turn thread ∧ thread.guard g0 = true ∧
      (state [0x3F800000, 0x7FC00000]).reads 0 thread (.x 0) 0x3F800000 ∧
      (state [0x3F800000, 0x7FC00000]).reads 0 thread (.x 1) 0x7FC00000 := by
  simp only [running_iff, State.reads]; decide +kernel

/-- The shift by one bit, with a tie; and of FP32: a NaN, both infinities, both zeros, −1 and 1. -/
theorem witness_RoundingAndInvalidOperations :
    0 < 1 ∧ 2 * (3 % 2 ^ 1) = 2 ^ 1 ∧ (unpack .fp32 0x7FC00000).isNan = true ∧ unpack .fp32 0x7F800000 = .inf false ∧
      unpack .fp32 0xFF800000 = .inf (!false) ∧ (unpack .fp32 0x7F800001).isSig = true ∧ (unpack .fp32 0).isZero = true ∧ (unpack .fp32 0x80000000).isZero = true ∧
      (∃ m e, unpack .fp32 0xBF800000 = .num true (m + 1) e) ∧ (∃ m e, unpack .fp32 0x3F800000 = .num false (m + 1) e) ∧
      (∃ e, unpack .fp32 0 = .num false 0 e) ∧ FloatFmt.fp32 ≠ .e4m3 := by
  have special : (unpack .fp32 0x7FC00000).isNan = true ∧ unpack .fp32 0x7F800000 = .inf false ∧
      unpack .fp32 0xFF800000 = .inf (!false) ∧ (unpack .fp32 0x7F800001).isSig = true ∧ (unpack .fp32 0).isZero = true ∧
      (unpack .fp32 0x80000000).isZero = true := by decide +kernel
  exact ⟨by decide, by decide, special.1, special.2.1, special.2.2.1, special.2.2.2.1, special.2.2.2.2.1, special.2.2.2.2.2,
    ⟨_, _, rfl⟩, ⟨_, _, rfl⟩, ⟨_, rfl⟩, by decide⟩

/-- A BFP8 block, the first of chunk 61 at L 10, and 32 FP16 elements beside it. -/
theorem witness_BlockInstructionResults :
    let x := mkPtr 6 10 0x10340
    let y := mkPtr 3 0 0x12000
    let s := state [x, y]
    let s0 := s.readied turn thread
    let blk := [(0x10340, 32), (0x10740, 2)]
    ready s thread = true ∧ rd s thread (.x 0) x = true ∧ rd s thread (.x 1) y = true ∧ thread.takes (.x 4) ∧
      bfpPlace true 10 0x10340 = some ⟨0x10340, false, 0x10740, 0⟩ ∧ ptrFmt x = 6 ∧ ptrL x = 10 ∧ ptrFmt y = 3 ∧
      okAnd ((loadSpans [(x, 0x10340, 32), (x, 0x10740, 2), (x, 0x10340, 32), (x, 0x10740, 2)] (Spec.use s turn 255)).run s0)
        (fun _ s1 => stays s1) = true ∧
      okAnd ((checkMoves x blk y [(0x12000, 64)]).run s0) (fun _ sa =>
        okAnd ((loadRanges x blk (turn.at_.use 255)).run sa) (fun bs sb =>
          let rs := (blockVals true (bs.getD 0 []) (bs.getD 1 [])).map (roundVal .fp16 .ne false)
          okAnd ((holdStores y [(0x12000, whole (rs.flatMap (fun r => leBytes 2 r.1)))] 255).run sb) (fun _ s1 =>
            stays s1 && (s1.thread? 0 0).map Thread.status == some .ready))) = true ∧
      okAnd ((checkMoves y [(0x12000, 64)] x blk).run s0) (fun _ sa =>
        okAnd ((loadBytes y 0x12000 64 (turn.at_.use 255)).run sa) (fun bs sb =>
          let q := quantise true 4 .fp16 ((List.range 32).map (fun k => unpack .fp16 (leNat (slice bs (2 * k) 2))))
          okAnd ((holdStores x [(0x10340, whole (packCodes true q.elems)),
            (0x10740, whole [BitVec.ofNat 8 q.e0, BitVec.ofNat 8 q.e1])] 255).run sb) (fun _ s1 =>
              stays s1 && (s1.thread? 0 0).map Thread.status == some .ready))) = true := by
  simp only [Thread.takes]; decide +kernel

/-- Code addresses without a tag and with tag 15, one of another format, an odd one, and a counter of 1. -/
theorem witness_TransferResults :
    ([0x20000, mkPtr 15 0 0x20000, mkPtr 1 0 0x20000, 0x20001, 1] : List Word).all (fun x =>
      ready (state [x]) thread && rd (state [x]) thread (.x 0) x) = true ∧ thread.takes (.x 4) ∧
      ptrFmt 0x20000 = 0 ∧ ptrFmt (mkPtr 15 0 0x20000) = 15 ∧ ptrFmt (mkPtr 1 0 0x20000) = 1 ∧
      (0x20001 : Word).toNat % 2 = 1 ∧ (0 : BitVec 7).toNat < thread.size := by
  simp only [Thread.takes]; decide +kernel

/-- A quiet chunk with nothing in flight; with a packet of the thread in flight inside the core and beyond; a range of 512
lines; a dirty private entry; and a chunk that has read. -/
theorem witness_ChunkEndings :
    let s := state [0x10000, 512]
    let e := (s.readied turn thread).ended turn
    let sent : State := { s with wire := [⟨.port 0 .e 1 5, 0, 1, true, none, 1⟩] }
    let kept := withCore (fun k => { k with stash := [(0, entry true .dirty false)] }) []
    let read : Thread := { thread with chunk := { thread.chunk with rset := [0x400] } }
    ready s thread = true ∧ e.unaccepted .sys 0 1 = false ∧ (e.flushPrivate 0 0).isSome = true ∧
      (ready sent thread = true ∧ ((sent.readied turn thread).ended turn).unaccepted .core 0 1 = true) ∧
      (ready kept thread = true ∧ (match ((kept.readied turn thread).ended turn).flushPrivate 0 0 with
        | some u => u.turn == some turn
        | none => false) = true) ∧
      (rd s thread (.x 0) 0x10000 = true ∧ rd s thread (.x 1) 512 = true ∧ (512 : Word).toNat ≤ 512 ∧
        ptrFormatBad (ptrFmt 0x10000) (ptrL 0x10000) = false ∧ ptrAddr 0x10000 % 64 = 0 ∧
        okAnd ((eachEntry (rangeOf 0x400 512) (fun c i => orWait (fun s => s.writeBack c i))).run e) (fun _ u => stays u) =
          true) ∧
      (running (state [] read) turn read = true ∧ read.chunk.quiet = false) := by decide +kernel

/-- A thread with UHV set, one without, one in a handler, with SYNC_LIMIT of an LDS and of another operation. -/
theorem witness_SoftTrapAndReturn :
    let a := withCore (fun k => { k with ctxs := [(0, { ctx with uhv := 0x10100 })] })
    let hd : Thread := { thread with handler := true }
    let b (op : Word) := withCore (fun k => { k with
      shadow := { Shadow.reset with holder := some 0, cause := 10, h := [10, 0, op, 0, 0, 0, 0, 0] } }) [] hd
    ready a thread = true ∧ turn.slot ≠ 63 ∧ thread.handler = false ∧ (a.ctx 0 0).uhv ≠ 0 ∧ a.wf ∧
      (ready (state []) thread = true ∧ ((state []).ctx 0 0).uhv = 0 ∧ (state []).wf) ∧
      (ready (b 0) hd = true ∧ (b 0).wf ∧ ready (b 1) hd = true ∧ (b 1).wf) ∧
      ((((b 1).readied turn hd).ended turn).core 0).shadow.cause = 10 ∧
      ((((b 1).readied turn hd).ended turn).core 0).shadow.h.getD 2 0 = 1 := by
  simp only [State.wf]; decide +kernel

/-- A save area at 0x10040 with an empty window, one as great as the thread's, a greater one, a PC of another format and an
odd PC. -/
theorem witness_FibreReturn :
    let area (size fmt pc : Nat) : State := { state [] { thread with fsave := 0x10040 } with
      mem := memWrite [] 0x10040 (wordBytes [mkPtr fmt 0 pc, BitVec.ofNat 64 (3 + size * 2 ^ 16)]) }
    ([(0, 0, 0x10200), (32, 15, 0x10200), (33, 0, 0x10200), (8, 1, 0x10200), (32, 15, 0x10201)] : List (Nat × Nat × Nat)).all
      (fun p => ready (area p.1 p.2.1 p.2.2) { thread with fsave := 0x10040 } &&
        okAnd ((loadBytes (BitVec.ofNat 64 0x10040) 0x10040 16 (turn.at_.use 255)).run
          ((area p.1 p.2.1 p.2.2).readied turn { thread with fsave := 0x10040 })) (fun bs s1 => bs.length == 16 && stays s1 &&
        leNat (slice bs 8 8) / 2 ^ 16 % 2 ^ 8 == p.1 && ptrFmt (BitVec.ofNat 64 (leNat (slice bs 0 8))) == p.2.1 && leNat (slice bs 0 8) % 2 == p.2.2 % 2 &&
        okAnd ((loadBytes (BitVec.ofNat 64 0x10080) 0x10080 (8 * p.1) (turn.at_.use 255)).run s1) (fun _ s2 => stays s2))) = true := by
  decide +kernel

theorem witness_ThreadEnds :
    ready (state []) thread = true ∧ turn.slot ≠ 63 ∧ thread.handler = false ∧ (state []).wf := by
  simp only [State.wf]; decide +kernel

/-- Targets: core 1 halted, resumed and drained by device 0 and asked for by device 1; core 1 with a thread that cannot
stop; the own core, a reserved bit, a drain of a resume, a fenced core; a core whose engines are at work; and a request that has been
sent already, to a core that has been released and to one that still waits. -/
theorem witness_HaltResults :
    let h0 : Thread := { thread with vdev := 0 }
    let on (x : Word) (h : Thread) (k : Core) : State := { state [x] h with cores := [(0, core [x] h), (1, k)] }
    let halt (s : State) : State := (s.readied turn h0).modCore 1 (fun k => { k with halted := true, draining := true })
    let busy : Core := { Core.reset with slots := [(5, { thread with status := .engine })] }
    let idle (x : Word) (h : Thread) := on x h Core.reset
    ([1, 2 ^ 20 + 1] : List Word).all (fun x =>
      ready (idle x h0) h0 && rd (idle x h0) h0 (.x 0) x && ready (idle x thread) thread && decide (x.toNat < 2 ^ 21)) = true ∧
      ready (on 1 h0 busy) h0 = true ∧ h0.chunk.closing = false ∧ (halt (on 1 h0 busy)).haltSlots 1 = none ∧
      (match (halt (idle 1 h0)).haltSlots 1 with
        | some u => u.turn == some turn && !(u.core 1).drained && u.enginesIdle 1
        | none => false) = true ∧
      ([0, 2 ^ 21, 2 ^ 20 + 1] : List Word).all (fun x => ready (idle x h0) h0 && rd (idle x h0) h0 (.x 0) x) = true ∧
      ready (on 1 h0 { Core.reset with fenced := true }) h0 = true ∧
      (let packet : LandPkt := ⟨0, 0, 0, 0, 0, 0, [], false⟩
       match (halt (on 1 h0 { Core.reset with landing := [packet] })).haltSlots 1 with
        | some u => stays u && !(u.core 1).drained && !u.enginesIdle 1
        | none => false) = true ∧
      (let again : Turn := { turn with at_ := { turn.at_ with halt := some 1 } }
       ([Core.reset, { busy with halted := true }] : List Core).all (fun k =>
        let s : State := { on 1 h0 k with turn := some again }
        running s again h0 && (!k.halted || (s.readied again h0).haltSlots 1 == none))) = true := by decide +kernel

/-- A task with no pair yet, one whose clock has not moved but wraps, one with 64 pairs; a stash entry of
the task. -/
theorem witness_ClockTick :
    ([[], [(0, 0)], List.replicate 64 (0, 0)] : List (List (Nat × Nat))).all (fun l =>
      let k : Task := { Task.fresh 0 0 0 with hist := l, bclk := 0xFFFFFFFF }
      let s := withCore (fun c => { c with tasks := [(0, k)] })
      ready s thread && s.task 0 0 == k && decide (k.hist.length ≤ 64)) = true ∧
      (let e := entry false .clean false
       let s := withCore (fun c => { c with stash := [(3, { e with reuse := { e.reuse with clk := false } })] })
       ready s thread = true ∧ e.reuse.who = 0 ∧ (s.core 0).stash.length = 1 ∧
         (e.reuse.due + 2 ^ 16 - (s.task 0 0).bclk.toNat % 2 ^ 15) % 2 ^ 15 ≤ 64 ∧
         (e.reuse.due + e.reuse.slack + 2 ^ 16 - (s.task 0 0).bclk.toNat % 2 ^ 15) % 2 ^ 15 ≤ 300) ∧
      (0 : BitVec 16) = 0 ∧ (1 : BitVec 16) ≠ 0 := by decide +kernel

theorem witness_CsrReads :
    ready (state []) thread = true ∧ thread.takes (.x 4) ∧ 0x014 < (0x015 : BitVec 12).toNat ∧
      0x014 < (0xFFF : BitVec 12).toNat := by
  simp only [Thread.takes]; decide +kernel

/-- NBIND is claimed on a port that no other context holds, and on one that context 1 holds. -/
theorem witness_CsrWrites :
    let s := withCore (fun k => { k with ctxs := [(0, ctx), (1, { ctx with vdev := 2, nbind := 0x80 })] }) [0x8080]
    ready s thread = true ∧ rd s thread (.x 0) 0x8080 = true ∧ 0x014 < (0xFFF : BitVec 12).toNat ∧
      (s.core 0).tasks.find? 0 = some (Task.fresh 0 0 0) ∧ (s.core 0).ctxs.find? 0 = some ctx ∧ thread.ctx ≠ 63 := by
  decide +kernel

/-- The page at 0x10000 is migrating, its entry in the root node at 0x200000 a migration entry. -/
def moving (ws : List Word) : State :=
  { withCore (fun k => { k with mtc := [] }) ws with
    mem := memWrite [] 0x200000 [2], granules := [(16, ⟨1, true, false⟩), (512, ⟨0, true, false⟩)]
    migrations := [⟨1, 0x10000, 4, 0x10000, 1, some 0x40000, none⟩] }

/-- The last domain and the next, the greatest mask; a page of the thread's device that no pin count holds, at rest and
migrating. -/
theorem witness_MasksAndPins :
    let s := state [0xFFFF, 7]
    let p := state [0x10000]
    let l := withCore (fun k => { k with plb := [] }) [0x10000, 0]
    ready s thread = true ∧ rd s thread (.x 0) 0xFFFF = true ∧ rd s thread (.x 1) 7 = true ∧ (0xFFFF : Word).toNat < 2 ^ 16 ∧
      (7 : Word).toNat < 8 ∧ 2 ^ 16 ≤ (0x10000 : Word).toNat ∧ ready p thread = true ∧ rd p thread (.x 0) 0x10000 = true ∧
      ready l thread = true ∧ rd l thread (.x 1) 0 = true ∧
      (let m : State := { p with migrations := [⟨1, 0x10000, 4, 0x10000, 1, some 0x40000, none⟩] }
       okAnd ((checkLines 0 0 1 .r [(0x400, 0x10000)] true).run (m.readied turn thread)) (fun ws s1 =>
         ws == [.home leaf] && stays s1 && s1.granules == m.granules && s1.frameMoving leaf)) = true ∧
      okAnd ((checkLines 0 0 1 .r [(0x400, 0x10000)] true).run (p.readied turn thread)) (fun ws s1 =>
        ws == [.home leaf] && stays s1 && s1.granules == p.granules) = true ∧
      (p.granule (leaf.phys 0x10000 / 4096)).valid = true ∧ (p.granule (leaf.phys 0x10000 / 4096)).owner = thread.vdev ∧
      (let m := moving [0x10000]
       running m turn thread = true ∧ m.translate 0 1 0x10000 = .migrating ∧ m.oldLeaf 1 0x10000 = some leaf ∧
        Need.ok .r (m.rights 0 0 1) = true ∧ m.ownerOk 0 1 0x10000 = true) := by
  decide +kernel

/-- A chunk that has read; a thread in a handler and one without UHV and UFV; a thread with UHV; and one with UFV and an
armed save area at 0x10000, on a free line and on one that an engine owns. -/
theorem witness_TrapsAreTaken :
    let read : Thread := { thread with chunk := { thread.chunk with rset := [0x400] } }
    let hd : Thread := { thread with handler := true }
    let u := withCore (fun k => { k with ctxs := [(0, { ctx with uhv := 0x10100 })] })
    let armed : Thread := { thread with fsave := 0x10001 }
    let f := withCore (fun k => { k with ctxs := [(0, { ctx with ufv := 0x10100 })] }) [] armed
    let e := ((f.giveBack 0 0).commitQuiet 0 0).newChunk 0 0
    let words (k : Thread) : List Word := [BitVec.ofNat 64 (15 * 2 ^ 59 + 0x10000),
      BitVec.ofNat 64 (armed.preds.toNat + 32 * 2 ^ 16 + 1 * 2 ^ 24 + armed.flags.toNat * 2 ^ 32), 7, 0, 0, 0, 0, 0] ++ e.window 0 k
    (state [] read).thread? 0 0 = some read ∧ read.chunk.quiet = false ∧
      (state [] hd).thread? 0 0 = some hd ∧ (state [] hd).wf ∧ hd.chunk.quiet = true ∧
      (state []).thread? 0 0 = some thread ∧ ((state []).ctx 0 0).uhv = 0 ∧ ((state []).ctx 0 0).ufv = 0 ∧
      u.thread? 0 0 = some thread ∧ (u.ctx 0 0).uhv ≠ 0 ∧
      f.thread? 0 0 = some armed ∧ (f.ctx 0 0).ufv ≠ 0 ∧ armed.fsave.toNat % 2 = 1 ∧
      (match e.thread? 0 0 with
        | some k => okAnd ((saveArea 0 0 k 0x10000 (words k)).run e) (fun _ u =>
          let k' : Thread := { k with fsave := armed.fsave - 1, flags := 0, pc := 0x10100, status := .ready }
          ((u.setThread 0 0 k').setRegs 0 16 ([0x10000, 1, 7].take 32)).entryTrap 0 k' 0x10100 == none)
        | none => false) = true ∧
      (let own := withCore (fun k => { k with
          ctxs := [(0, { ctx with ufv := 0x10100 })], stash := [(0, { entry false .clean true with owner := some 1 })] }) [] armed
       let e := ((own.giveBack 0 0).commitQuiet 0 0).newChunk 0 0
       match own.thread? 0 0, e.thread? 0 0 with
       | some h, some k => h == armed && (own.ctx 0 0).ufv != 0 && h.chunk.quiet && !h.handler &&
          (match (saveArea 0 0 k 0x10000 (saveWords k ⟨1, 7, 0, 0⟩ (e.window 0 k))).run e with
            | .error (.wait _) => true
            | _ => false) && e.takesTurns 0 0 { k with raised := some ⟨1, 7, 0, 0⟩ }
       | _, _ => false) = true := by
  simp only [State.wf]; decide +kernel

/-- A waiting thread with a request, one whose chunk has read, and one whose handler an eviction interrupted. -/
theorem witness_HandlersAreEntered :
    let on (h : Thread) := withCore (fun k => { k with ctxs := [(0, { ctx with uhv := 0x10100 })], wanting := [0] }) [] h
    let q : Irq := ⟨17, false, 7, 0, 0, false⟩
    let asks : Thread := { thread with pending := [q] }
    let read : Thread := { asks with chunk := { thread.chunk with rset := [0x400] } }
    let back : Thread := { thread with handler := true, saved := some Shadow.reset }
    ([asks, read, back] : List Thread).all (fun h => ((on h).core 0).shadow.holder.isNone && !((on h).core 0).halted &&
        ((on h).core 0).wanting.find? ((on h).mayEnter 0) == some 0 && (on h).thread? 0 0 == some h) = true ∧
      asks.saved = none ∧ asks.chunk.quiet = true ∧ ((on asks).ctx 0 0).uhv ≠ 0 ∧ read.chunk.quiet = false ∧
      (((on asks).commitQuiet 0 0).setThread 0 0 { asks with handler := true, pending := [], pc := 0x10100 }).entryTrap 0
        { asks with handler := true, pending := [], pc := 0x10100 } 0x10100 = none := by decide +kernel

/-- The home line 0x400 lies in its slice. -/
def sliced (ws : List Word := []) (h : Thread := thread) : State :=
  withCore (fun k => { k with slice := [(0, ⟨0x400, 1, Reuse.new 0 (some 64) 0 0 false, [], false⟩)] }) ws h

/-- An engine owns the line 0x400 at its home. -/
def owned (ws : List Word) : State := withCore (fun k => { k with dir := [(0x400, ⟨[], [], [], false, some 3⟩)] }) ws

/-- Formats 15, 16 and BFP with L 9; an FP32 address that is even only; a line that an engine owns; a port to a neighbour
that takes no word; and a pair into the last two registers of the window. -/
theorem witness_LoadResults :
    ready (state [0x10000]) thread = true ∧ rd (state [0x10000]) thread (.x 0) 0x10000 = true ∧ thread.takes (.x 31) ∧
      (memRef 0x10000 0 0).ranges false = some [(0x10000, 1)] ∧
      okAnd ((loadRanges 0x10000 [(0x10000, 1)] (turn.at_.use 255)).run ((state [0x10000]).readied turn thread)) (fun _ s1 => stays s1) =
        true ∧
      (ready (owned [0x10000]) thread = true ∧ thread.chunk.closing = false ∧
        (match (loadRanges 0x10000 [(0x10000, 1)] (turn.at_.use 255)).run ((owned [0x10000]).readied turn thread) with
          | .error (.wait _) => true
          | _ => false) = true) ∧
      (let p := withCore (fun k => { k with ctxs := [(0, { ctx with nbind := 0x8000 })] }) [0x10000]
       ready p thread = true ∧ p.portDead 0 0 thread .e = false ∧
        okAnd ((loadRanges 0x10000 [(0x10000, 1)] (turn.at_.use 255)).run (p.readied turn thread)) (fun _ s1 => stays s1) =
          true) ∧
      ([mkPtr 15 0 0x10000, mkPtr 16 0 0x10000, mkPtr 6 9 0x10000, mkPtr 1 0 0x10002] : List Word).all (fun p =>
        ready (state [p]) thread && rd (state [p]) thread (.x 0) p) = true ∧
      ptrFmt (mkPtr 16 0 0x10000) = 16 ∧
      ptrFormatBad (memRef (mkPtr 6 9 0x10000) 0 0).fmt (memRef (mkPtr 6 9 0x10000) 0 0).l = true ∧
      (memRef (mkPtr 1 0 0x10002) 0 0).at_ % elemSize 1 = 2 ∧ (30 : BitVec 7).toNat + 2 ≤ thread.size ∧
      ptrAddr 0x10000 % 16 = 0 ∧
      okAnd ((loadBytes 0x10000 0x10000 16 (turn.at_.use 255)).run ((state [0x10000]).readied turn thread)) (fun w s1 =>
        w.length == 16 && stays s1) = true := by
  simp only [Thread.takes]; decide +kernel

/-- The last byte of a line, and all of it. -/
theorem witness_HomeLoadBytes :
    Running (sliced []) turn thread ∧ turn.slot ≠ 63 ∧ thread.chunk.held = [] ∧ 0 < 1 ∧ 0x1003F % 64 + 1 ≤ 64 ∧
      0x10000 % 64 + 64 ≤ 64 ∧ 0x1003F < 2 ^ 55 ∧ ((sliced []).core 0).window = none ∧ (sliced []).stashFind 0 0x400 = none ∧
      (sliced []).translate 0 1 0x10000 = .ok leaf ∧ ((sliced []).rights 0 0 1).getLsbD 0 = true ∧
      leaf.phys 0x10000 / 64 = 0x400 ∧ leaf.phys 0x10000 % 64 = 0 ∧ (sliced []).ownerOk 0 1 0x10000 = true ∧
      (sliced []).dirOf 0x400 = ⟨[], [], [], false, none⟩ ∧ ((sliced []).sliceFind 0x400).isSome = true ∧
      (sliced []).soft = [] ∧ (sliced []).metaBad = [] ∧ ((sliced []).metaOf 0x400).poison = false := by
  simp only [running_iff]; decide +kernel

/-- A byte, a BFP4 nibble with `.raw`, a 64th line outside the stash; a BFP format without `.raw`; and a pair from the last
two registers. -/
theorem witness_StoreResults :
    let full : Thread := { thread with chunk := { thread.chunk with wset := List.range 63 } }
    let store (h : Thread) (p : Word) : Bool :=
      running (state [p, 5] h) turn h && rd (state [p, 5] h) h (.x 0) p && rd (state [p, 5] h) h (.x 1) 5 &&
        okAnd ((checkLines 0 0 1 .w [(0x400, p)] (held := true)).run ((state [p, 5] h).readied turn h)) (fun ws _ => ws == [.home leaf]) &&
        decide ((state [p, 5] h).outside 0 (h.chunk.wset ++ [0x400]) ≤ 64)
    store thread 0x10000 = true ∧ store full 0x10000 = true ∧ thread.guard g0 = true ∧ turn.slot ≠ 63 ∧
      ((state []).core 0).window = none ∧ (memRef 0x10000 0 0).ranges true = some [(0x10000, 1)] ∧
      (state []).stashFind 0 0x400 = none ∧
      ((memRef (mkPtr 7 10 0x20000) 0 0).ranges true = some [(0x10000, 1)] ∧ store thread (mkPtr 7 10 0x20000) = true) ∧
      (memRef (mkPtr 6 10 0x10000) 0 0).fmt = 6 ∧ ready (state [mkPtr 6 10 0x10000]) thread = true ∧
      (30 : BitVec 7).toNat + 2 ≤ thread.size ∧ ptrAddr 0x10000 % 16 = 0 := by decide +kernel

/-- A prefetch of a mapped line, of one in a page that is migrating, and of one without a page; one in a landing
handler; two lines to map, one of them mapped already; 513 lines, a BFP4
pointer, and an address that is not a line's. -/
theorem witness_StashRangeResults :
    let kept := withCore (fun k => { k with stash := [(0, entry false .dirty true)] }) [0x10000, 2]
    let e := (kept.readied turn thread).ended turn
    ready kept thread = true ∧ rd kept thread (.x 0) 0x10000 = true ∧ rd kept thread (.x 1) 2 = true ∧
      okAnd ((prefetch 0x10000 0 255).run (kept.readied turn thread)) (fun _ u => u.turn == some turn) = true ∧
      (ready (moving [0x10000]) thread = true ∧
        (match (prefetch 0x10000 0 255).run ((moving [0x10000]).readied turn thread) with
          | .error (.wait _) => true
          | _ => false) = true) ∧
      (ready (state [0x90000]) thread = true ∧ (match (prefetch 0x90000 0 255).run ((state [0x90000]).readied turn thread) with
        | .error (.wait _) => false
        | .error _ => true
        | .ok _ => false) = true) ∧
      running { withCore (fun k => { k with slots := [(63, thread)] }) with turn := some { turn with slot := 63 } }
        { turn with slot := 63 } thread = true ∧
      ptrFormatBad (ptrFmt 0x10000) (ptrL 0x10000) = false ∧ ptrAddr 0x10000 % 64 = 0 ∧
      (rangeOf 0x400 2).all (fun gl => e.translate 0 1 (64 * gl) == .ok leaf && (e.rights 0 0 1).getLsbD 0) = true ∧
      (match (rangeOf 0x400 2).foldl (fun (v : Option State) gl => v.bind (fun v => match v.stashFind 0 gl with
          | some (i, _) => some (v.rearm 0 i 0 (turn.at_.use 255))
          | none => (v.mapLine 0 gl 0 true 1 0 (some 64) 0 false).map Prod.fst)) (some (e.useLeaf 0 leaf)) with
        | some u => u.turn == some turn
        | none => false) = true ∧
      okAnd ((eachEntry (rangeOf 0x400 2) (fun c i => orWait (fun s => s.writeBack c i))).run e) (fun _ u =>
        u.turn == some turn) = true ∧
      okAnd ((eachEntry (rangeOf 0x400 2) (fun c i => orWait (fun s => s.freeEntry c i))).run e) (fun _ u =>
        u.turn == some turn) = true ∧
      ([(0x10000, 513), (mkPtr 7 10 0x20000, 512), (0x10020, 0)] : List (Word × Word)).all (fun p =>
        ready (state [p.1, p.2]) thread && rd (state [p.1, p.2]) thread (.x 0) p.1 &&
          rd (state [p.1, p.2]) thread (.x 1) p.2) = true ∧
      ((state []).mapLine 0 0x400 0 true 1 0 (some 64) 0 false).isSome = true := by decide +kernel

/-- A home access of the running thread up to the operation itself: the word's address and the state at its home. -/
def reaches (s : State) (need : Need) (q : Word) (acc : Nat) (p : Nat → State → Bool) (t : Turn := turn) : Bool :=
  okAnd ((homeWord need q).run ((s.readied t thread).ended t)) (fun pa s1 =>
    okAnd ((atHome ((⟨0, 0, 0, 1, t.at_.use 255⟩ : Who).rq q acc) pa).run s1) (fun _ s2 => p pa s2))

/-- The last word of the page, with operands in the last two registers; the sum of AADDC at its limit and beyond. -/
theorem witness_AtomicResults :
    let s := withCore (fun k => { k with regs := [(16, 0x1FFF8), (46, 5), (47, 8)] })
    ready { s with mem := [(0x1FFF8, 3)] } thread = true ∧ thread.takes (.x 4) ∧ rd s thread (.x 0) 0x1FFF8 = true ∧
      rd s thread (.x 30) 5 = true ∧ (30 : BitVec 7).toNat + 2 ≤ thread.size ∧ s.reg 0 46 = 5 ∧ s.reg 0 47 = 8 ∧
      ptrAddr 0x1FFF8 % 8 = 0 ∧
      ([3, 4] : List Byte).all (fun n => reaches { s with mem := [(0x1FFF8, n)] } .rw 0x1FFF8 0 (fun pa s2 =>
        stays (s2.squashMeeting 0 0 [0x1FFF8 / 64]) && (s2.wordAt pa).toNat == n.toNat && memWf s2.mem)) = true := by
  simp only [Thread.takes]; decide +kernel

/-- A full word and an empty one, a count that is reached and one that is not, that issued with SYNCLIM 0 and 1, beside a park table of
15 entries. -/
theorem witness_SyncResults :
    let busy (n : Nat) : Tbl Park := (List.range n).map (fun k => (k, ⟨9, 9, 0x20000, 0, 1, 64⟩))
    let lim (n : Nat) : Turn := { turn with at_ := { turn.at_ with limit := n } }
    let s (n : Nat) : State := { withCore (fun k => { k with park := busy 15 }) [0x10000, 4] with turn := some (lim n) }
    let empty (n : Nat) : State := { s n with metas := [(0x400, ⟨0, false, 1⟩)] }
    ([0, 1] : List Nat).all (fun n => ([s n, empty n] : List State).all (fun s =>
      running s (lim n) thread && rd s thread (.x 0) 0x10000 && rd s thread (.x 1) 4 &&
        ([(.rw, 0), (.w, 1), (.r, 0)] : List (Need × Nat)).all (fun m => reaches s m.1 0x10000 m.2 (t := lim n) (fun pa s2 =>
          s2.turn == some (lim n) && (s2.thread? 0 0).isSome && s2.full pa == s.full 0x10000 && s2.wordAt pa == 0 && homeOf pa == 0 &&
            (s2.core 0).refusals.isEmpty && (s2.core 0).park.length == 15 && (s2.core 0).park.free 16 == some 15)))) = true ∧
      thread.guard g0 = true ∧ thread.chunk.quiet = true ∧ (s 1).full 0x10000 = true ∧ (empty 1).full 0x10000 = false ∧ thread.takes (.x 1) ∧ thread.takes .zr ∧
      rd (s 1) thread .zr 0 = true := by
  simp only [Thread.takes]; decide +kernel

/-- Counts 0, 1, 2 of a join block, and a count of 1 with a malformed record. -/
theorem witness_JoinResults :
    let s (n : Byte) (w0 : Word) : State := { state [0x10000] with
      mem := memWrite [] 0x10000 (n :: List.replicate 31 0 ++ wordBytes [w0, 0x10040, 0, 0]) }
    ([(0, 0), (1, 0x20000), (2, 0), (1, 0x20001)] : List (Byte × Word)).all (fun p =>
      ready (s p.1 p.2) thread && rd (s p.1 p.2) thread (.x 0) 0x10000 &&
        reaches (s p.1 p.2) .rw 0x10000 0 (fun pa s2 =>
          let u := s2.squashMeeting 0 0 [0x400]
          let rec_ := leWords (memRead u.mem (pa + 32) 32) 4
          stays u && (u.wordAt pa).toNat == p.1.toNat && (recordBad rec_).isSome == (p.2 == 0x20001) &&
            (p.2 ≠ 0x20000 || okAnd ((homeOfData (rec_.getD 1 0)).run u) (fun home s3 => s3.turn == some turn &&
              match (u.thread? 0 0) with
              | some k => (((s3.putWord pa 0).wrote (pa / 64)).send (.task (s3.recordCore 0 home) (recordOf rec_ 1 1)) (homeOf pa)).thread? 0 0 ==
                  some k
              | none => false)))) = true := by decide +kernel

/-- SPAWN below its limit and at it; POST of a record and of a malformed one; HOP with a window of 16 to the own core and to
another, with one of 24, and from a handler. -/
theorem witness_TaskInstructions :
    let spawn (count : Nat) := withCore (fun k => { k with
      tasks := [(0, { Task.fresh 0 0 0 with limit := 2, count := count })], regs := [(16, 0x20000), (46, 1), (47, 2)] })
    let r : TaskRec := ⟨0x20000, true, false, 32, [1, 2], 1, 1, some 0⟩
    let post (w0 : Word) := withCore (fun k => { k with regs := [(44, w0), (45, 0x10000)] })
    let small : Thread := { thread with size := 16 }
    let far : Leaf := ⟨1, 0x200000, 9, 0x400000, 1⟩
    let hop (a : Word) := withCore (fun k => { k with mtc := [leaf, far] }) [a] small
    let wide : Thread := { thread with size := 24 }
    let hd : Thread := { thread with handler := true }
    ([1, 2] : List Nat).all (fun n => ready (spawn n) thread && rd (spawn n) thread (.x 0) 0x20000 &&
        (spawn n).reg 0 46 == 1 && (spawn n).task 0 0 == { Task.fresh 0 0 0 with limit := 2, count := n } &&
        ((((spawn n).readied turn thread).ended turn).enqueue 0 r).isSome) = true ∧
      (30 : BitVec 7).toNat + 2 ≤ thread.size ∧ (28 : BitVec 7).toNat + 4 ≤ thread.size ∧
      (ready (post 0x20000) thread = true ∧
        okAnd ((homeOfData 0x10000).run ((post 0x20000).readied turn thread)) (fun _ s1 => s1.turn == some turn &&
          s1.thread? 0 0 == some { thread with status := .ready }) = true ∧ recordBad [0x20000, 0x10000, 0, 0] = none) ∧
      (ready (post 0x20001) thread = true ∧ (recordBad [0x20001, 0x10000, 0, 0]).isSome = true) ∧
      ([(0x10000, leaf), (0x200000, far)] : List (Word × Leaf)).all (fun p => ready (hop p.1) small &&
        rd (hop p.1) small (.x 0) p.1 && (hop p.1).translate 0 1 p.1.toNat == .ok p.2 &&
        (hop p.1).samePart 0 (homeOf (p.2.phys p.1.toNat)) && (hop p.1).routeOk 0 (homeOf (p.2.phys p.1.toNat)) &&
        !((hop p.1).core (homeOf (p.2.phys p.1.toNat))).fenced) = true ∧ (hop 0).wf ∧
      homeOf (leaf.phys 0x10000) = 0 ∧ homeOf (far.phys 0x200000) = 1 ∧
      (((((hop 0x10000).readied turn small).useLeaf 0 leaf).ended turn).freeSlot 0 0 true |>.arrive 0 0 (fun n => .travel n
        ⟨List.replicate 10 0, [], 1, 0x10004, 0, false, false, 1, 0, 1, 0x10000, 1, 1, []⟩)).isSome = true ∧
      (running (state [] wide) turn wide = true ∧ 16 < wide.size) ∧ running (state [] hd) turn hd = true := by
  simp only [State.wf]; decide +kernel

/-- A set wake bit; payloads of 1 and 8 to slot 0 of core 0; an id with a low bit set, of slot 62 and of a core outside the
partition; mail of as many words as the window has room for, one more, and none. -/
theorem witness_MessageInstructions :
    let woken : Thread := { thread with wake := true }
    let mail (n : Nat) : Mail := ⟨1, 0, 3, 9, List.replicate n 7⟩
    let box (n : Nat) := withCore (fun k => { k with mail := [mail n] }) [0]
    let half (id : Word) : State := { state [id] with nodes := [(1, { Node.free with st := .split }), (2, node), (3, .free)] }
    running (state [] woken) turn woken = true ∧ ready (state []) thread = true ∧ thread.wake = false ∧
      thread.chunk.closing = false ∧
      (rd (state [0]) thread (.x 0) 0 = true ∧ (24 : BitVec 7).toNat + ((7 : BitVec 3).toNat + 1) ≤ thread.size ∧
        (31 : BitVec 7).toNat + ((0 : BitVec 3).toNat + 1) ≤ thread.size ∧ (0 : Word).toNat % 2 ^ 16 = 0 ∧
        ((state [0]).core 0).fenced = false ∧ (state [0]).samePart 0 0 = true) ∧
      ([1, 62 * 2 ^ 38] : List Word).all (fun id => ready (state [id]) thread && rd (state [id]) thread (.x 0) id) = true ∧
      (62 * 2 ^ 38 : Word).toNat / 2 ^ 38 % 2 ^ 6 = 62 ∧
      ([0xFFFFF * 2 ^ 44] : List Word).all (fun id => ready (half id) thread && rd (half id) thread (.x 0) id &&
        !(half id).samePart 0 (id.toNat / 2 ^ 44)) = true ∧
      ([3, 4] : List Nat).all (fun n => ready (box n) thread && ((box n).mailFor 0 1).head? == some (mail n) &&
        (box n).mailFree 0 0 1 != 0) = true ∧
      (28 : BitVec 7).toNat + 1 + (mail 3).payload.length ≤ thread.size ∧
      thread.size < (28 : BitVec 7).toNat + 1 + (mail 4).payload.length ∧
      (state []).mailFor 0 1 = [] ∧ (state []).mailFree 0 0 1 = 0 := by decide +kernel

/-- Ends 15 of the roles and states that the clauses name, and alternatives of two receiving ends and the mailbox queue, of
which the second is ready, and none. -/
theorem witness_ChannelInstructions :
    let s (e : Tbl ChanEnd) (mail : List Mail := []) := withCore (fun k => { k with ends := e, mail := mail }) [5, 1]
    let recv (buf : List Word) : ChanEnd := ⟨0, true, 1, 2, 0, buf⟩
    let send (allow : Nat) : ChanEnd := ⟨0, false, 1, 2, allow, []⟩
    let other : ChanEnd := ⟨3, true, 1, 2, 0, []⟩
    let alts (buf : List Word) := withCore (fun k => { k with
      ends := [(1, recv []), (2, recv buf)], regs := [(16, 0), (17, 0x21)] })
    ready (s []) thread = true ∧ (15 : BitVec 8).toNat < 16 ∧ (s []).reads 0 thread (.x 0) 5 ∧
      (s []).reads 0 thread (.x 1) 1 ∧ ((s []).core 0).ends.find? 15 = none ∧ ((s []).core 5).fenced = false ∧
      (s []).samePart 0 5 = true ∧ thread.takes (.x 4) ∧
      ([recv [], recv [8], send 0, send 1, other] : List ChanEnd).all (fun e =>
        ready (s [(15, e)]) thread && ((s [(15, e)]).core 0).ends.find? 15 == some e) = true ∧
      ([[], [8]] : List (List Word)).all (fun b => ready (alts b) thread && (alts b).reg 0 17 == 0x21 &&
        ((alts b).core 0).ends.find? 1 == some (recv []) && ((alts b).core 0).ends.find? 2 == some (recv b) &&
        ((alts b).mailFor 0 1).isEmpty) = true ∧
      (((s []).core 0).ends.find? ((s []).reg 0 17).toNat = none ∧ (s []).reg 0 17 = 1) ∧ (3 : BitVec 5).getLsbD 0 = true ∧ (3 : BitVec 5).getLsbD 1 = true ∧ (3 : BitVec 5).getLsbD 2 = false ∧
      (3 : BitVec 5).getLsbD 4 = false ∧ (0 : BitVec 7).toNat + 2 ≤ thread.size := by
  simp only [State.reads, Thread.takes]; decide +kernel

/-- The running thread's commands: no next use, no shift, class 0. -/
def issued : Issuer := ⟨0, 1, 0, 0, 0, 1, 255, 64, 0, 1024, 1⟩

/-- A copy of one row of 64 bytes from 0x10000 to 0x10100 that has been read. -/
def copy : Copy :=
  { id := 7, iss := issued, src := 0x10000, dst := 0x10100, hidx := 0, hgen := 0, tag := 9, rows := 1, rowbytes := 64, spitch := 0
    dpitch := 0, ctr := 0, ox := 0, oy := 0, wm1 := 0, hm1 := 0, blk := 0, land := 0, cmode := 0, intr := false, start := 0
    dspan := 0, pin := false, st := .reading, e := 0, stopAt := 64, faultAt := none, status := none, revoked := false
    cancelled := false, sent := 0, flying := 1, landed := 0, firstLost := none, rowsDone := [], extent := [(0, 0x404)]
    linesDone := [], seen := [], pinned := [], hosts := [], dram := 0, owed := 0 }

/-- That copy's packet. -/
def packet : LandPkt := ⟨0, 0, 7, 0, 0x10100, 0, List.replicate 64 9, false⟩

/-- Descriptors at 0x10100: rows of 0, 65,536 and 65,537 bytes; reserved bits of words 4 and 5; a start at the end and beyond
it; a span without a slab and with one; a counter. -/
theorem witness_CopyRequests :
    let s (ws : List Word) (b : Tbl Copy := []) : State :=
      { withCore (fun k => { k with regs := [(44, 0x10000), (45, 0x10200), (46, 0x10100), (47, 0)], barrow := b }) with
        mem := memWrite [] 0x10100 (wordBytes ws) }
    let loads (ws : List Word) (b : Tbl Copy := []) : Bool :=
      ready (s ws b) thread &&
      okAnd ((loadEnd 0x10100 0x10100 64).run (((s ws b).readied turn thread).ended turn)) (fun bs s1 =>
        bs.length == 64 && bs == wordBytes ws &&
        running s1 turn { thread with status := .ready, chunk := { thread.chunk with held := [], pins := [], closing := true } } &&
        (s1.core 0).barrow == b && !(s1.core 0).fenced && s1.samePart 0 0 &&
        okAnd ((checkLines 0 0 1 .rw [(0x10400 / 64, 0x10400)] true).run s1) (fun _ s2 => (s2.core 0).barrow == b))
    (28 : BitVec 7).toNat + 4 ≤ thread.size ∧ turn.slot ≠ 63 ∧ ((s []).core 0).regPoison = [] ∧
      ([[0, 0, 0, 0, 0, 0, 0, 0], [1 + 65536 * 2 ^ 32, 0, 0, 0, 0, 0, 65536, 0], [1 + 65537 * 2 ^ 32, 0, 0, 0, 0, 0, 0, 0],
        [1 + 64 * 2 ^ 32, 0, 0, 0, 2 ^ 56, 0, 0, 0], [1 + 64 * 2 ^ 32, 0, 0, 0, 0, 2 ^ 11, 0, 0],
        [1 + 64 * 2 ^ 32, 0, 0, 0, 0, 3 * 2 ^ 8, 0, 0], [1 + 64 * 2 ^ 32, 0, 0, 0, 0, 0, 65, 0],
        [1 + 64 * 2 ^ 32, 0, 0, 0, 0, 0, 64, 1], [1 + 64 * 2 ^ 32, 0, 0, 0, 2 ^ 40, 0, 0, 1],
        [1 + 64 * 2 ^ 32, 0, 0, 0x10400, 0, 0, 0, 0]] : List (List Word)).all loads = true ∧
      ptrFmt 0x10400 = 0 ∧ ptrAddr 0x10400 % 8 = 0 ∧
      loads [1 + 64 * 2 ^ 32, 0, 0, 0, 0, 0, 0, 0] ((List.range 8).map (fun r => (r, copy))) = true ∧
      ((s [] ((List.range 7).map (fun r => (r, copy)))).core 0).barrow.free 8 = some 7 := by decide +kernel

/-- No copy of the tag; the older of two of it. -/
theorem witness_CopyStatusAndCancel :
    let s := withCore (fun k => { k with barrow := [(2, { copy with id := 8 }), (5, copy)] }) [9, 10]
    ready s thread = true ∧ rd s thread (.x 0) 9 = true ∧ rd s thread (.x 1) 10 = true ∧ thread.takes (.x 4) ∧
      (s.core 0).barrow.all (fun p => p.2.tag != (10 : Word).setWidth 32) = true ∧ (5, copy) ∈ (s.core 0).barrow ∧
      copy.tag = (9 : Word).setWidth 32 ∧
      (s.core 0).barrow.all (fun p => p == (5, copy) || decide (copy.id < p.2.id)) = true := by
  simp only [Thread.takes]; decide +kernel

/-- A thread outside the riddle; a handler on it that stores inside the extent, outside it and unaligned; a packet that is
written directly. -/
theorem witness_LandingInstructions :
    let on (p : Word) (land : Nat) : State := { withCore (fun k => { k with
        slots := [(63, thread)], barrow := [(0, { copy with land := land })], landRun := some ⟨packet, 0, 1, 0⟩ }) [5, p] with
      turn := some { turn with slot := 63 } }
    let t : Turn := { turn with slot := 63 }
    let direct := withCore (fun k => { k with barrow := [(0, copy)], landing := [packet] })
    ready (state []) thread = true ∧ turn.slot ≠ 63 ∧
      ([0x10100, 0x10140, mkPtr 9 0 0x10101] : List Word).all (fun p =>
        running (on p 3) t thread && ((on p 3).core 0).landRun == some ⟨packet, 0, 1, 0⟩ &&
          (on p 3).copyOf packet == some { copy with land := 3 } && rd (on p 3) thread (.x 0) 5 && rd (on p 3) thread (.x 1) p) =
        true ∧
      (match ((on 0 3).readied t thread).landed 0 packet with
        | some u => u.turn == some t && (u.core 0).slots.wf
        | none => false) = true ∧
      (copy.piece 0).slab = none ∧ copy.extent.contains (0, (memRef 0x10140 0 0).at_ / 64) = false ∧
      (memRef (mkPtr 9 0 0x10101) 0 0).at_ % elemSize 9 = 1 ∧
      (copy.extent.contains (0, (memRef 0x10100 0 0).at_ / 64) = true ∧
        (on 0x10100 3).translate 0 1 0x10100 = .ok leaf ∧ homeOf (leaf.phys 0x10100) = 0 ∧
        (match ((on 0x10100 3).readied t thread).engineWrite issued 7 (2 ^ 20) 0x10100 [(5, 3)] 255 false with
          | some (u, _) => u.turn == some t
          | none => false) = true) ∧
      ((direct.core 0).landing = [packet] ∧ direct.copyOf packet = some copy ∧ copy.hosts.contains 0 = false ∧ direct.translate 0 1 0x10100 = .ok leaf ∧
        direct.ownerOk 0 1 (leaf.phys 0x10100) = true ∧
        (match (direct.modCore 0 (fun k => { k with landing := [] })).engineWrite issued 7 (2 ^ 20) 0x10100 (whole packet.bytes) 255
            false with
          | some (u, miss) => ((u.costCopy packet miss).landed 0 packet).isSome
          | none => false) = true) := by decide +kernel

/-- INT8 tiles at 0x10000 and 0x11000 into 0x12000; a ring word of one core; no descriptor, and one at 0x13000 with a
trigger and the capability of the core's queue; a command of
the thread in a queue; a queue with a command in its shadow set, and one that another thread waits for. -/
theorem witness_MatrixInstructions :
    let tl : MTail := ⟨0, 0, 0, false, .ptr, 255⟩
    let a := mkPtr 8 0 0x10000
    let b := mkPtr 8 0 0x11000
    let c := mkPtr 10 0 0x12000
    let s (r : Word) : State := { withCore (fun k => { k with regs := [(44, a), (45, b), (46, c), (47, r)], capGen := 1 }) with
      mem := memWrite [] 0x13000 (wordBytes [16 + 16 * 2 ^ 16 + 32 * 2 ^ 32, 32 + 32 * 2 ^ 16 + 16 * 2 ^ 32, 0x13040, 1, 0, 0,
        2 ^ 32 + 2 ^ 17, 0]) }
    let ring : Word := 2 ^ 20 + 32 * 2 ^ 44
    let made (r : Word) (d : MDesc) (rg : Option (Nat × Nat × Nat)) (remote : Bool) (p : State → MCmd → Bool) : Bool :=
      ready (s r) thread &&
      okAnd ((matrixCommand tl a b c 8 8 d rg remote).run ((s r).readied turn thread)) (fun m s2 => stays s2 && p s2 m)
    let desc : MDesc := ⟨16, 16, 32, 32, 32, 16, 0x13040, 1, 0, false, false, false, 0, 2 ^ 32 + 2 ^ 17, false⟩
    let formed (r p : Word) : Bool :=
      okAnd ((matrixFormats tl a b c p).run ((s r).readied turn thread)) (fun f s1 => f == (8, 8) && s1 == (s r).readied turn thread) &&
      okAnd ((matrixAlign a b c 8 8).run ((s r).readied turn thread)) (fun _ s1 => s1 == (s r).readied turn thread)
    turn.slot ≠ 63 ∧ (28 : BitVec 7).toNat + 4 ≤ thread.size ∧ ((s 0).core 0).regPoison = [] ∧
      formed 0 0 = true ∧ formed ring 0 = true ∧ made 0 (.single 32) none false (fun _ _ => true) = true ∧
      (ring.toNat / 2 ^ 55 = 0 ∧ ring.toNat / 2 ^ 32 % 2 ^ 12 < ring.toNat / 2 ^ 20 % 2 ^ 12 ∧ ring.toNat / 2 ^ 44 % 2 ^ 9 = 32 ∧
        ((s ring).core (ring.toNat % 2 ^ 20)).fenced = false ∧
        okAnd ((matrixShape 8 8 { MDesc.single 32 with k := 32 } (some (0, 1, 0))).run ((s ring).readied turn thread)) (fun _ s1 =>
          s1 == (s ring).readied turn thread) = true ∧
        made ring { MDesc.single 32 with k := 32 } (some (0, 1, 0)) false (fun _ _ => true) = true) ∧
      ([(0, .single 32), (0x13000, desc)] : List (Word × MDesc)).all (fun p =>
        formed p.1 p.1 && okAnd ((descAlign p.1).run ((s p.1).readied turn thread)) (fun _ s1 =>
          s1 == (s p.1).readied turn thread &&
          okAnd ((matrixDesc a b c p.1 8 8).run s1) (fun d s2 => stays s2 && d == p.2 && !(s2.core 1).fenced &&
            (s2.core 0).capOk d.cap false == (p.1 != 0) && ((s2.core 0).queueOf false).shadow.isNone &&
            s2.routeOk 0 1 && ([false, true] : List Bool).all (fun rem =>
              okAnd ((matrixCommand tl a b c 8 8 d none rem).run s2) (fun m s3 => stays s3 && (!rem || (s3.refuseCmd 0 m).turn ==
                some turn)))))) = true ∧
      made 0 (.single 32) none false (fun _ m =>
        let q := withCore (fun k => { k with lo := ⟨some m, none, none⟩ })
        ready q thread && !m.remote && m.iss.core == 0 && m.iss.thread == 1 && m.iss.hops == thread.hops &&
        (q.core 0).lo.active == some m) = true ∧
      ((state []).core 0).lo.active = none ∧ ((state []).core 0).lo.shadow = none ∧
      made 0 (.single 32) none false (fun u m =>
        let w : State := u.setThread 0 0 { thread with status := .matrix false m }
        (w.core 0).waitsBefore false m.id == false && (w.core 0).lo.shadow.isNone &&
        (((w.modCore 0 (fun k => { k with lo := ⟨none, some m, none⟩ })).core 0).queueOf false).shadow.isSome &&
        ((w.modCore 0 (fun k => { k with slots := k.slots ++ [(5, { thread with status := .matrix false { m with id := 0 } })] })).core
          0).waitsBefore false (m.id + 1)) = true := by decide +kernel

/-- FP16 rows at 0x14000, a root record at 0x11000 of K 1, outputs at 0x12000 and progress records at 0x13000, all zeros
but the format; and a root record that is malformed. -/
theorem witness_WalkIssues :
    let rt := mkPtr 3 0 0x14000
    let root := mkPtr 12 0 0x11000
    let out := mkPtr 1 0 0x12000
    let s := withCore (fun k => { k with regs := [(44, rt), (45, root), (46, out), (47, 0x13000)] })
    let writes := lineSet [(0x12000, 1024), (0x13000, 256)]
    turn.slot ≠ 63 ∧ (28 : BitVec 7).toNat + 4 ≤ thread.size ∧ (30 : BitVec 7).toNat + 2 ≤ thread.size ∧
      ([({ s with mem := [(0x11000, 3)] }, true), (s, false)] : List (State × Bool)).all (fun p =>
        let s := p.1
        let good := p.2
        ready s thread && (s.core 0).regPoison.isEmpty && (s.core 0).regSoft.isEmpty &&
      okAnd ((walkOperands rt root out 0x13000).run (s.readied turn thread)) (fun _ v => v == s.readied turn thread) &&
      okAnd ((checkLines 0 0 1 .w (atLines writes)).run (s.readied turn thread)) (fun _ s1 =>
        running s1 turn { thread with status := .ready } && ((s1.ended turn).core 0).trellis.isNone &&
        okAnd ((issuer 255 0).run (s1.ended turn)) (fun q s2 =>
          let id := s2.nextCmd
          let j0 : WalkJob := ⟨id, q, 30, rt, root, 0x12000, 0x13000, none, false, 0, 0, 0, 0, [], true, false, []⟩
          let rest (dep : Nat) (j1 : WalkJob) (s4 : State) : Bool :=
            match s4.takeLines q id 0 writes with
            | some (s5, taken) =>
              match s5.walkRead { j1 with dram := j1.dram + taken } [(0x13000, 256)] with
              | some (pb, _, j2, s6) =>
                let rows := (List.range 16).map (fun r => (WalkRow.read (((pb.getD 0 []).drop (16 * r)).take 16)).start false root)
                rows.all (fun w => w.runs && !w.carried) &&
                (match s6.walkRead j2 ((List.range 16).map (fun r => (j2.outAt r, 0 * dep))) with
                  | some (_, _, _, s7) => stays s7
                  | none => false)
              | none => false
            | none => false
          (s2.ridge.service == 1) == false &&
          (match ({ s2 with nextCmd := id + 1 } : State).walkFetch j0 none root with
            | some (found, j1, s3) => found.isSome == good && (match found with
              | some (_, dep) => okAnd ((checkLines 0 0 1 .r (atLines (lineSet (rowRanges rt 0 (16 * rowPitch dep))))).run s3)
                  (fun _ s4 => rest dep j1 s4)
              | none => rest 0 j1 s3)
            | none => false)))) = true := by decide +kernel

/-- A forest of one tree of one node at 0x11000; 1 and 16 samples. -/
theorem witness_ForestIssues :
    let a := mkPtr 1 0 0x14000
    let rec_ := mkPtr 13 0 0x11000
    let out := mkPtr 1 0 0x12000
    let s (n : Word) : State := { withCore (fun k => { k with regs := [(44, a), (45, rec_), (46, out), (47, n)] }) with
      mem := [(0x11008, 1)] }
    ([1, 16] : List Nat).all (fun n =>
      let s := s (BitVec.ofNat 64 n)
      let writes := lineSet [(0x12000, 4 * n)]
      ready s thread && (s.core 0).regPoison.isEmpty &&
      okAnd ((checkAll 0 0 1 ((lineSet [(0x11000, 144), (0x14000, 64 * (n - 1) + 4)]).map
          (fun l => ⟨.r, l, BitVec.ofNat 64 (64 * l), false⟩) ++ writes.map (fun l => ⟨.w, l, BitVec.ofNat 64 (64 * l), false⟩))).run
          (s.readied turn thread)) (fun _ s1 =>
        running s1 turn { thread with status := .ready } && ((s1.ended turn).core 0).trellis.isNone &&
        okAnd ((issuer 255 0).run (s1.ended turn)) (fun q s2 =>
          let s2' : State := { s2 with nextCmd := s2.nextCmd + 1 }
          match s2'.readOnce q 0 [] [(0x11000, 16)] with
          | some hb => !hb.bad && forestHeaderOk (hb.bytes.getD 0 []) && forestHeader (hb.bytes.getD 0 []) == (1, 1, 1, 0) &&
            okAnd ((checkLines 0 0 1 .r (atLines (lineSet [(0x11000, forestNodes 1 + 16), (0x14000, 64 * (n - 1) + 4)]))).run hb.state)
              (fun _ s3 => match s3.takeLines q s2.nextCmd 0 writes with
                | some (s4, _) => stays s4
                | none => false)
          | none => false))) = true ∧
      ptrFmt a = 1 ∧ ptrFmt rec_ = 13 ∧ ptrFmt out = 1 ∧ (28 : BitVec 7).toNat + 4 ≤ thread.size ∧
      (30 : BitVec 7).toNat + 2 ≤ thread.size := by decide +kernel

/-- A record of one neighbour with a header byte, on the lines from 0x10000, all in the stash. -/
def gauss (head : Byte) (r1 r2 : Word) (f : Context → Context := id) : State :=
  withCore (fun k => { k with
    regs := [(45, mkPtr 14 0 0x10000), (46, r1), (47, r2)], ctxs := [(0, f ctx)]
    stash := (List.range 8).map (fun i => (i, { entry true .dirty false with
      line := 0x400 + i
      data := if i = 0 then head :: List.replicate 63 0
        else if i = 1 then leBytes 8 (mkPtr 14 0 0x10000).toNat ++ List.replicate 56 0 else List.replicate 64 0 })) })

/-- A factor, a variable and a malformed record with slots 0 and 1 named; a record on lines that are not mapped; an image at
0x10800; a firing queue that is empty, has a current and a next part, and names what is no record; a successor that is none;
and a unit that is at work. -/
theorem witness_GaussianInstructions :
    let p := mkPtr 14 0 0x10000
    let known (sa : State) (j : Nat) : Bool := sa.fillable 0 1 ((0x400 + j) % 2 ^ 49)
    let isRec (s : State) (k : GRec → (Nat → Bool) → Nat → State → Bool) : Bool :=
      let r0 := s.readied turn thread
      let q0 := r0.unitIssuer 0 0 1
      ready s thread && (s.core 0).regPoison.isEmpty && (s.core 0).regSoft.isEmpty && r0.lineMapped 0 1 0x400 &&
      r0.fillable 0 1 0x400 &&
      match r0.gaussSize q0 0 0x10000 with
      | some (some size, _, sa) =>
        (match sa.gaussKnown q0 0 0x10000 size (known sa) with
          | some (r, _, s0) => k r (known sa) size s0
          | none => false)
      | _ => false
    let accepts (writes : List Nat) (others : List Access) (more : Bool) (r : GRec) (size : Nat) (s0 : State) : Bool :=
      okAnd ((checkAll 0 0 1 (recAccess p 0x10000 size writes ++ others)).run s0) (fun _ s1 =>
        stays s1 && ((s1.thread? 0 0).getD thread).chunk.quiet &&
        okAnd ((issuer 255 0).run (s1.ended turn)) (fun q s2 =>
          let s2' : State := { s2 with nextCmd := s2.nextCmd + 1 }
          match (if more then (s2'.readOnce q q.core [] [(0x10800, 56)]).map RangeRead.state else some s2') with
          | some x => (match x.takeLines q s2.nextCmd 0 (recLines r.addr r.n) with
            | some (s3, _) => s3.turn == some turn
            | none => false)
          | none => false))
    let line (w : Word) : List Byte := 1 :: List.replicate 15 0 ++ leBytes 8 w.toNat ++ List.replicate 40 0
    let pop (now next : List Word) (succ : Word := 0) : State :=
      (gauss 1 0 0 (fun x => { x with fireNow := now, fireNext := next })).modCore 0 (fun k => { k with
        stash := k.stash.map (fun e => if e.1 = 0 then (0, { e.2 with data := line succ }) else e) })
    let popped (s : State) : State := ((s.readied turn thread).ended turn).modCtx 0 0 (fun y => { y with fireNow := [] })
    ptrFmt p = 14 ∧ (29 : BitVec 7).toNat + 3 ≤ thread.size ∧ turn.slot ≠ 63 ∧ ptrFmt (mkPtr 14 0 0x18000) = 14 ∧
      (let s := (gauss 1 0 0).setReg 0 45 (mkPtr 14 0 0x18000)
       ready s thread = true ∧ (s.core 0).regPoison = [] ∧ (s.readied turn thread).lineMapped 0 1 0x600 = false) ∧
      isRec (gauss 1 0 0) (fun r f n s0 => !r.malformed f && r.factor && r.n == 1 && accepts [0, 7] (r.neighbours f) false r n s0) = true ∧
      isRec (gauss 0 0 0) (fun r f n s0 => !r.malformed f && !r.factor && accepts [0, 4, 7] (r.neighbours f) false r n s0) = true ∧
      isRec (gauss 1 0x100 0x10800) (fun r f n s0 => !r.malformed f && r.n == 1 &&
        accepts [0, 6] [⟨.r, 0x420, 0x10800, false⟩] true r n s0) = true ∧
      isRec (gauss 0x40 0 0) (fun r f _ _ => r.malformed f) = true ∧ isRec (gauss 1 1 0) (fun r _ _ _ => r.n == 1) = true ∧
      ([pop [] [], pop [p] [], pop [] [p], pop [mkPtr 14 0 0x18000] [p]] : List State).all (fun s => ready s thread &&
        ((((s.readied turn thread).ended turn).core 0).gaussNow ((s.readied turn thread).ended turn).now).isNone) = true ∧
      thread.takes (.x 4) ∧ turn.at_.work = none ∧
      (let s : State := { state [] with cores := [(0, { core [] thread with gaussFree := 9, gaussSeq := 3 })] }
       ready s thread = true ∧ (((s.readied turn thread).ended turn).core 0).gaussNow ((s.readied turn thread).ended turn).now =
        some 3) ∧
      (popped (pop [mkPtr 14 0 0x18000] [p])).lineMapped 0 1 0x600 = false ∧
      ([(0, 0), (mkPtr 14 0 0x18000, 1), (p, 2)] : List (Word × Nat)).all (fun a =>
        let v := popped (pop [p] [] a.1)
        let q := v.unitIssuer 0 0 1
        v.lineMapped 0 1 0x400 && match v.engineReads q 0 [0x400] with
        | some (imgs, _, _, w) => leNat (slice (imgs.getD 0 (0, [])).2 16 8) == a.1.toNat &&
          (match w.gaussSetHead q 0 0 p id with
            | some (w1, _) => (match a.2, w1.gaussSize q 0 (ptrAddr a.1) with
              | 0, _ => stays w1
              | 1, some (none, _, w2) => stays w2
              | 2, some (some _, _, w2) => (match w2.gaussPush q 0 0 a.1 false with
                | some (w3, _) => stays w3
                | none => false)
              | _, _ => false)
            | none => false)
        | _ => false) = true := by
  simp only [Thread.takes]; decide +kernel
/-- A packet from core 1 is the first in flight. -/
def arriving (p : Packet) (s : State := state []) : State := { s with wire := [⟨p, 1, 0, false, none, 1⟩] }

/-- It is the one that arrives. -/
def arrives (s : State) : Bool := (s.flight? 0).isSome && s.flight? 0 == s.wire[0]?

/-- The partition of device 1, which reserves `n` lines of its spill space, and of device 2, which reserves `m`. -/
def spilled (n m : Nat) (q : List TaskRec) : State := { withCore (fun k => { k with queue := q }) with
  nodes := [(1, { node with owners := [Owner.fresh { OwnerEntry.plain 1 with resSpill := n } 0,
    Owner.fresh { OwnerEntry.plain 2 with resSpill := m } 0] })] }

/-- Where another device reserves all of the spill space, whatever its size, none is open. -/
theorem spill_closed (s : State) (n : Nat) (h : s.ownersAt 0 = [Owner.fresh { OwnerEntry.plain 1 with resSpill := 0 } 0,
    Owner.fresh { OwnerEntry.plain 2 with resSpill := Config.spillPool } 0]) (k : 0 < n) : s.spillOpen 0 1 n = false := by
  simp [State.spillOpen, h, poolOpen, Owner.fresh, OwnerEntry.plain]; omega

/-- Where the device's own reservation is not used, its lines are open. -/
theorem spill_open (s : State) (n : Nat) (h : s.ownersAt 0 = [Owner.fresh { OwnerEntry.plain 1 with resSpill := 1000 } 0,
    Owner.fresh { OwnerEntry.plain 2 with resSpill := 0 } 0]) (u : s.spillUsed 0 1 = 0) (k : n ≤ 1000) : s.spillOpen 0 1 n = true := by
  have u : s.spillUsed 0 1#11 = 0 := u
  simp [State.spillOpen, h, poolOpen, Owner.fresh, OwnerEntry.plain, u]; omega

/-- A task record. -/
def record : TaskRec := ⟨0x10000, false, true, 8, [1, 2, 3, 4], 1, 1, none⟩

/-- A travelling context. -/
def travel : Travel := ⟨List.replicate 10 7, [], 1, 0x10000, 0, false, false, 1, 5, 1, 0, 1, 0, []⟩

/-- A command of the matrix unit that runs. -/
def mcmd : MCmd :=
  { id := 7, iss := issued, a := mkPtr 8 0 0x10000, b := mkPtr 8 0 0x11000, c := mkPtr 10 0 0x12000, m := 16, n := 16, k := 64
    lda := 64, ldb := 64, ldc := 16, fmtA := 8, fmtB := 8, sa := 0, sb := 0, trig := 0, thr := 0, rag := none, init := false
    notify := true, intr := false, tag := 9, remote := false, ring := none, granted := true, fired := true, live := none
    ended := false, rstep := 0, rb := 0, ct := 0, kk := 1, steps := 0, rows := 0, flags := 0, cycles := 0, run := false, passed := false
    nextRead := 0, out := false, tile := [], ringBad := false, acc := [], seen := [], tileBad := false, dram := 0 }

/-- The task queue below 64 entries; with 64 of them, the spill space open and closed. -/
theorem witness_PacketArrivals_task :
    let ask (s : State) := arriving (.task 0 record) s
    let long := List.replicate 64 record
    (arrives (ask (state [])) = true ∧ ((ask (state [])).core 0).queue.length < 64 ∧ ((ask (state [])).core 0).spill = []) ∧
      (arrives (ask (spilled 1000 0 long)) = true ∧ 64 ≤ ((ask (spilled 1000 0 long)).core 0).queue.length ∧
        (ask (spilled 1000 0 long)).spillOpen 0 record.vdev = true) ∧
      ((ask (spilled 0 Config.spillPool long)).flight? 0 = (ask (spilled 0 Config.spillPool long)).wire[0]? ∧
        64 ≤ ((ask (spilled 0 Config.spillPool long)).core 0).queue.length ∧
        (ask (spilled 0 Config.spillPool long)).spillOpen 0 record.vdev = false) :=
  ⟨by decide +kernel, ⟨by decide +kernel, by decide +kernel, spill_open _ 1 rfl rfl (by decide)⟩,
    rfl, by decide +kernel, spill_closed _ 1 rfl (by decide)⟩

/-- A context whose arrival queue takes one, and one of depth 0 with the spill space open and closed. -/
theorem witness_PacketArrivals_context :
    let ask (f : Context → Context) (s : State) : State := arriving (.context 0 travel) (s.modCtx 0 0 f)
    let shut (x : Context) : Context := { x with aqd := 0 }
    ([ask id (state []), ask shut (spilled 1000 0 [])] : List State).all (fun s => arrives s && s.ctxOf 0 travel.vdev == some 0 &&
        (s.ctx 0 0).arrSpill.isEmpty && (s.core 0).arrOut.isEmpty) = true ∧
      (ask id (state [])).arrOpen 0 0 = true ∧
      ((ask shut (spilled 1000 0 [])).arrOpen 0 0 = false ∧ (ask shut (spilled 1000 0 [])).spillOpen 0 1 2 = true) ∧
      ((ask shut (spilled 0 Config.spillPool [])).flight? 0 = (ask shut (spilled 0 Config.spillPool [])).wire[0]? ∧
        (ask shut (spilled 0 Config.spillPool [])).ctxOf 0 travel.vdev = some 0 ∧
        (ask shut (spilled 0 Config.spillPool [])).arrOpen 0 0 = false ∧
        (ask shut (spilled 0 Config.spillPool [])).spillOpen 0 1 2 = false) :=
  ⟨by decide +kernel, by decide +kernel, ⟨by decide +kernel, spill_open _ 2 rfl rfl (by decide)⟩, rfl, rfl, by decide +kernel,
    spill_closed _ 2 rfl (by decide)⟩

/-- A message to a suspended thread and to a running one; to a thread of another generation and to the mailbox, that has room,
that has none, and of a device that is not on the core; an entry sent by the controller. -/
theorem witness_PacketArrivals_message :
    let id : Word := 31 * 2 ^ 31
    let box (n : Nat) : State := withCore (fun k => { k with mail := List.replicate n ⟨1, 0, 3, 9, []⟩ })
    ([.suspended, .ready] : List Status).all (fun q =>
       let t : Thread := { thread with status := q }
       let s := arriving (.message 0 1 1 id [5]) (state [] t)
       arrives s && field id 43 38 == 0 && (s.core 0).slots == [(0, t)] && (s.gen 0 0).toNat == field id 30 16 &&
         decide (field id 37 31 + 1 ≤ t.size)) = true ∧
      ([(31, true), (32, false)] : List (Nat × Bool)).all (fun p =>
        let s (w : Word) := arriving (.message 0 1 1 w [5]) (box p.1)
        ([(0x10000, 0), (63 * 2 ^ 38, 63)] : List (Word × Nat)).all (fun w => arrives (s w.1) && field w.1 43 38 == w.2 &&
          ((s w.1).ctxOf 0 1).isSome && (s w.1).mailOpen 0 1 == p.2 && (w.2 == 63 || (((s w.1).core 0).slots == [(0, thread)] &&
            ((s w.1).gen 0 0).toNat != field w.1 30 16))) &&
        (let m := arriving (.mail 0 ⟨1, 1, 3, 0, [5]⟩) (box p.1)
         arrives m && m.mailOpen 0 1 == p.2)) = true ∧
      (let s := arriving (.message 0 1 2 0 [5])
       arrives s = true ∧ s.ctxOf 0 2 = none ∧ (s.core 0).slots = [(0, thread)] ∧ thread.vdev ≠ 2) := by decide +kernel

/-- Port FIFOs and channel ends below their bounds and at them; a channel word for no end; a grant; a notice for a context and
for none. -/
theorem witness_PacketArrivals_words :
    ([3, 4] : List Nat).all (fun n =>
       let s := arriving (.port 0 .w 1 5) (withCore (fun k => { k with
         ctxs := [(0, { ctx with nbind := 0x80000000 })], fifos := [(3, List.replicate n 1)] }))
       arrives s && (s.claimant 0 .w).map Context.vdev == some 1 && ((s.core 0).fifo .w).length == n) = true ∧
      ([15, 16] : List Nat).all (fun n =>
       let e : ChanEnd := ⟨0, true, 1, 2, 0, List.replicate n 1⟩
       let s := arriving (.channel 0 15 1 2 5) (withCore (fun k => { k with ends := [(15, e)] }))
       arrives s && (s.core 0).ends.find? 15 == some e) = true ∧
      (arrives (arriving (.channel 0 15 1 2 5)) = true ∧ ((arriving (.channel 0 15 1 2 5)).core 0).ends.find? 15 = none) ∧
      (let e : ChanEnd := ⟨0, false, 1, 2, 0, []⟩
       let s := arriving (.grant 0 15 1 2 5) (withCore (fun k => { k with ends := [(15, e)] }))
       arrives s = true ∧ (s.core 0).ends.find? 15 = some e) ∧
      ([true, false] : List Bool).all (fun b => ([(1, some 0), (2, none)] : List (VDev × Option Nat)).all (fun v =>
        arrives (arriving (.credence 0 v.1 b)) && (arriving (.credence 0 v.1 b)).ctxOf 0 v.1 == v.2)) = true := by decide +kernel

/-- A ring tile for a free latch and for a taken one; commands with a capability and a free shadow set, without one, and with a
capability that is stale. -/
theorem witness_PacketArrivals_commands :
    let tile : RingTile := ⟨1, [1], false⟩
    let cap : Word := 2 ^ 32 + 2 ^ 17
    ([none, some tile] : List (Option RingTile)).all (fun l =>
       let s := arriving (.tile 0 false tile) (withCore (fun k => { k with lo := ⟨none, none, l⟩ }))
       arrives s && ((s.core 0).queueOf false).latch == l && (s.ctxOf 0 tile.vdev).isSome && s.wire.all (fun f => f.core != 0)) =
        true ∧
      ([(cap, none), (cap, some mcmd), (0, none)] : List (Word × Option MCmd)).all (fun p =>
       let s := arriving (.mcmd 0 false p.1 mcmd) (withCore (fun k => { k with capGen := 1, lo := ⟨none, p.2, none⟩ }))
       arrives s && !(s.core 0).fenced && (s.core 0).capOk p.1 false == (p.1 == cap) &&
         ((s.core 0).queueOf false).shadow == p.2) = true := by decide +kernel

/-- A refused packet and a refused operation at the time to resend them and before it; a sender that waits. -/
theorem witness_PacketArrivals_resend :
    let s (n : Nat) : State := { state [] with wire := [⟨.task 0 record, 1, 0, false, some n, 1⟩] }
    let h (n : Nat) : Thread := { thread with status := .refused (.sync .lds (.x 4) 0x10000 0 1 (turn.at_.use 255)) n }
    let e : Thread := { thread with status := .engine }
    let f : Flight := ⟨.task 0 record, 0, 1, true, none, 1⟩
    (((s 0).wire[0]?).bind Flight.resend = some 0 ∧ 0 ≤ (s 0).now ∧ ((s 1).wire[0]?).bind Flight.resend = some 1 ∧
       (s 1).now < 1) ∧
      ([0, 1] : List Nat).all (fun n => (state [] (h n)).thread? 0 0 == some (h n) && (state [] (h n)).now == 0) = true ∧
      ((state [] e).threadBy f.core f.thread = some (0, e) ∧ (state [] e).thread? f.core 0 = some e ∧ f.waits = true) := by
  decide +kernel
/-- The page table of device 1, from 0x200000: five nodes down to the leaf of `leaf`'s page. -/
def tabled (s : State) : State := { s with
  granules := s.granules ++ [(0x200, ⟨0, true, false⟩), (0x201, ⟨0, true, false⟩), (0x202, ⟨0, true, false⟩)]
  mem := ([(0x200000, 0x2008), (0x200800, 0x2010), (0x201000, 0x2018), (0x201800, 0x2020)] : List (Nat × Nat)).foldl
    (fun m p => memWrite m p.1 (leBytes 8 (1 + p.2 * 2 ^ 21))) (memWrite s.mem 0x202008 (leBytes 8 (0x33 + 0x100 * 2 ^ 21))) }

/-- The thread waits for its home with an operation. -/
def homes (op : MemOp) (s : State := state []) : State :=
  s.setThread 0 0 { thread with status := .home op }

/-- The turn in which the home serves it. -/
def homeTurn : Turn := (state []).turnOf 0 0 thread thread.following

/-- The state in which the home serves it. -/
def served (s : State) : State := { s with turn := some homeTurn }

/-- What the operations declare. -/
def use0 : Use := turn.at_.use 255

/-- The operations of each kind. -/
def homeOps : List MemOp := [.load (.x 4) 0x10000 0 false use0, .sync .lds (.x 4) 0x10000 0 1 use0,
  .atomic .add (.x 4) 0x10000 1 0 use0, .join 3 0x10000 false use0]

/-- A load, a sync operation, an atomic, a JOIN; an empty word, a line that an engine owns, an unmapped page. -/
theorem witness_HomeEvents_requests :
    homeOps.all (fun op => (homes op).thread? 0 0 == some { thread with status := .home op } &&
        (homes op).atTurn 0 0 { thread with status := .home op } == served (homes op) &&
        okAnd ((serve op).run (served (homes op))) (fun r u => r.isSome && (u.thread? 0 0).isSome)) = true ∧
      (homeOps.map MemOp.isAccess, homeOps.map MemOp.isSync, homeOps.map MemOp.isAtomic, homeOps.map MemOp.isJoin) =
        ([true, false, false, false], [false, true, false, false], [false, false, true, false], [false, false, false, true]) ∧
      okAnd ((serve (.sync .lds (.x 4) 0x10000 0 1 use0)).run (served (homes (.sync .lds (.x 4) 0x10000 0 1 use0)
        { state [] with metas := [(0x400, ⟨0, false, 1⟩)] }))) (fun r _ => r.isNone) = true ∧
      (match (serve (.load (.x 4) 0x10000 0 false use0)).run (served (homes (.load (.x 4) 0x10000 0 false use0) (owned []))) with
        | .error (.wait _) => true
        | _ => false) = true ∧
      (match (serve (.load (.x 4) 0x90000 0 false use0)).run (served (homes (.load (.x 4) 0x90000 0 false use0))) with
        | .error (.trap _ _) => true
        | _ => false) = true := by decide +kernel

/-- Prefetches of a line that can be had, of one without a page and of one in a page that is migrating. -/
theorem witness_HomeEvents_prefetches :
    let at_ (p : Word) (s : State) : Bool :=
      match (prefetchLine ⟨0, 0, 0, 1, use0⟩ p
        ((((memRefAt p (ptrFmt p)).ranges true).getD []).headD (ptrAddr p, 0)).1).run s with
      | .error (.wait _) => true
      | _ => false
    let asks (p : Word) : List Prefetch := [⟨0, 0, 1, p, use0⟩]
    let has (p : Word) (s : State) : State := s.modCore 0 (fun k => { k with prefs := asks p })
    okAnd ((prefetchLine ⟨0, 0, 0, 1, use0⟩ 0x10000 0x10000).run (has 0x10000 (state []))) (fun _ u =>
        (u.core 0).prefs == asks 0x10000) = true ∧
      (match (prefetchLine ⟨0, 0, 0, 1, use0⟩ 0x90000 0x90000).run (has 0x90000 (state [])) with
        | .error (.trap _ _) => true
        | _ => false) = true ∧
      at_ 0x10000 (has 0x10000 (moving [])) = true ∧ ((has 0x10000 (moving [])).core 0).prefs = asks 0x10000 := by
  decide +kernel

/-- An atomic that waits at its home. -/
theorem witness_HomeEvents_atomic :
    let t : Thread := { thread with status := .home (.atomic .add (.x 4) 0x10000 1 0 use0) }
    let s := homes (.atomic .add (.x 4) 0x10000 1 0 use0)
    s.thread? 0 0 = some t ∧ s.atTurn 0 0 t = served s ∧ s.turnOf 0 0 t t.following = homeTurn ∧
      okAnd ((homeWord .rw 0x10000).run (served s)) (fun pa s1 => running s1 homeTurn t &&
        okAnd ((atHome (Who.rq ⟨0, 0, 0, 1, use0⟩ 0x10000 0) pa).run s1) (fun _ s2 => s2.turn == some homeTurn &&
          ((((s2.squashMeeting 0 0 [0x400]).putWord pa 1).wrote (pa / 64)).thread? 0 0).isSome)) = true := by decide +kernel

/-- Replies of every kind. -/
theorem witness_HomeEvents_replies :
    ([(.load (.x 4) 0x10000 0 false use0, .value 5), (.load (.port .e) 0x10000 0 false use0, .value 5), (.atomic .add (.x 4) 0x10000 1 0 use0, .value 5),
      (.sync .lds (.x 4) 0x10000 0 1 use0, .value 5), (.pair 4 0x10000 use0, .pair 5 6), (.join 3 0x10000 false use0, .pred true),
      (.sync .sts (.x 4) 0x10000 0 1 use0, .nothing), (.sync .lds (.x 4) 0x10000 0 1 use0, .limit)] :
        List (MemOp × Reply)).all (fun p => (state [] { thread with status := .reply p.1 p.2 }).thread? 0 0 ==
          some { thread with status := .reply p.1 p.2 }) = true ∧ thread.takes (.x 4) := by
  simp only [Thread.takes]; decide +kernel

/-- A parked operation before its retry, and at it with its word full, empty with a try left and with none. -/
theorem witness_HomeEvents_parked :
    let op : MemOp := .sync .lds (.x 4) 0x10000 0 2 use0
    let s (n : Nat) (now : Nat) (full : Bool) : State := { withCore (fun k => { k with park := [(0, ⟨0, 0, 0x10000, n, 2, 64⟩)] })
      [] { thread with status := .parked op } with now := now, metas := if full then [] else [(0x400, ⟨0, false, 1⟩)] }
    ([(0, 63, true), (0, 64, true), (0, 64, false), (1, 64, false)] : List (Nat × Nat × Bool)).all (fun p =>
      let v := s p.1 p.2.1 p.2.2
      let t : Thread := { thread with status := .parked op }
      (v.core 0).park.find? 0 == some ⟨0, 0, 0x10000, p.1, 2, 64⟩ && v.thread? 0 0 == some t &&
        okAnd ((syncAt .lds 0x10000 0 use0 0x10000 false).run (v.atTurn 0 0 t)) (fun r u =>
          r.isSome == p.2.2 && (u.thread? 0 0).isSome)) = true := by decide +kernel

/-- A dirty copy, exclusive and not; overflow work, and that of a line whose metadata is lost; a line with a free way; an unmapped address and one whose page table is
whole. -/
theorem witness_HomeEvents_lines :
    ([true, false] : List Bool).all (fun x =>
      let s := sliced.modCore 0 (fun k => { k with
        stash := [(0, entry false .dirty x)], dir := [(0x400, ⟨[0], [], [], x, none⟩)] })
      s.holders 0x400 == [0] && s.glOf 0 0x400 == some 0x400 && s.stashFind 0 0x400 == some (0, entry false .dirty x) &&
        (s.dirOf 0x400).excl == x && s.ownerOk 0 1 0x10000 && !s.writeBad 0x10000 (entry false .dirty x).masked &&
        (s.sliceFind 0x400).isSome) = true ∧
      (let s := withCore (fun k => { k with
         overflowWork := [(0x400, 3)], dir := [(0x400, ⟨[0, 1, 2], [], [(3, 1)], false, none⟩)] })
       (s.core 0).overflowWork = [(0x400, 3)] ∧ List.find? (fun q => q.1 == 3) (s.dirOf 0x400).queued = some (3, 1) ∧
         s.metaBad.contains 0x400 = false ∧ ({ s with metaBad := [0x400] } : State).metaBad.contains 0x400 = true) ∧
      ((state []).sliceFind 0x400 = none ∧
        (List.range 16).find? (fun w => (((state []).core 0).slice.find? (0x400 % 64 * 16 + w)).isNone) = some 0) ∧
      (mtcFind ((state []).core 0).mtc 1 0x90000 = none ∧ (tabled (state [])).walk 0 1 0x90000 = .fault 0 ∧
        mtcFind ((withCore (fun k => { k with mtc := [] })).core 0).mtc 1 0x10000 = none ∧
        (tabled (withCore (fun k => { k with mtc := [] }))).walk 0 1 0x10000 = .ok leaf) := by decide +kernel

/-- The last byte of the line 0x400, held by a chunk that asks for commit beside a thread that has read the line; and the
same chunk younger than another's. -/
theorem witness_CommitMakesStoresVisible :
    let c : Chunk := { thread.chunk with held := [⟨0x1003F, [(5, 3)], use0, false⟩], wset := [0x400], closing := true,
                                         stamp := some 2 }
    let t : Thread := { thread with chunk := c }
    let o : Thread := { thread with base := 64, chunk := { thread.chunk with rset := [0x400] } }
    let old : Thread := { o with chunk := { c with stamp := some 1 } }
    let s (q : Thread) := (sliced [] t).setThread 0 5 q
    (s o).thread? 0 0 = some t ∧ t.chunk.closing = true ∧ (s old).yieldsTo 0 0 c = true ∧ (s o).yieldsTo 0 0 c = false ∧
      0x1003F < 2 ^ 55 ∧ 0x1003F % 64 + 1 ≤ 64 ∧ memWf (s o).mem = true ∧ (s o).stashFind 0 0x400 = none ∧
      (s o).translate 0 1 0x10000 = .ok leaf ∧ leaf.phys 0x10000 % 64 = 0 ∧ (s o).ownerOk 0 1 0x1003F = true ∧
      (s o).dirOf 0x400 = ⟨[], [], [], false, none⟩ ∧ (s o).bad 0x400 = false ∧ ((s o).sliceFind 0x400).isSome = true ∧
      (s o).thread? 0 5 = some o := by decide +kernel

/-- A thread that was evicted. -/
def saved : Saved :=
  ⟨{ thread with pc := 0x10008, chunk := Chunk.fresh thread [] }, List.replicate 32 3, [], 4, Task.fresh 9 0 4, none, 0, 0, []⟩

/-- The launch of the records. -/
def launch : Launch := ⟨1, 1, 64, record, 2, 16, 0, 9, true, 0, 0, 0, 0, false⟩

/-- Records of both priorities and of a spawner; arrivals of a traveller and of an evicted thread; a closed core. -/
theorem witness_DispatchAndEviction_dispatch :
    ([{ record with prio := true }, record, { record with task := some 0 }] : List TaskRec).all (fun r =>
      let s : State := { withCore (fun k => { k with queue := [r] }) with launches := [(1, launch)] }
      !(s.core 0).closed && !(s.core 0).fenced && !s.leaving 0 && (s.nextArrival 0).isNone &&
        (if r.prio then s.nextRecord 0 true == some (0, r)
          else (s.nextRecord 0 true).isNone && s.nextRecord 0 false == some (0, r)) &&
        s.ctxOf 0 r.vdev == some 0 && s.slotFree 0 0 == some 1 && (s.freeBase 0 r.size).isSome && (s.core 0).spill.isEmpty &&
        (r.task == some 0 || (s.core 0).tasks.free 64 == some 1)) = true ∧
      ([.travel 0 travel, .evicted 0 saved] : List Arrival).all (fun a =>
        let s : State := { withCore (fun k => { k with ctxs := [(0, { ctx with arrivals := [a] })] }) with launches := [(1, launch)] }
        s.nextArrival 0 == some (0, a) && s.slotFree 0 0 == some 1 && (s.freeBase 0 16).isSome && (s.freeBase 0 32).isSome &&
          (s.core 0).tasks.free 64 == some 1 && (s.core 0).tasks.all (fun p => p.2.id != saved.task.id)) = true ∧ saved.cmds = [] ∧ saved.regs.length = 32 ∧
      ((withCore (fun k => { k with closed := true })).core 0).closed = true := by decide +kernel

/-- Two spill areas with room, of which the second has the older arrival; an arrival on its way to a spill area; none. -/
theorem witness_DispatchAndEviction_refill :
    let x (n : Nat) : Context := { ctx with arrSpill := [.travel n travel] }
    let s := withCore (fun k => { k with ctxs := [(0, x 5), (1, x 3)] })
    let out := withCore (fun k => { k with arrOut := [(0, .travel 0 travel)] })
    s.refillable 0 = [(0, x 5), (1, x 3)] ∧ out.refillable 0 = [] ∧ (out.core 0).arrOut = [(0, .travel 0 travel)] ∧
      (state []).refillable 0 = [] ∧ ((state []).core 0).arrOut = [] := by decide +kernel

/-- A queue of four beside one of one, records of both priorities. -/
theorem witness_DispatchAndEviction_rake :
    ([false, true] : List Bool).all (fun b =>
      let r := { record with prio := b }
      let s0 := withCore (fun k => { k with queue := List.replicate 4 r })
      let s : State := { s0 with cores := s0.cores ++ [(1, { Core.reset with queue := [r], ctxs := [(0, ctx)] }),
        (256, { Core.reset with queue := List.replicate 4 r })] }
      (if b then (s.rakePick 0 false).isNone else true) && (s.rakePick 0 b).map (fun p => (p.2.1, p.2.2)) == some (r, 1) &&
        (s.core 1).spill.isEmpty && (s.core 0).spill.isEmpty) = true := by decide +kernel

/-- Threads that can be evicted, with spill space reserved, and one that cannot; a saved thread that can go in again. -/
theorem witness_DispatchAndEviction_eviction :
    let s (q : Status) := (spilled 1000 0 []).setThread 0 0 { thread with status := q }
    ((s .engine).thread? 0 0 = some { thread with status := .engine } ∧ Status.engine.evictable = false) ∧
      ((s .ready).thread? 0 0 = some thread ∧ Status.ready.evictable = true ∧
        ((s .ready).squash 0 0).spillOpen 0 thread.vdev 5 = true) ∧
      ((s .suspended).thread? 0 0 = some { thread with status := .suspended } ∧ Status.suspended.evictable = true ∧
        ((s .suspended).squash 0 0).spillOpen 0 thread.vdev 5 = true) ∧
      ceilDiv (8 * thread.size + 32) 64 = 5 ∧ ((s .ready).core 0).shadow.holder = none ∧ thread.saved = none ∧
      (let u : State := { state [] with evicted := [saved], launches := [(1, launch)] }
       u.evicted[0]? = some saved ∧ u.launches.find? 1 = some launch ∧ u.reentryCore 1 0 32 = some 0 ∧ u.ctxOf 0 1 = some 0 ∧
         (u.ctx 0 0).arrSpill = [] ∧ (u.core 0).arrOut = [] ∧ u.arrOpen 0 0 = true) :=
  ⟨by decide +kernel, ⟨by decide +kernel, rfl, spill_open _ 5 rfl rfl (by decide)⟩,
    ⟨by decide +kernel, rfl, spill_open _ 5 rfl rfl (by decide)⟩, by decide, by decide +kernel, rfl, by decide +kernel⟩

/-- An owner that may hold the core and one that may not; a slot on its way; slots lent and recalled, of a borrower that is on
the core, of one whose command holds the recall up, and of one that is not; a breakpoint. -/
theorem witness_DispatchAndEviction_slots :
    ((state []).mayHold 0 1 = true ∧ (state []).mayHold 0 9 = false ∧ ((state []).core 0).fenced = false ∧ 61 < 62 ∧
      (state []).ctxOf 0 1 = some 0 ∧ ((state []).core 0).ctxs.find? 0 = some ctx) ∧
      (let s := (state []).modCore 0 (fun k => { k with handing := [(61, 0)], ctxs := [(0, { ctx with slots := some [3] })] })
       List.find? (fun h => h.1 == 61) (s.core 0).handing = some (61, 0) ∧ (s.ctx 0 0).slots = some [3]) ∧
      (let two : State := { withCore (fun k => { k with ctxs := [(0, ctx), (1, { ctx with vdev := 2 })] }) with
          nodes := [(1, { node with owners := [owner, Owner.fresh (OwnerEntry.plain 2) 0] })] }
       (two.handOver 0 [61] 2).isSome = true ∧ (two.core 0).lent = [] ∧
         (let lent := two.modCore 0 (fun k => { k with lent := [(61, 1, 2)] })
          (lent.recallLent 0 1).2 = true ∧ (lent.core 0).lent = [(61, 1, 2)]) ∧
         (let stuck := (two.modCore 0 (fun k => { k with lent := [(61, 1, 2)] })).setThread 0 61
            { thread with vdev := 2, ctx := 1, status := .engine }
          (stuck.recallLent 0 1).2 = false) ∧
         (let gone := (state []).modCore 0 (fun k => { k with lent := [(61, 1, 2)] })
          gone.ctxOf 0 2 = none)) ∧
      (let s := withCore (fun k => { k with breaks := [0x10000] })
       s.thread? 0 0 = some thread ∧ thread.pc ∈ (s.core 0).breaks ∧ 0 ∉ (s.core 0).stopped ∧ s.active 0 0 = true) := by
  decide +kernel
/-- The thread's core with that copy in its barrow. -/
def barrow (y : Copy) (f : Core → Core := id) : State := withCore (fun k => f { k with barrow := [(0, y)] })

/-- A waiting copy whose region handle is stale; with pages that can be pinned and one that cannot; without pins and with a
destination that is not mapped; to a slab on a core without the context, and to one with a span. -/
theorem witness_CopyEvents_accept :
    let w := { copy with st := .waiting, flying := 0, extent := [] }
    let slab := { w with blk := 64, dspan := 64 }
    let pages (y : Copy) : List (Nat × Bool) :=
      y.pieces.flatMap (fun p => [(p.src, false), ((p.src + p.len - 1) % 2 ^ 55, false), (p.dst, true)]) ++
        y.span.map (fun k => (64 * k.2, true))
    let first (y : Copy) : Bool := List.find? (fun p => p.2.st == CopySt.waiting) ((barrow y).core 0).barrow == some (0, y)
    let owns (y : Copy) (frames : List Nat) (s : State) (faulty : Bool) : Bool :=
      let cores := s.receivers y
      let y1 := { y with pinned := frames, hosts := cores.filter (fun k => (s.ctxOf k y.iss.vdev).isSome) }
      (y.blk == 0 || cores.all (fun k => (s.ctxOf k y.iss.vdev).isSome)) &&
      (match s.takeReached y1 y.span y.pieces with
        | some (u, y2) => y2.faultAt.isSome == faulty && (faulty || (u.takeSpan y2 y.span).isSome)
        | none => false)
    (first { w with hidx := 3, hgen := 2 } = true ∧ (barrow { w with hidx := 3, hgen := 2 }).handleGen 0 3 ≠ 2) ∧
      (let y := { w with pin := true, src := 0x90000 }
       first y = true ∧ (match (barrow y).pinFrames issued [] (pages y) with | some (none, _) => true | _ => false) = true) ∧
      (let y := { w with pin := true }
       first y = true ∧ (match (barrow y).pinFrames issued [] (pages y) with
         | some (some frames, s1) => frames.all (fun f => (s1.pins.get f ⟨0, 0⟩).engine == 0) &&
           owns y frames (s1.pinEngine frames true) false
         | _ => false) = true) ∧
      (first w = true ∧ owns w [] (barrow w) false = true) ∧
      (first { w with dst := 0x90000 } = true ∧ owns { w with dst := 0x90000 } [] (barrow { w with dst := 0x90000 }) true = true) ∧
      (first slab = true ∧ owns slab [] (barrow slab) false = true) ∧
      (let y := { slab with ox := 1 }
       first y = true ∧ (1 ∈ (barrow y).receivers y ∧ (barrow y).ctxOf 1 1 = none)) := by decide +kernel

/-- A copy that reads, that is at its end, cancelled, and whose handle is stale; one whose source is mapped, pinned and not, and
one whose source is not mapped; one whose lines have been read. -/
theorem witness_CopyEvents_read :
    let at_ (y : Copy) (p : State → Bool) : Bool :=
      let s := barrow y
      (s.core 0).barrowNext == 0 && (s.core 0).barrow.find? 0 == some y && y.st == .reading && p s
    let next (y : Copy) : Option Nat :=
      ((y.piece y.e).lines (min (y.piece y.e).len (y.stopAt - y.e))).find? (fun l => !y.seen.any (fun q => q.1 == l))
    let far := { copy with src := 0x90000 }
    let seen := { copy with seen := [(0x400, List.replicate 64 9, false)] }
    at_ { copy with e := 64 } (fun _ => true) = true ∧ at_ { copy with cancelled := true } (fun _ => true) = true ∧
      at_ { copy with hidx := 3, hgen := 2 } (fun s => s.handleGen 0 3 != 2) = true ∧
      at_ { copy with pin := true } (fun s => next { copy with pin := true } == some 0x400 &&
        (s.engineRead issued 0 0x400).isSome) = true ∧
      at_ copy (fun s => next copy == some 0x400 && (match s.copyFault issued 0x10000 false true with
        | some (none, s1) => (s1.engineRead issued 0 0x400).isSome
        | _ => false)) = true ∧
      at_ far (fun s => next far == some 0x2400 && (match s.copyFault issued 0x90000 false true with
        | some (some _, _) => true
        | _ => false)) = true ∧
      at_ seen (fun s => (next seen).isNone && (s.sendPiece 0 0 seen).isSome) = true := by decide +kernel

/-- Packets that are written, whose landing index has no handler and has one, and that meet a handler that runs; a packet that
has landed. -/
theorem witness_CopyEvents_landing :
    let s (land : Nat) (run : Option LandRun) (entry : Word) : State :=
      barrow { copy with land := land } (fun k => { k with
        landing := [packet], landRun := run, ctxs := [(0, { ctx with landing := [(3, entry)] })] })
    let v := s 0 none 0
    (v.core 0).landing = [packet] ∧ v.copyOf packet = some copy ∧ copy.hosts.contains 0 = false ∧ copy.ctr = 0 ∧
      v.translate 0 1 packet.addr = .ok leaf ∧ v.ownerOk 0 1 (leaf.phys packet.addr) = true ∧
      (match (v.modCore 0 (fun k => { k with landing := [] })).engineWrite issued copy.id (2 ^ 20) packet.addr (whole packet.bytes)
          copy.iss.nu packet.poison with
        | some (u, miss) => ((u.costCopy packet miss).landed 0 packet).isSome
        | none => false) = true ∧
      ([0, 0x10000] : List Word).all (fun w => ((s 3 none w).core 0).landing == [packet] &&
        (s 3 none w).copyOf packet == some { copy with land := 3 } && ((s 3 none w).core 0).landRun.isNone &&
        (((s 3 none w).core 0).ctxs.find? 0).map (fun x => (x.vdev, x.landing.get 3 0)) == some (1, w)) = true ∧
      ptrFmt 0x10000 = 0 ∧ ptrAddr 0x10000 % 2 = 0 ∧ ((s 3 (some ⟨packet, 0, 1, 0⟩) 0).core 0).landRun ≠ none := by decide +kernel

/-- A copy that has sent everything, with a packet in flight and without, that asks for its interrupt, that has a fault and whose
counter has still to be stepped; a
revocation that two cores wait for, and one that one waits for. -/
theorem witness_CopyEvents_end :
    ([{ copy with st := .sent }, { copy with st := .sent, flying := 0 }, { copy with st := .sent, flying := 0, intr := true },
      { copy with st := .sent, flying := 0, status := some 5, faultAt := some (7, 0x10000, some 0x10000) }] : List Copy).all
      (fun y => ((barrow y).core 0).barrow.find? 0 == some y && (y.status != some 5 || (!y.revoked && y.faultAt.isSome)) &&
        (((barrow y).releaseAll y.id).countOwed y).isSome) = true ∧
      (let y := { copy with st := .sent, flying := 0, ctr := 0x10200, owed := 1 }
       (((barrow y).releaseAll y.id).countOwed y).isSome = true) ∧
      ([[0, 1], [0]] : List (List Nat)).all (fun l =>
        let r : Revoke := ⟨3, 1, l, false, none, 1⟩
        let s : State := { state [] with nodes := [(1, { node with revokes := [r] })] }
        s.nodes.find? 1 == some { node with revokes := [r] } && (s.core 0).landRun.isNone &&
          { node with revokes := [r] }.revokes.find? (fun r => r.idx = 3 && (r.waiting.contains 0 || r.waiting.isEmpty)) == some r) =
        true := by decide +kernel

/-- The matrix command of `mcmd` in the queue of low priority. -/
def queued (m : MCmd) (s : State := state []) : State := s.modCore 0 (fun k => { k with lo := ⟨some m, none, none⟩ })

/-- An ungranted command; a trigger below and at its threshold; a ragged counter below the row block, within it and with its
end. -/
theorem witness_MatrixEvents_counters :
    (let m := { mcmd with granted := false }
     (queued m).cores.findSome? (fun p => (p.2.findCmd 7).map (fun f => (p.1, f))) = some (0, false, true, m) ∧
       ((queued m).takeLines m.iss m.id 0 (cLines m.c m.m m.n m.ldc)).isSome = true) ∧
      (let at_ (m : MCmd) (v : Nat) (now : Nat) (p : State → Nat → Bool) : Bool :=
         let s : State := { queued m with now := now, mem := memWrite [] 0x10100 (leBytes 8 v) }
         ((s.core 0).queueOf false).active == some m && p s v
       let t := { mcmd with trig := 0x10100, thr := 5, fired := false }
       let r := { mcmd with rag := some 0x10100 }
       ([4, 5] : List Nat).all (fun v => at_ t v 0 (fun s v => (s.counter t.iss 0 t.trig).map Prod.fst == some v)) = true ∧
         at_ { t with nextRead := 1 } 5 0 (fun s _ => decide (s.now < 1)) = true ∧
         ([15, 16, 2 ^ 63 + 3] : List Nat).all (fun v =>
           at_ r v 0 (fun s v => (s.counter r.iss 0 0x10100).map Prod.fst == some v && r.fired && r.live.isNone && !r.ended)) =
           true) := by decide +kernel

/-- Steps that run in both queues; a boundary with a ready command in each, in the high one alone and in the low one alone; a
command of an evicted thread that is not ready; and a unit that works. -/
theorem witness_MatrixEvents_steps :
    let step := { mcmd with run := true }
    let high (m : MCmd) (lo : Option MCmd) : State := (state []).modCore 0 (fun k => { k with
      hi := ⟨some m, none, none⟩, lo := ⟨lo, none, none⟩ })
    let not_ := { mcmd with fired := false }
    ((queued mcmd).core 0).arrayFree ≤ (queued mcmd).now ∧ ((queued mcmd).modCore 0 (fun k => { k with arrayFree := 1 })).now < 1 ∧
      ((high step none).cmdStep 0 true step).isSome = true ∧ ((queued step).cmdStep 0 false step).isSome = true ∧
      mcmd.ready ((high mcmd (some mcmd)).core 0).hi = true ∧ mcmd.ready ((queued mcmd).core 0).lo = true ∧
      mcmd.run = false ∧ mcmd.ended = false ∧ mcmd.remote = false ∧
      not_.ready ((high not_ none).core 0).hi = false ∧
      ({ high not_ none with evicted := [⟨thread, [], [], 0, Task.fresh 0 0 0, none, 0, 0, []⟩] } : State).isSaved not_.iss = true := by
  decide +kernel

/-- A step within a tile; sums inside the accumulator, above it and below it; a command that has ended, with and without its
interrupt, and one that has not. -/
theorem witness_MatrixEvents_results :
    (let m := { mcmd with kk := 1, k := 96, lda := 96, ldb := 96 }
     m.kk ≠ 0 ∧ m.kk + 1 < m.k / 32 ∧ m.fmtA ≠ 2 ∧ m.fmtA ≠ 3 ∧ m.kk * 32 + 32 ≤ m.k ∧
       (match (queued m).cmdRows 0 m m.a 32 (m.blockRows.map (fun i => i * m.lda + m.kk * 32)) with
         | some (_, _, m1, s1) => (s1.cmdCols 0 m1 (m.kk * 32) 32).isSome
         | none => false) = true) ∧
      (-((2 ^ 31 : Nat) : Int) ≤ sintOf 32 5 ∧ sintOf 32 5 < ((2 ^ 31 : Nat) : Int) ∧
        (let v (a : Nat) (e : Nat) : Int := sintOf 32 a + ([(elemVal 8 1, elemVal 8 e)].map (fun p =>
           p.1.dyadic.m * p.2.dyadic.m)).foldl (· + ·) 0
         ((2 ^ 31 : Nat) : Int) ≤ v (2 ^ 31 - 1) 1 ∧ v (2 ^ 31) 255 < -((2 ^ 31 : Nat) : Int))) ∧
      ([{ mcmd with ended := true }, { mcmd with ended := true, intr := true }, mcmd] : List MCmd).all (fun m =>
        (((queued m).core 0).queueOf false).active == some m && !m.out && !m.run) = true := by decide +kernel
/-- A walk whose rows are all at the root record 0x11000 with a status. -/
def walk (status : Nat) : WalkJob :=
  ⟨7, issued, 30, mkPtr 3 0 0x14000, mkPtr 12 0 0x11000, 0x12000, 0x13000, some 1, false, 0, 0, 0, 0,
    List.replicate 16 ⟨mkPtr 12 0 0x11000, 0, status, 0, 0xFF, true, [], false, false⟩, true, false, []⟩

/-- A walk in the trellis. -/
def walking (j : WalkJob) (s : State := state []) : State := s.modCore 0 (fun k => { k with trellis := some (.walk j) })

/-- A forest of one tree of one node at 0x11000, of one sample. -/
def forest : ForestJob := ⟨7, issued, 30, 0x14000, 0x11000, 0x12000, 1, [], 0⟩

/-- That forest in the trellis. -/
def foresting : State :=
  let s := withCore (fun k => { k with trellis := some (.forest forest) })
  { s with mem := [(0x11008, 1)] }

/-- A delivery to the record at 0x10000. -/
def delivery (slot : Nat) : Delivery := ⟨0, mkPtr 14 0 0x10000, slot, List.replicate 56 0, 1, 0, 1, false, 1⟩

/-- Work at the head of the message-update unit's queue. -/
def working (w : List GaussWork) (s : State := gauss 1 0 0) : State := s.modCore 0 (fun k => { k with gauss := w })

/-- A record of two neighbours whose joint matrix is zero. -/
def singular : State :=
  withCore (fun k => { k with stash := (List.range 10).map (fun i => (i, { entry true .dirty false with
    line := 0x400 + i
    data := if i = 0 then 9 :: List.replicate 63 0
      else if i = 1 then leBytes 8 (mkPtr 14 0 0x10000).toNat ++ List.replicate 8 0 ++ leBytes 8 (mkPtr 14 0 0x10000).toNat ++
        List.replicate 40 0 else List.replicate 64 0 })) })

/-- A walk at its root, one that is over, one whose rows have finished and one whose unit works. -/
theorem witness_TrellisAndGaussianEvents_walk :
    (((walking (walk 0)).core 0).trellis = some (.walk (walk 0)) ∧ (walk 0).isOver = false ∧ (walk 0).active = true ∧
      (walk 1).active = false ∧ (walk 0).k = some 1 ∧ ((walking (walk 0)).core 0).trellisFree ≤ (walking (walk 0)).now ∧
      ((walking (walk 0)).modCore 0 (fun k => { k with trellisFree := 1 })).now < 1 ∧
      (match (walking (walk 0)).walkKeys (walk 0) (List.range 16) with
        | some (ks, j1, s1) => (s1.walkRun j1 1 ks).isSome
        | none => false) = true) := by decide +kernel

/-- The retirement of a walk whose rows have finished, and of one whose first row has faulted. -/
theorem witness_TrellisAndGaussianEvents_retire :
    (walk 1).rows.all (fun w => w.status != 2) = true ∧ ((walking (walk 1)).walkWrites (walk 1) (List.range 16)).isSome = true ∧
      (let j := { walk 1 with rows := ((walk 2).rows.take 1) ++ (walk 1).rows.drop 1 }
       match (walking j).walkKey j 0 (j.rows.getD 0 ⟨0, 0, 0, 0, 0, false, [], false, false⟩) with
        | some (_, j1, s1) => match s1.walkWrites j1 (List.range 16) with
          | some (u, _) => j.active == false && (u.issuing j1.iss).isSome && (j.rows[0]?).map WalkRow.status == some 2 &&
            j1.rows == j.rows
          | none => false
        | none => false) = true := by decide +kernel

/-- A forest at its end. -/
theorem witness_TrellisAndGaussianEvents_forest :
    (foresting.core 0).trellis = some (.forest forest) ∧ (foresting.core 0).trellisFree ≤ foresting.now ∧
    (match foresting.forestRead issued ⟨0, 0, false, false, 0, [], 0⟩ [(0x11000, 16)] with
      | some (hb, f, s1) =>
        let hd := forestHeader (hb.getD 0 [])
        match s1.forestRead issued f [((0x11000 + 64) % 2 ^ 55, 4 * hd.1)] with
        | some (rb, f1, s2) =>
          match s2.forestSamples forest hd ((List.range hd.1).map (fun i => leNat (((rb.getD 0 []).drop (4 * i)).take 4))) f1.bad
              (List.range forest.count) f1 with
          | some (out, _, s3) => (s3.forestWrites forest 0 out).isSome
          | none => false
        | none => false
      | none => false) = true := by decide +kernel

/-- A command of the message-update unit. -/
def job (op : GaussOp) : GaussJob := ⟨7, issued, mkPtr 14 0 0x10000, op, 0⟩

/-- What a message-update command whose record is read now finds. -/
def finds (j : GaussJob) (s : State) (p : GRec → State → Bool) : Bool :=
  (s.core 0).gauss == [.command j] && decide ((s.core 0).gaussFree ≤ s.now) &&
  (match s.gaussRead j.iss 0 (ptrAddr j.record) with
    | some (some r, _, s1) => p r s1
    | _ => false)

/-- A slot's write; the message of a factor, and of a singular one; the belief and messages of a variable; a unit that works. -/
theorem witness_TrellisAndGaussianEvents_commands :
    (let w := job (.write 0 true (List.replicate 56 0) false)
     finds w (working [.command w]) (fun r s1 => (s1.gaussSlot issued 0 0 r w.record 0 (List.replicate 56 0) false true).isSome) =
       true ∧ issued.core = 0 ∧ ((working [.command w]).modCore 0 (fun k => { k with gaussFree := 1 })).now < 1) ∧
    (let f := job (.fac 0)
     finds f (working [.command f]) (fun r s1 => match (gaussFac r 0).run 0 with
       | (.ok new, fl) =>
         match s1.gaussPut issued 0 ((r.addr + 64 * (6 + r.n)) % 2 ^ 55)
             (msgLine ((damp (r.dim 0) (r.damping 0) new (r.msg (6 + r.n) (r.dim 0))).run fl).1) r.bad with
         | some v => match v.gaussSetHead issued 0 0 f.record (fun _ => (false, 0)) with
           | some (w, _) => (w.gaussDeliver f r 0 ((damp (r.dim 0) (r.damping 0) new (r.msg (6 + r.n) (r.dim 0))).run fl).1).isSome
           | none => false
         | none => false
       | _ => false) = true) ∧
    (let f := job (.fac 0)
     finds f (working [.command f] singular) (fun r s1 => match (gaussFac r 0).run 0 with
       | (.error _, fl) => ((s1.gaussEnd f fl 28 0).issuing issued).isSome
       | _ => false) = true) ∧
    (let g := job .var
     finds g (working [.command g] (gauss 0 0 0)) (fun r s1 =>
       let p := ((gaussVar r).run 0).1
       match s1.gaussLines g r ((4, p.1) :: p.2.map (fun q => (6 + r.n + q.1, q.2))) with
       | some v => match v.gaussSetHead issued 0 0 g.record (fun _ => (false, 0)) with
         | some (w, _) => (w.gaussDeliverAll g r p.2).isSome
         | none => false
       | none => false) = true) := by decide +kernel

/-- A delivery without its context, without its record, beyond the record's slots and to a slot; a delivery that arrives at a
buffer with room, at one while the unit works, and at one of 16. -/
theorem witness_TrellisAndGaussianEvents_delivery :
    (([0, 1] : List Nat).all (fun i =>
       let s := working [.delivery (delivery i)]
       (s.core 0).gauss == [.delivery (delivery i)] && s.ctxOf 0 1 == some 0 && decide ((s.core 0).gaussFree ≤ s.now) &&
       let s0 := s.modCore 0 (fun k => { k with gauss := [], gaussFree := s.now + 8, gaussSeq := k.gaussSeq + 1 })
       match s0.gaussRead (s0.unitIssuer 0 0 1) 0 (ptrAddr (delivery i).record) with
       | some (some r, _, s1) => r.n == 1 &&
         (i == 1 || (s1.gaussSlot (s0.unitIssuer 0 0 1) 0 0 r (delivery i).record i (delivery i).msg false false).isSome)
       | _ => false) = true ∧
      (let d := { delivery 0 with record := mkPtr 14 0 0x90000 }
       let s0 := (working [.delivery d]).modCore 0 (fun k => { k with gauss := [], gaussFree := 8, gaussSeq := k.gaussSeq + 1 })
       match s0.gaussRead (s0.unitIssuer 0 0 1) 0 (ptrAddr d.record) with
       | some (none, _, _) => true
       | _ => false) = true ∧ (state []).ctxOf 0 9 = none) ∧
    (let f : Flight := ⟨.gauss (delivery 0), 1, 0, false, none, 1⟩
     let s (w : List GaussWork) : State := { working w with wire := [f] }
     let full := List.replicate 16 (GaussWork.delivery (delivery 0))
     (s []).wire = [f] ∧ ((s []).core 0).gauss = [] ∧
       ((s full).modCore 0 (fun k => { k with gaussFree := 1 })).now < 1 ∧
       (full.filter (fun x => match x with | .delivery _ => true | .command _ => false)).length = 16) := by decide +kernel
/-- A launch queue pair, 64, and a data queue pair, 65, of device 1, beside its page table. -/
def paired (l : Launch := launch) (f : QueuePair → QueuePair := id) (g : Owner → Owner := id) : State :=
  { tabled (state []) with
    qps := [(64, f ⟨1, 0, true, 0, .reliableOrdered, 0, 1, [], [], [], 0⟩),
      (65, ⟨1, 0, false, 0, .reliableUnordered, 0, 1, [], [], [], 0⟩)]
    launches := [(5, l)], nodes := [(1, { node with owners := [g owner] })], nextLaunch := 6 }

/-- The 64 bytes of a launch record: 16 registers, data at `data`, its slots, AQD 16. -/
def launching (slots : Nat) (data : Word := 0x10000) : List Byte :=
  wordBytes [0x10000 + 2 ^ 57, data, 0, 0, 0, 0, BitVec.ofNat 64 (slots + 16 * 2 ^ 8), 9]

/-- A launch that has not started, at the dispatch pointer 0x10000. -/
def pending : Launch := { launch with qp := 64, started := false, record := { record with xs := [0x10000, 0, 0, 0, 0] } }

/-- The free numbers of a device with a queue pair; launch records of a wrong length, with too many slots, with data that is not
mapped, and allowed. -/
theorem witness_HostEvents_create :
    (List.range 64).find? (fun k => (paired.qps.find? (64 * (1 : VDev).toNat + k)).isNone) = some 2 ∧
      (paired.vdevs.find? (1 : VDev).toNat).isSome = true ∧
      (paired.qps.find? 64).map QueuePair.launch = some true ∧
      (launching 2).length = 64 ∧ paired.partitionOf 1 = some 1 ∧ (paired.nodes.find? 1).isSome = true ∧
      launchBad (leWords (launching 63) 8) = true ∧ launchBad (leWords (launching 2) 8) = false ∧
      launchBad (leWords (launching 2 0x90000) 8) = false ∧
      paired.mgmtWalk 1 (dataAddr (BitVec.ofNat 64 (leNat (((launching 2).drop 8).take 8)))) = .ok leaf ∧
      paired.mgmtWalk 1 (dataAddr (BitVec.ofNat 64 (leNat (((launching 2 0x90000).drop 8).take 8)))) = .fault 0 := by decide +kernel

/-- A queue whose turn comes with and without enough deficit, an empty one beside one that waits, and queues that all wait for
room. -/
theorem witness_HostEvents_start :
    let s (l : Launch) : State := paired l (g := fun o => { o with queue := [5] })
    let one := { pending with slots := 1 }
    let k := { node with owners := [{ owner with queue := [5] }] }
    (s pending).nodes.find? 1 = some k ∧ k.st = .part ∧ k.drr % 1 = 0 ∧ (s pending).entryFree 1 k 1 = true ∧
      (s pending).headMigrates 5 = false ∧ (s one).headMigrates 5 = false ∧ pending.node = 1 ∧ pending.vdev = 1 ∧
      owner.cfg.weight = 1 ∧ owner.deficit + 1 < pending.slots ∧ one.slots ≤ owner.deficit + 1 ∧
      (let two := { node with owners := [{ owner with queue := [] }, { Owner.fresh (OwnerEntry.plain 2) 0 with queue := [5] }] }
       ({ s pending with nodes := [(1, two)] } : State).entryFree 1 two 2 = true ∧
         ({ s pending with nodes := [(1, two)] } : State).headMigrates 5 = false) ∧
      (let s2 := ((s one).modNode 1 (fun k => { k with drr := 1 % 1 })).modOwnerIn 1 1 (fun o => { o with
         deficit := o.deficit + o.cfg.weight })
       (match s2.nodes.find? 1 with | some k1 => s2.entryFree 1 k1 1 | none => false) = true ∧
         s2.mgmtWalk 1 (dataAddr (one.record.xs.getD 0 0)) = .ok leaf) ∧
      paired.nodes.find? 1 = some node ∧ owner.queue = [] := by decide +kernel

/-- A launch that is quiet, one with a record left, one queued, one started without and with a thread that cannot be evicted. -/
theorem witness_HostEvents_launch :
    let run := { launch with qp := 64, started := true }
    let left (q : Status) : State := (paired run).setThread 0 0 { thread with launch := 5, status := q }
    (paired run).launches.find? 5 = some run ∧ (paired run).launchQuiet 5 = true ∧ ((paired run).fenceAll 1 1).isSome = true ∧
      (left .ready).launchQuiet 5 = false ∧
      ((left .engine).abortStep 5).2 = false ∧ ((paired run).abortStep 5).2 = true ∧ pending.started = false ∧
      (let z := ({ paired pending with launches := [] } : State).modOwnerIn 1 1 (fun o => { o with queue := o.queue.filter (· ≠ 5) })
       z.mgmtWalk 1 (dataAddr (pending.record.xs.getD 0 0)) = .ok leaf) := by decide +kernel

/-- Writes and reads that are allowed and not, on both kinds of queue pair, and of a control line; an aligned word whose home is
free; records held for 5 cycles, and as many as an event takes. -/
theorem witness_HostEvents_data :
    (match paired.qps.find? 65 with
      | none => false
      | some k => !k.launch &&
        (match paired.ueWrites k (cutLines (64 / 64 + 2) 0x10000 (List.replicate 64 7)) with | .ok _ _ => true | _ => false) &&
        (match paired.ueWrites k (cutLines (1 / 64 + 2) 0x90000 [7]) with | .error _ => true | _ => false) &&
        (match paired.ueReads k (lineCuts 0x10000 8) with | .ok _ _ => true | _ => false) &&
        (match paired.ueReads k (lineCuts 0x90000 8) with | .error _ => true | _ => false)) = true ∧
      ([64, 65] : List Nat).all (fun q => (BitVec.ofNat 55 (2 ^ 55 - 64 * 2 ^ 17 + 64 * (q % 2 ^ 17))).toNat ==
        2 ^ 55 - 64 * 2 ^ 17 + 64 * (q % 2 ^ 17)) = true ∧
      onControl 64 0x10000 8 = false ∧ onControl 65 0x10000 64 = false ∧ (0x10001 : Pc).toNat % 8 ≠ 0 ∧
      paired.mgmtWalk 1 0x10008 = .ok leaf ∧ paired.ueMay 1 leaf 0x10008 1 = true ∧
      okAnd ((atHome ⟨0, 8, 1, some 64, 0x10008, 1, false⟩ 0x10008).run paired) (fun _ _ => true) = true ∧
      ([5, 4] : List Nat).all (fun n => (({ paired (f := fun k => { k with held := [⟨[1], 0, 5⟩], max := 2 }) with
        now := n } : State).qps.find? 64).map QueuePair.held == some [⟨[1], 0, 5⟩]) = true := by decide +kernel
/-- Device 1 with its service line at 0x10400, whose words 0 and 1 are a request and whose status word is empty; a pool of
one page of frames; an owner's handles, of which the other device reserves `n`. -/
def asking (w0 w1 : Word) (n : Nat := 0) (hs : Tbl Handle := []) : State :=
  let t := tabled (withCore (fun k => { k with ctxs := [(0, { ctx with service := some 0x10400 })] }))
  { t with
    mem := memWrite t.mem 0x10400 (leBytes 8 w0.toNat ++ leBytes 8 w1.toNat), metas := [(0x410, ⟨0xFB, false, 1⟩)]
    vdevs := [(1, ⟨0x200000, [(1, 7)], (List.range 256).map (fun k => 0x30000 + 256 * k)⟩)]
    nodes := [(1, { node with handles := hs, owners := [owner,
      Owner.fresh { OwnerEntry.plain 2 with resHandles := n } 0] })] }

/-- The request is taken: its kind and the state after its bell. -/
def taken (s : State) (kind : Nat) (p : State → Bool) : Bool :=
  s.bell 0 0 == some (1, 0x10400, 0x10400, kind) && match s.takeBell 1 0x10400 0x10400 with
  | some u => p u
  | none => false

/-- A request answered with a status. -/
def replies (u : State) (st : Nat) (r : Option Word := none) : Bool := (u.answer 1 0x10400 st r).isSome

/-- Requests to map that are malformed, of no kind, without a grant, that can be made, that are mapped already and that wait;
to unmap that are malformed, of what is not mapped, of another size and of a mapped page. -/
theorem witness_ServiceLineRequests_pages :
    (let map : Word := 4 + 2 ^ 16
     taken (asking 0x20001 map) 0 (fun u => pageReqOk 0x20001 map == false && replies u 4) = true ∧
       taken (asking 0 (4 * 16)) 4 (fun u => replies u 4) = true ∧
       taken (asking 0x20000 (4 + 2 ^ 17)) 0 (fun u => pageReqOk 0x20000 (4 + 2 ^ 17) && u.granted 1 2 == false && replies u 5) = true ∧
       taken (asking 0x20000 map) 0 (fun u => pageReqOk 0x20000 map && u.granted 1 1 &&
         match u.mapPage 1 0x20000 4 1 with
         | .ok z => replies z 0
         | .error _ => false) = true ∧
       taken (asking 0x10000 map) 0 (fun u => pageReqOk 0x10000 map && u.granted 1 1 && (u.vdevs.find? 1).isSome &&
         u.vdevs.any (fun p => u.pageTaken 0x10000 4 p.2.root == some (.status 2)) && replies u 2) = true ∧
       taken ({ asking 0x20000 map with mem := memWrite (asking 0x20000 map).mem 0x202010 [2] }) 0 (fun u =>
         match u.mapPage 1 0x20000 4 1 with
         | .error .wait => true
         | _ => false) = true) ∧
    (let un : Word := 4 + 8
     taken (asking 0x20001 un) 0 (fun u => pageReqOk 0x20001 un == false && replies u 4) = true ∧
       taken (asking 0x20000 un) 0 (fun u => pageReqOk 0x20000 un && replies u 3 &&
         match u.mgmtWalk 1 0x20000 with
         | .fault _ => true
         | _ => false) = true ∧
       taken (asking 0x10000 (3 + 8)) 0 (fun u => pageReqOk 0x10000 (3 + 8) && u.mgmtWalk 1 0x10000 == .ok leaf &&
         leaf.size != 3 && replies u 3) = true ∧
       taken (asking 0x10000 un) 0 (fun u => u.mgmtWalk 1 0x10000 == .ok leaf && leaf.ga == 0x10000 && leaf.size == 4 &&
         !u.frameMoving leaf &&
         ((u.migrateFrom 1 [1] leaf none (some 0x10400)).migrating? 1 0x10000).isSome) = true) := by decide +kernel

/-- Requests for handles with a reserved bit; to create one within and beyond the pool; to revoke and to free one that is live,
and that is not. -/
theorem witness_ServiceLineRequests_handles :
    ([1, 2, 3] : List Nat).all (fun kind => ([2 ^ 8, 2 ^ 32] : List Nat).all (fun r =>
      taken (asking 3 (BitVec.ofNat 64 (16 * kind + r)) 0 []) kind (fun u => replies u 4 && (u.nodes.find? 1).isSome))) = true ∧
      ([0, 65535] : List Nat).all (fun n => (asking 0 16 n).partOf 0 == some 1 && taken (asking 0 16 n) 1 (fun u =>
        match u.nodes.find? 1 with
        | some k => ((List.range 65536).drop 1).find? (fun i => !(k.handle i).live) == some 1 &&
          (poolOpen 65535 k.owners OwnerEntry.resHandles k.handlesUsed 1 == (n == 0)) && replies u 6 &&
          ((u.putNode 1 { k with handles := k.handles.put 1 ⟨(k.handle 1).gen, 1, true⟩ }).answer 1 0x10400 0
            (some (BitVec.ofNat 64 (1 + (k.handle 1).gen * 2 ^ 16)))).isSome
        | none => false)) = true ∧
      ([2, 3] : List Nat).all (fun kind => ([true, false] : List Bool).all (fun b =>
        taken (asking 3 (BitVec.ofNat 64 (16 * kind)) 0 [(3, ⟨5, 1, b⟩)]) kind (fun u => (0x3 : Word).toNat % 2 ^ 16 == 3 &&
          (match u.nodes.find? 1 with | some k => (k.handle 3).live == b && (k.handle 3).owner == 1 | none => false) &&
          replies u 7))) = true := by decide +kernel

/-- An answer; a landing of a copy of a handle; migrations of what is mapped, to an allotted frame and to one that is out of
reach, and of what is not. -/
theorem witness_ServiceLineRequests_answers :
    ((asking 0 0).mgmtWalk 1 0x10400 = .ok leaf ∧ memWf (asking 0 0).mem = true ∧ replies (asking 0 0) 4 = true) ∧
    (let s := { barrow { copy with hidx := 3 } (fun k => { k with landing := [packet] }) with nodes := [(1, node)] }
     s.nodes.find? 1 = some node ∧ 0 ∈ s.landingCores 1 3) ∧
    ((asking 0 0).migrating? 1 0x10000 = none ∧ (asking 0 0).migrating? 1 0x90000 = none ∧
      (asking 0 0).mgmtWalk 1 0x90000 = .fault 0 ∧ (asking 0 0).mgmtWalk 1 0x10000 = .ok leaf ∧
      (asking 0 0).frameMoving leaf = false ∧ (asking 0 0).mappers leaf.ga leaf.pa = [1] ∧ 0x30000 % pageSize leaf.size = 0 ∧
      (asking 0 0).frameOpen 1 0x30000 = true ∧ 0x30001 % pageSize leaf.size ≠ 0 ∧
      (((asking 0 0).migrateFrom 1 [1] leaf none none).migrating? 1 0x10000).isSome = true ∧
      (((asking 0 0).migrateFrom 1 [1] leaf (some 0x30000) none).migrating? 1 0x10000).isSome = true) := by decide +kernel
/-- The module in service, its nodes as given. -/
def serving (ns : Tbl Node) (s : State := { State.reset with nodes := [] }) : State :=
  { s with nodes := ns, ridge := { s.ridge with service := 2 } }

/-- A partition of device 1. -/
def idle : Node := { Node.free with st := .part, owners := [owner] }

/-- A node whose children are in the tree. -/
def split : Node := { Node.free with st := .split }

/-- Nodes that are free, idle, split and busy; a shrink that has not begun and one whose kept child is named. -/
theorem witness_ManagementEvents_nodes :
    ((serving [(1, Node.free)]).nodes.find? 1 = some .free ∧ (serving [(1, Node.free)]).allottable 1 = true ∧
      ([1, 2] : List VDev).Nodup ∧ (State.reset).allottable 1 = false) ∧
    ((serving [(1, idle)]).nodes.find? 1 = some idle ∧ idle.st = .part ∧ (serving [(1, idle)]).nodeIdle 1 = true ∧
      (serving [(1, idle)] (state [])).nodeIdle 1 = false ∧ split.st = .split) ∧
    (([Node.free, idle] : List Node).all (fun k =>
       let s := serving [(1, split), (2, k), (3, k)]
       s.nodes.find? 1 == some split && s.nodes.find? 2 == some k && s.nodes.find? 3 == some k && s.nodeIdle 2 && s.nodeIdle 3 &&
         (innerBoundaries 1).all (fun j => bitOf s.ridge.bfail.toNat j == false)) = true) ∧
    (((serving [(1, idle)]).giveUpAll ((serving [(1, idle)]).coresIn 1)).isSome = true ∧
      (let t := tabled (withCore (fun k => { k with slots := [], mtc := [], stash := [(0, entry true .dirty false)] }))
       let s := serving [(1, idle)] { t with mem := memWrite t.mem 0x202008 [2] }
       s.nodeIdle 1 = true ∧ (s.giveUpAll (s.coresIn 1)).isNone = true)) ∧
    (serving [(1, idle)]).coresIn 2 = [] ∧ idle.keep = none ∧ ({ idle with keep := some 2 } : Node).keep = some 2 := by
  decide +kernel

/-- A configuration that is taken in a partition that waits for nothing, and one that an earlier measure is before; a range
that is measured, refused and waits; a nonce. -/
theorem witness_ManagementEvents_measures :
    (let g : OwnerCfg := ⟨1, [{ OwnerEntry.plain 1 with weight := 255 }], [7], true⟩
     idle.cfgSeq < g.seq ∧ g.owners.all (fun e => decide (1 ≤ e.weight ∧ e.weight ≤ 255 ∧ e.quota ≤ 62 ∧ e.vdev ∈ idle.devices)) =
       true ∧ idle.owners.find? (fun o => o.cfg.vdev == 1) = some owner ∧ (serving [(1, idle)]).extending 1 = false ∧
       ((serving [(1, idle)]).await (.measureRequest 1 0x10000 8)).extending 1 = true) ∧
    (let s : State := { tabled (state []) with nodes := [(1, idle)] }
     s.extending 1 = false ∧ idle.devices = [1] ∧
       (match s.measured [1] (lineCuts 0x10000 8) with | .ok _ _ => true | _ => false) = true ∧
       (match s.measured [1] (lineCuts 0x90000 8) with | .error _ => true | _ => false) = true ∧
       (match ({ s with mem := memWrite s.mem 0x202008 [2] } : State).measured [1] (lineCuts 0x10000 8) with
         | .wait => true
         | _ => false) = true) ∧
    (List.replicate 64 (0 : Byte)).length = 64 := by decide +kernel

/-- A context's grant within the limit and beyond it, and a device without a context; a granule of another owner; devices that
are and are not. -/
theorem witness_ManagementEvents_devices :
    ((state []).ctxOf 0 1 = some 0 ∧ (state []).erateSum - ((state []).ctx 0 0).erate.toNat + 1064960000 ≤ 1064960000 ∧
      1064960000 < (state []).erateSum - ((state []).ctx 0 0).erate.toNat + 1064960001 ∧ (state []).ctxOf 0 9 = none) ∧
    (memWf (state []).mem = true ∧ ((state []).core (homeOf (4096 * 16))).dark = false ∧
      (state []).frameReach 2 (4096 * 16) = true ∧ ((state []).granule 16).owner ≠ 2) ∧
    ((state []).vdevs.find? 2 = none ∧ ((state []).vdevs.find? 1).isSome = true ∧ ((state []).partitionOf 1).isSome = true ∧
      (let s : State := { State.reset with vdevs := [(1, ⟨0x200000, [], []⟩)] }
       (s.vdevs.find? 1).isSome = true ∧ s.partitionOf 1 = none ∧ s.cores = [] ∧ s.vdevs.wf = true)) := by decide +kernel

/-- A service line that is granted, one that an engine owns and one whose frame another device owns; a frame at a home that is
dark; a device with rights; handles of a node that is and of one that is not. -/
theorem witness_ManagementEvents_registers :
    (let s := tabled (state [])
     let engine := s.modCore 0 (fun k => { k with dir := [(0x410, ⟨[], [], [], false, some 3⟩)] })
     let foreign : State := { s with granules := s.granules.filter (fun p => p.1 != 16) }
     let empty (s : State) : State := (((s.putWord 0x10400 0).putWord 0x10408 0).setFull 0x10410 false).setFull 0x10418 false
     s.ctxOf 0 1 = some 0 ∧ ([s, engine, foreign] : List State).all (fun s => s.mgmtWalk 1 0x10400 == .ok leaf) = true ∧
       leaf.phys 0x10400 = 0x10400 ∧ homeOf 0x10400 = 0 ∧ s.ownerOk 0 1 0x10400 = true ∧ foreign.ownerOk 0 1 0x10400 = false ∧
       engine.ownerOk 0 1 0x10400 = true ∧ (s.onLine 1 0x10400 0x10400 empty).isSome = true ∧
       (engine.onLine 1 0x10400 0x10400 empty).isNone = true ∧ (0x10400 : Pc).toNat % 64 = 0 ∧ (0x10401 : Pc).toNat % 64 ≠ 0) ∧
    ((state []).vdevs.find? 1 = some ⟨0x200000, [(1, 7)], []⟩ ∧ ((state []).core (homeOf 0x30000)).dark = false ∧
      ((withCore (fun k => { k with dark := true })).core (homeOf 0x10000)).dark = true) ∧
    ((state []).nodes.find? 1 = some node ∧ (state []).nodes.find? 2 = none) := by decide +kernel

/-- The reservations of that configuration are within every pool, whatever their sizes. -/
theorem witness_ManagementEvents_reserved : reservedOk (idle.owners.map (fun _ => { OwnerEntry.plain 1 with weight := 255 })) =
    true := by simp [reservedOk, idle, OwnerEntry.plain]

/-- A slice line; a context without use of its turns; one node; soft errors that are correctable, of two homes. -/
theorem witness_ClockAndBoardEvents_clocks :
    (((sliced []).core 0).slice.wf = true ∧ ((sliced []).core 0).slice.any (fun _ => true) = true) ∧
      (((withCore (fun k => { k with ctxs := [(0, { ctx with ebud := 5, erate := 9 })] })).replenish 0).core 0).ctxs.any (fun x =>
        x.2.ebud == 14) = true ∧
      (state []).nodes = [(1, node)] ∧
      (([(0x2000, false), (0x90000, false)] : Tbl Bool).all (fun p => p.2 == false)) = true ∧ homeOf (8 * 0x2000) = 0 ∧
      homeOf (64 * (0x90000 / 8)) = 1 := by decide +kernel

/-- A module on standby power, and one in each state of its rails and of service. -/
def booting (stage : Nat) (f : Ridge → Ridge := id) : State :=
  { State.reset with ridge := f { State.reset.ridge with stbyOk := true, stage := stage } }

/-- Boot stages before the first, the second and the fourth; a failed one; rails that are up, that come up and that are down; a
power-down at each of its steps and between two; stacks that are trained and not; cycles at a rotation boundary and not; sensors
and their times; a boundary before and at its ninth failed link. -/
theorem witness_ClockAndBoardEvents_board :
    ([0, 1, 3, 4] : List Nat).all (fun n => (booting n).ridge.stbyOk && (booting n).ridge.bootfail == 0 &&
      (booting n).ridge.stage == n) = true ∧ State.reset.ridge.stbyOk = false ∧ State.reset.ridge.coreEn = false ∧
      State.reset.ridge.memEn = false ∧
      (let up := booting 4 (fun r => { r with coreEn := true, memEn := true, coreOk := true, memOk := true })
       up.ridge.coreOk = true ∧ up.ridge.memOk = true ∧ up.ridge.service = 0 ∧ up.ridge.downAt = none ∧
         (booting 4 (fun r => { r with coreEn := true, memEn := true, coreOk := true })).ridge.memOk = false ∧
         (booting 4 (fun r => { r with coreEn := true })).ridge.memEn = false ∧
         (booting 4 (fun r => { r with downAt := some 0 })).now < 0 + 12500000 ∧ (12500000 : Nat) ≤ 12500000 ∧
         ({ up with selfTested := [(0, 5)] } : State).selfTested.find? 0 = some 5) ∧
      (let full := booting 4 (fun r => { r with service := 1, trained := List.range 16 })
       ((List.range 16).all full.ridge.trained.contains && !(booting 4).ridge.trained.contains 15) = true) ∧
      ([0, 1] : List Nat).all (fun n =>
        let s : State := { booting 4 (fun r => { r with service := 1 }) with now := n }
        (s.now - s.selfTested.get 0 0) % 64 == n) = true ∧ (State.reset.core 0).cycBase = 0 ∧
      State.reset.ridge.cool = some 0 ∧ 0 + 1250000 ≤ 1250000 ∧ ¬ (0 + 1250000 ≤ 1249999) ∧
      (booting 4 (fun r => { r with throttle := true })).ridge.throttle = true ∧
      (booting 4 (fun r => { r with cool := none })).ridge.cool = none ∧ 23 < 24 ∧
      (booting 4 (fun r => { r with links := [(47, 8)] })).ridge.links.get 47 0 = 8 ∧ State.reset.ridge.links.get 47 0 = 0 := by
  decide +kernel

/-- A core that hosts nothing but a record that waits, in a partition; one with a thread that cannot be evicted, and one whose
engine is at work; a core whose contexts can leave. -/
theorem witness_ClockAndBoardEvents_selfTest :
    let shut (s : State) : State := (s.modCore 0 (fun k => { k with closed := true })).clearOut 0
    (let k := State.reset.core 3
     k.slots = [] ∧ k.ctxs = [] ∧ State.reset.enginesIdle 3 = true) ∧
    (let s := withCore (fun k => { k with slots := [], ctxs := [], queue := [record] })
     (s.core 0).slots = [] ∧ (s.core 0).ctxs = [] ∧ s.enginesIdle 0 = true ∧ s.partOf 0 = some 1) ∧
    ((shut (state [] { thread with status := .engine })).core 0).slots ≠ [] ∧
    (shut (withCore (fun k => { k with slots := [], barrow := (barrow copy |>.core 0).barrow }))).enginesIdle 0 = false ∧
    (let s := withCore (fun k => { k with slots := [] })
     (s.core 0).ctxs ≠ [] ∧ ((shut s).tested 0 .pass).isSome = true) := by decide +kernel

/-- A state with the invariant, whose step, of a NOP, leads to a next state. -/
theorem witness_StepKeepsStateWf : State.reset.wf ∧
    (match step (State.reset.withFetchWord 16 0x0080) with | .next _ => true | _ => false) = true := by
  exact ⟨⟨by decide +kernel, by decide +kernel⟩, by decide +kernel⟩

end Sys2Proof.Tests
end

section
/-! Copies and landings (chapter 10): the parts of a body that the copy and landing instructions share, CPYST and CPYCAN,
LANDST and LANDEND, and the packets that land without a handler. -/

namespace Sys2Proof.Machine

section
variable {s s' u : State} {t : Turn} {h : Thread} {g : Guard}

/-! ## Parts of a body -/

/-- A part that may have to wait, and need not. -/
theorem run_orWait_some {f : State → Option State} {on : WaitOn} (hf : f s = some s') : (orWait f on).run s = .ok ((), s') := by
  unfold orWait
  rw [run_bind_get, hf]
  rfl

@[simp] theorem State.storePrivate_turn (s : State) (c : Nat) (e : Held) : (s.storePrivate c e).turn = s.turn := by
  unfold State.storePrivate
  split <;> rfl

@[simp] theorem State.pinProgram_turn (s : State) (frame : Nat) (up : Bool) : (s.pinProgram frame up).turn = s.turn := rfl

theorem foldl_turn {α : Type} {f : State → α → State} (hf : ∀ s a, (f s a).turn = s.turn) (l : List α) (s : State) :
    (l.foldl f s).turn = s.turn := by
  induction l generalizing s with
  | nil => rfl
  | cons a l ih => rw [List.foldl_cons, ih, hf]

@[simp] theorem State.commitQuiet_turn (s : State) (c i : Nat) : (s.commitQuiet c i).turn = s.turn := by
  unfold State.commitQuiet
  split
  · rfl
  · rw [State.setThread_turn, foldl_turn (fun _ _ => State.pinProgram_turn ..), foldl_turn (fun _ _ => State.storePrivate_turn ..)]

@[simp] theorem State.ended_turn (s : State) (t : Turn) : (s.ended t).turn = s.turn := by simp [State.ended]

/-- A chunk without read and write set ends at once (R145). -/
theorem run_endChunk (r : Running s t h) (hq : h.chunk.quiet = true) : endChunk.run s = .ok ((), s.ended t) := by
  unfold endChunk
  rw [run_bind_ok (run_me r.turn)]
  dsimp only
  rw [run_bind_ok (run_thr r)]
  simp only [hq, Bool.not_true, Bool.false_eq_true, if_false]
  unfold modThr
  rw [run_bind_modify, run_bind_ok (run_me (by simpa using r.turn))]
  rfl

theorem Thread.flagged_zero (h : Thread) : h.flagged 0 0 = { h with status := .ready, issued := none } := by
  simp [Thread.flagged]

/-- A body that keeps the turn goes on to the turn's next instruction. -/
theorem runNext_turn (r : Running s t h) (hg : h.guard g = true) {body : Act Unit}
    (hb : body.run (s.readied t h) = .ok ((), s')) (ht : s'.turn = some t) : runNext g body s = .next (s'.retire t) := by
  rw [runNext_ok r hg hb (by simp [ht, r.clean]), ht, Option.getD_some]

/-- Of a body only what it does in the state in which it begins counts. -/
theorem runNext_congr (r : Running s t h) {body body' : Act Unit}
    (hb : body.run (s.readied t h) = body'.run (s.readied t h)) : runNext g body s = runNext g body' s := by
  unfold runNext runInstr
  simp only [r.turn, r.thread]
  rw [show s.setThread t.core t.slot { h with status := .ready, issued := none } = s.readied t h from rfl,
    StateT.run_bind, StateT.run_bind, hb]

/-- A body that comes to a write of its destination with nothing else changed. -/
theorem runNext_wr (r : Running s t h) (hg : h.guard g = true) {d : Reg} (hd : h.takes d) {v : Word} {body : Act Unit}
    (hb : body.run (s.readied t h) = (wr d v).run (s.readied t h)) : runNext g body s = .next (s.result t h d v 0) := by
  rw [run_wr r.readied (by simpa using hd), put_status] at hb
  rw [runNext_ok r hg hb (by simp [r.readied.turn, r.clean])]
  rw [← result_of_flagged v 0 0 r.turn, Thread.flagged_zero]
  rfl

/-- A body after which the thread's slot is empty leaves the state as it made it. -/
theorem runInstr_stay_gone (r : Running s t h) (hg : h.guard g = true) {body : Act Done}
    (hb : body.run (s.readied t h) = .ok (.stay, s')) (hc : s'.turn.bind Turn.poison = none)
    (hn : s'.thread? t.core t.slot = none) : runInstr g body s = .next s' := by
  unfold runInstr
  simp only [r.turn, r.thread, hg, if_true]
  rw [show s.setThread t.core t.slot { h with status := .ready, issued := none } = s.readied t h from rfl, hb]
  simp only [State.finish, hc, hn]

/-! ## What a write of a thread leaves alone -/

/-- What of a core does not lie in its slots, a write of a thread leaves alone. -/
theorem State.core_setThread_of {α : Type} {f : Core → α} (hf : ∀ (k : Core) (l : Tbl Thread), f { k with slots := l } = f k)
    (s : State) (c i d : Nat) (h : Thread) : f ((s.setThread c i h).core d) = f (s.core d) := by
  by_cases hd : d = c
  · subst hd
    rw [State.core_setThread_same, hf]
  · rw [State.core_setThread_other _ _ _ hd]

@[simp] theorem State.copyOf_setThread (s : State) (c i : Nat) (h : Thread) (p : LandPkt) :
    (s.setThread c i h).copyOf p = s.copyOf p := by
  unfold State.copyOf
  rw [State.core_setThread_of (f := Core.barrow) (fun _ _ => rfl)]

@[simp] theorem State.copiesOf_setThread (s : State) (c i d : Nat) (h : Thread) (tag : Half) :
    (s.setThread c i h).copiesOf d tag = s.copiesOf d tag := by
  unfold State.copiesOf
  rw [State.core_setThread_of (f := Core.barrow) (fun _ _ => rfl)]

@[simp] theorem State.landRun_setThread (s : State) (c i d : Nat) (h : Thread) :
    ((s.setThread c i h).core d).landRun = (s.core d).landRun :=
  State.core_setThread_of (f := Core.landRun) (fun _ _ => rfl) s c i d h

@[simp] theorem State.walkerOk_setThread (s : State) (c i d pa : Nat) (h : Thread) :
    (s.setThread c i h).walkerOk d pa = s.walkerOk d pa := by
  unfold State.walkerOk
  rw [State.core_setThread_of (f := Core.dark) (fun _ _ => rfl)]
  rfl

theorem walkFrom_setThread (s : State) (c i d : Nat) (h : Thread) (v : VDev) (ga fuel level base : Nat) :
    walkFrom (s.setThread c i h) d v ga fuel level base = walkFrom s d v ga fuel level base := by
  induction fuel generalizing level base with
  | zero => rfl
  | succ fuel ih =>
    simp only [walkFrom, State.walkerOk_setThread, State.setThread_mem, ih]
    rfl

@[simp] theorem State.translate_setThread (s : State) (c i d : Nat) (h : Thread) (v : VDev) (ga : Nat) :
    (s.setThread c i h).translate d v ga = s.translate d v ga := by
  unfold State.translate State.walk
  rw [State.core_setThread_of (f := Core.mtc) (fun _ _ => rfl)]
  simp only [walkFrom_setThread]
  rfl

/-- An engine reaches what translates at that address. -/
theorem State.enginePhys_of_translate {c : Nat} {v : VDev} {ga : Nat} {l : Leaf} (hl : s.translate c v ga = .ok l) :
    s.enginePhys c v ga = some (l.phys ga) := by
  simp [State.enginePhys, State.engineLookup, State.lookup, hl]

@[simp] theorem State.modCopy_turn (s : State) (p : LandPkt) (f : Copy → Copy) : (s.modCopy p f).turn = s.turn := by
  unfold State.modCopy
  split <;> rfl

@[simp] theorem State.costCopy_turn (s : State) (p : LandPkt) (n : Nat) : (s.costCopy p n).turn = s.turn := by
  rw [State.costCopy, State.modCopy_turn]

/-! ## CPYST and CPYCAN (R186, R187) -/

/-- What CPYST writes for the copies of its tag, oldest first: the state and the bytes sent of the first (R187). -/
def copyWord : List (Nat × Copy) → Word
  | [] => 0
  | (_, y) :: _ =>
    toW ((match y.st with | .waiting => 1 | .reading => 2 | .sent => 3) + min y.sent (2 ^ 48 - 1) * 2 ^ 16)

/-- CPYST writes the word of its tag's copies, and nothing else. -/
theorem exec_cpyst (r : Running s t h) (hg : h.guard g = true) {d a : Reg} {x : Word} (hd : h.takes d)
    (ha : s.reads t.core h a x) :
    exec (.cpyst g d a) s = .next (s.result t h d (copyWord (s.copiesOf t.core (x.setWidth 32))) 0) := by
  show execCpyst g d a s = _
  unfold execCpyst
  apply runNext_wr r hg hd
  rw [run_bind_ok (run_checkFields r.readied (by simp [Thread.field, hd, takes_of_reads ha])),
    run_bind_ok (run_rd r.readied (reads_readied ha)), run_bind_ok (run_me r.readied.turn), run_bind_get]
  rw [← BitVec.setWidth_eq_extractLsb' (by decide), State.readied, State.copiesOf_setThread]
  cases hl : s.copiesOf t.core (x.setWidth 32) with
  | nil => rfl
  | cons p l =>
    obtain ⟨_, y⟩ := p
    cases hy : y.st <;> simp [copyWord, hy]

/-- A tag that no copy of the core has names none. -/
theorem State.copiesOf_eq_nil {c : Nat} {tag : Half} (hn : ∀ p ∈ (s.core c).barrow, p.2.tag ≠ tag) :
    s.copiesOf c tag = [] := by
  have : (s.core c).barrow.filter (fun p => p.2.tag == tag) = [] := by
    rw [List.filter_eq_nil_iff]
    simpa using hn
  rw [State.copiesOf, this, List.mergeSort_nil]

theorem State.mem_copiesOf {c : Nat} {tag : Half} {p : Nat × Copy} :
    p ∈ s.copiesOf c tag ↔ p ∈ (s.core c).barrow ∧ p.2.tag = tag := by
  simp [State.copiesOf]

/-- The first of a tag's copies is as old as each of them. -/
theorem State.copiesOf_head_le {c : Nat} {tag : Half} {p q : Nat × Copy} {l : List (Nat × Copy)}
    (hl : s.copiesOf c tag = p :: l) (hq : q ∈ s.copiesOf c tag) : p.2.id ≤ q.2.id := by
  have sorted : (s.copiesOf c tag).Pairwise (fun a b => decide (a.2.id ≤ b.2.id) = true) :=
    List.pairwise_mergeSort (fun a b c hab hbc => by simp only [decide_eq_true_eq] at *; omega)
      (fun a b => by simp only [Bool.or_eq_true, decide_eq_true_eq]; omega) _
  rw [hl] at sorted hq
  rcases List.mem_cons.mp hq with rfl | hq
  · exact Nat.le_refl _
  · simpa using (List.pairwise_cons.mp sorted).1 q hq

/-- The one copy of a tag that is older than every other is the first. -/
theorem State.copiesOf_oldest {c reg : Nat} {tag : Half} {y : Copy} (hm : (reg, y) ∈ (s.core c).barrow) (hy : y.tag = tag)
    (ho : ∀ p ∈ (s.core c).barrow, p.2.tag = tag → p = (reg, y) ∨ y.id < p.2.id) :
    ∃ l, s.copiesOf c tag = (reg, y) :: l := by
  have mem : (reg, y) ∈ s.copiesOf c tag := State.mem_copiesOf.mpr ⟨hm, hy⟩
  cases hl : s.copiesOf c tag with
  | nil => simp [hl] at mem
  | cons p l =>
    obtain ⟨hpm, hpt⟩ := State.mem_copiesOf.mp (hl ▸ List.mem_cons_self : p ∈ s.copiesOf c tag)
    rcases ho p hpm hpt with rfl | hlt
    · exact ⟨l, rfl⟩
    · exact absurd (State.copiesOf_head_le hl mem) (by simpa using hlt)

/-- CPYCAN ends its chunk and marks the copies of its tag that have packets to send (R186). -/
theorem exec_cpycan (r : Running s t h) (hg : h.guard g = true) {a : Reg} {x : Word} (ha : s.reads t.core h a x)
    (hq : h.chunk.quiet = true) :
    exec (.cpycan g a) s = .next ((((s.readied t h).ended t).modCore t.core (fun k => { k with
      barrow := k.barrow.map (fun p => if p.2.tag = x.setWidth 32 ∧ p.2.st ≠ .sent then (p.1, { p.2 with cancelled := true })
        else p) })).retire t) := by
  have turn : ((s.readied t h).ended t).turn = some t := by rw [State.ended_turn, r.readied.turn]
  show execCpycan g a s = _
  unfold execCpycan
  refine runNext_turn r hg ?_ turn
  rw [run_bind_ok (run_checkFields r.readied (by simp [Thread.field, takes_of_reads ha])),
    run_bind_ok (run_rd r.readied (reads_readied ha)), run_bind_ok (run_endChunk r.readied hq),
    run_bind_ok (run_me turn), ← BitVec.setWidth_eq_extractLsb' (by decide)]
  simp only [Bool.and_eq_true, beq_iff_eq, bne_iff_ne]
  rfl

/-! ## Landing handlers (R176-R178) -/

/-- Off the riddle LANDST and LANDEND are ILLEGAL_OP. -/
theorem run_landing_off (ht : s.turn = some t) (hs : t.slot ≠ 63) (i : Instr) :
    (landing i).run s = .error (.trap ⟨1, headValue i, 0, 0⟩ []) := by
  unfold landing
  rw [run_bind_ok (run_me ht)]
  dsimp only
  rw [run_bind_ok (run_onRiddle ht), if_pos (by simpa using hs)]
  exact run_bind_error (run_raise ..)

/-- On the riddle they find the packet and the copy of the handler that it runs. -/
theorem run_landing {q : LandRun} {y : Copy} (r : Running s t h) (hs : t.slot = 63)
    (hl : (s.core t.core).landRun = some q) (hy : s.copyOf q.pkt = some y) (i : Instr) :
    (landing i).run (s.readied t h) = .ok ((q.pkt, y), s.readied t h) := by
  unfold landing
  rw [run_bind_ok (run_me r.readied.turn)]
  dsimp only
  rw [run_bind_ok (run_onRiddle r.readied.turn), if_neg (by simp [hs])]
  simp only [run_bind_get, State.readied, State.landRun_setThread, State.copyOf_setThread, hl, hy]
  rfl

/-- A landing handler's trap that logs nothing ends its copy (R176). -/
theorem runNext_landFault (r : Running s t h) (hg : h.guard g = true) (hs : t.slot = 63) {body : Act Unit} {tr : Trap}
    (hb : body.run (s.readied t h) = .error (.trap tr [])) :
    runNext g body s = .next ((s.readied t h).landFault t.core) := by
  rw [runNext_trap r hg hb, State.takeTrap, r.readied.thread]
  simp only [hs, if_true]
  rfl

/-- A free riddle runs no thread. -/
theorem State.thread?_riddleFree {c : Nat} (hw : (s.core c).slots.wf = true) : (s.riddleFree c).thread? c 63 = none := by
  rw [State.thread?, State.riddleFree, State.core_modCore_same]
  exact Tbl.find?_del_same _ _ hw

/-- LANDEND lands the handler's packet and frees the riddle (R178). -/
theorem exec_landend {q : LandRun} {y : Copy} (r : Running s t h) (hg : h.guard g = true) (hs : t.slot = 63)
    (hl : (s.core t.core).landRun = some q) (hy : s.copyOf q.pkt = some y)
    (hu : (s.readied t h).landed t.core q.pkt = some u) (ht : u.turn = some t) (hw : (u.core t.core).slots.wf = true) :
    exec (.landend g) s = .next (u.riddleFree t.core) := by
  show execLandend g s = _
  unfold execLandend
  refine runInstr_stay_gone r hg ?_ (by simp [ht, r.clean]) (hs ▸ State.thread?_riddleFree hw)
  rw [run_bind_ok (run_landing r hs hl hy _)]
  dsimp only
  rw [run_bind_ok (run_me r.readied.turn)]
  dsimp only
  rw [run_bind_ok (run_orWait_some hu)]
  rfl

/-! ### LANDST (R177) -/

/-- A format of a base or an element that LANDST accepts. -/
def landstFmt (f : Nat) : Prop := f < 16 ∧ f ≠ 6 ∧ f ≠ 7

/-- What LANDST does to the operand `q` once its formats have passed: the checks of the element's place, and the write. -/
def landstAt (d : Reg) (nu : BitVec 8) (p : LandPkt) (y : Copy) (q : MemRef) : Act Unit := do
  if q.at_ % elemSize q.fmt ≠ 0 then misalign q.ptr
  let v ← rd d
  let slab := (y.piece p.e).slab
  if !y.extent.contains (slab.getD 0, q.at_ / 64) then raise 7 (addrDetail q.ptr) 1 0
  let (c, _) ← me
  let s ← get
  if slab.isNone then
    match s.enginePhys y.iss.core y.iss.vdev q.at_ with
    | some pa => if homeOf pa ≠ c then raise 7 (addrDetail q.ptr) 1 0
    | none => raise 7 (addrDetail q.ptr) 1 0
  let at_ := match slab with | some rc => rc | none => 2 ^ 20
  orWait (fun s => (s.engineWrite y.iss y.id at_ q.at_ (whole (leBytes (elemSize q.fmt) v.toNat))
    (if nu = 255 then y.iss.nu else nu.toNat) p.poison).map (fun w => w.1.costCopy p w.2))

/-- LANDST of a landing handler, its formats accepted, is what it does to its operand. -/
theorem exec_landst {d b : Reg} {m : MMod} {nu : BitVec 8} {off : BitVec 16} {v p : Word} {q : LandRun} {y : Copy}
    (r : Running s t h) (hs : t.slot = 63) (hl : (s.core t.core).landRun = some q) (hy : s.copyOf q.pkt = some y)
    (hd : s.reads t.core h d v) (hb : s.reads t.core h b p) (hp : landstFmt (ptrFmt p))
    (hf : landstFmt (memRef p off m.fo.toNat).fmt) :
    exec (.landst g d b m nu off) s = runNext g (landstAt d nu q.pkt y (memRef p off m.fo.toNat)) s := by
  obtain ⟨hp16, hp6, hp7⟩ := hp
  obtain ⟨hf16, hf6, hf7⟩ := hf
  show execLandst g d b m nu off s = _
  unfold execLandst
  refine runNext_congr r ?_
  rw [run_bind_ok (run_landing r hs hl hy _)]
  dsimp only
  rw [run_bind_ok (run_checkFields r.readied (by simp [Thread.field, takes_of_reads hd, takes_of_reads hb])),
    run_bind_ok (run_rd r.readied (reads_readied hb)),
    if_neg (by simp [Nat.not_le.mpr hp16, Nat.not_le.mpr hf16, hp6, hp7, hf6, hf7])]
  rfl

section
variable {d : Reg} {nu : BitVec 8} {p : LandPkt} {y : Copy} {q : MemRef} {v : Word}

theorem run_landstAt_unaligned (ha : q.at_ % elemSize q.fmt ≠ 0) :
    (landstAt d nu p y q).run s = .error (.trap ⟨6, addrDetail q.ptr, 0, 0⟩ []) := by
  unfold landstAt
  rw [if_pos ha]
  exact run_bind_error (run_raise ..)

theorem run_landstAt_outside (r : Running s t h) (hd : s.reads t.core h d v) (ha : q.at_ % elemSize q.fmt = 0)
    (hk : y.extent.contains ((y.piece p.e).slab.getD 0, q.at_ / 64) = false) :
    (landstAt d nu p y q).run s = .error (.trap ⟨7, addrDetail q.ptr, 1, 0⟩ []) := by
  unfold landstAt
  rw [if_neg (by simpa using ha), run_bind_ok (run_rd r hd)]
  dsimp only
  rw [if_pos (by simpa using hk)]
  exact run_bind_error (run_raise ..)

/-- An aligned element of a line of the extent, at home on this core where the copy is no slab, is written. -/
theorem run_landstAt_inside (r : Running s t h) (hd : s.reads t.core h d v) (ha : q.at_ % elemSize q.fmt = 0)
    (hk : y.extent.contains ((y.piece p.e).slab.getD 0, q.at_ / 64) = true) {l : Leaf} {miss : Nat}
    (hx : (y.piece p.e).slab = none → s.translate y.iss.core y.iss.vdev q.at_ = .ok l ∧ homeOf (l.phys q.at_) = t.core)
    (hw : s.engineWrite y.iss y.id ((y.piece p.e).slab.getD (2 ^ 20)) q.at_ (whole (leBytes (elemSize q.fmt) v.toNat))
      (if nu = 255 then y.iss.nu else nu.toNat) p.poison = some (u, miss)) :
    (landstAt d nu p y q).run s = .ok ((), u.costCopy p miss) := by
  unfold landstAt
  rw [if_neg (by simpa using ha), run_bind_ok (run_rd r hd)]
  dsimp only
  rw [if_neg (by simpa using hk), run_bind_ok (run_me r.turn), run_bind_get]
  dsimp only
  cases hslab : (y.piece p.e).slab with
  | none =>
    obtain ⟨hl, hc⟩ := hx hslab
    rw [Option.isNone_none, if_pos rfl, State.enginePhys_of_translate hl]
    dsimp only
    rw [if_neg (by simpa using hc)]
    rw [hslab, Option.getD_none] at hw
    exact run_orWait_some (by simp only [hw, Option.map_some])
  | some rc =>
    rw [hslab, Option.getD_some] at hw
    exact run_orWait_some (by simp only [hw, Option.map_some])

end

/-! ### Packets written directly -/

/-- Packets of a copy that is no slab name no receiving core (R171). -/
theorem Copy.piece_slab_none {y : Copy} (hb : y.blk = 0) (e : Nat) : (y.piece e).slab = none := by
  simp [Copy.piece, Copy.place, hb]

theorem Copy.spanned_false {y : Copy} (hb : y.blk = 0) : y.spanned = false := by
  simp [Copy.spanned, hb]

/-- A core's oldest packet, of a copy without handler, slab or handle, lands when its bytes are written (R175, R176). -/
theorem State.landPacket_direct {c : Nat} {p : LandPkt} {rest : List LandPkt} {y : Copy} {l : Leaf} {miss : Nat}
    (hp : (s.core c).landing = p :: rest) (hy : s.copyOf p = some y) (hh : y.hidx = 0) (hb : y.blk = 0) (hl : y.land = 0)
    (hc : y.hosts.contains c = true → (s.ctxOf c y.iss.vdev).isSome = true)
    (hx : s.translate y.iss.core y.iss.vdev p.addr = .ok l) (ho : s.ownerOk y.iss.core y.iss.vdev (l.phys p.addr) = true)
    (hw : (s.modCore c (fun k => { k with landing := rest })).engineWrite y.iss y.id (2 ^ 20) p.addr (whole p.bytes)
      y.iss.nu p.poison = some (u, miss)) :
    s.landPacket c = (u.costCopy p miss).landed c p := by
  have hosted : (y.hosts.contains c && (s.ctxOf c y.iss.vdev).isNone) = false := by
    cases hm : y.hosts.contains c with
    | false => rfl
    | true => simpa using hc hm
  unfold State.landPacket
  simp only [hp, hy, hosted, Bool.false_eq_true, if_false]
  simp [-Nat.reducePow, hh, hl, Copy.piece_slab_none hb, Copy.spanned_false hb, hx, ho, hw]

end

/-! ## The obligations -/

/-- Settles O42: CPYST writes the word of its tag's first copy, which is the oldest since the copies stand in the order of
their numbers. -/
theorem copyStatusAndCancel : Obligations.CopyStatusAndCancel := by
  intro g d a x s t h r hg ha
  refine ⟨fun hd hn => ?_, fun reg y hd hm hy ho => ?_, exec_cpycan r hg ha⟩
  · rw [exec_cpyst r hg hd ha, State.copiesOf_eq_nil hn]
    rfl
  · obtain ⟨l, hl⟩ := State.copiesOf_oldest hm hy ho
    rw [exec_cpyst r hg hd ha, hl]
    rfl

/-- Settles O43: off the riddle both instructions find no packet and trap; a LANDST outside the extent or unaligned traps too,
which ends its handler's copy; every other case is the engine's write or the packet's landing. -/
theorem landingInstructions : Obligations.LandingInstructions := by
  refine ⟨fun g d b m nu off v p s u t h q y miss r hg => ⟨fun hs => ⟨?_, ?_⟩, fun hs hl hy => ⟨?_, ?_⟩⟩, ?_⟩
  · exact runNext_trap r hg (run_bind_error (run_landing_off r.readied.turn hs _))
  · exact runInstr_trap r hg (run_bind_error (run_landing_off r.readied.turn hs _))
  · exact fun hu ht hw => exec_landend r hg hs hl hy hu ht hw
  · intro hd hb
    dsimp only
    intro hp16 hp6 hp7 hf16 hf6 hf7
    rw [exec_landst r hs hl hy hd hb ⟨hp16, hp6, hp7⟩ ⟨hf16, hf6, hf7⟩]
    have hd' := reads_readied (t := t) hd
    refine ⟨fun ha hk => ?_, fun ha => ?_, fun l ha hk hx hw ht => ?_⟩
    · exact runNext_landFault r hg hs (run_landstAt_outside r.readied hd' ha hk)
    · exact runNext_landFault r hg hs (run_landstAt_unaligned ha)
    · refine runNext_turn r hg (run_landstAt_inside r.readied hd' ha hk (l := l) ?_ ?_) (by simpa using ht)
      · simpa [State.readied] using hx
      · rw [← hw]
        cases (y.piece q.pkt.e).slab <;> rfl
  · intro s u v core p rest y l miss hp hy hh hb hl hc hx ho hw hv
    show Host.Outcome.next ((s.landPacket core.toNat).getD s) = _
    rw [State.landPacket_direct hp hy hh hb hl hc hx ho hw, hv, Option.getD_some]

end Sys2Proof.Machine
end

section
/-! Integer instructions of two sources (R297, R340, R345, R349, R356): their heads, the modifier bytes that their opcodes
refuse, and the arithmetic of their entries beside the arithmetic of words. -/

namespace Sys2Proof.Machine

/-! ## Heads (R98) -/

/-- The guard of a head and its opcode stand in bits of their own. -/
theorem headGuard_add {n : Nat} (hn : n % 16 = 0) (g : Guard) :
    headGuard (n + (if g.neg then 8 else 0) + g.p.toNat) = g ∧
      (n + (if g.neg then 8 else 0) + g.p.toNat) / 128 = n / 128 := by
  obtain ⟨neg, p⟩ := g
  have hp := p.isLt
  refine ⟨?_, by dsimp only; split <;> omega⟩
  unfold headGuard
  congr 1
  · cases neg <;> simp only [bitOf, Nat.shiftRight_eq_div_pow, beq_eq_decide, Bool.false_eq_true, if_false, if_true,
      decide_eq_true_eq, decide_eq_false_iff_not] <;> omega
  · apply BitVec.eq_of_toNat_eq
    rw [BitVec.toNat_ofNat]
    dsimp only
    split <;> omega

/-- A head with a permitted guard decodes as its opcode does. -/
theorem decodeHead_add_guard {g : Guard} (hg : g.wf = true) {n : Nat} (hn : n % 16 = 0) (bs : List Byte) :
    decodeHead (n + (if g.neg then 8 else 0) + g.p.toNat) bs = decodeOp (n / 128) g bs := by
  obtain ⟨hguard, hop⟩ := headGuard_add hn g
  rw [decodeHead, hguard, hop, if_pos hg]

/-- Of the opcodes 0x040 to 0x055 only the first three, ADD, SUB and MUL, take a modifier byte that is not 0, and they take 8
only (R109, R117). -/
theorem decodeOp_bad_modifier {op : Nat} (hlo : 0x40 ≤ op) (hhi : op < 0x56) {n : Byte} (h0 : n ≠ 0)
    (h8 : n ≠ 8 ∨ 0x43 ≤ op) (g : Guard) (d a b : Byte) : decodeOp op g [d, a, b, n] = .error .illegalOp := by
  rw [decodeOp_register (by omega)]
  have hz : ¬n = 0#8 := h0
  delta decodeRegister
  by_cases hop : op < 0x43
  · have hsat : satOk n = false := by
      have hs : ¬n = 8#8 := h8.resolve_right (by omega)
      simp [satOk, hz, hs]
    interval_cases op <;> simp [hsat]
  · interval_cases op <;> simp [hz]

/-! ## Signed results (R33) -/

theorem intResult_eq_signedResult (sat : Bool) (i : Int) : intResult sat i = Spec.signedResult sat i := by
  cases sat with
  | false => rfl
  | true =>
    simp only [intResult, Spec.signedResult, Bool.true_and, decide_eq_true_eq, if_true, gt_iff_lt]
    rfl

/-- Without `.sat` a signed result is the integer modulo 2^64. -/
theorem saturating_eq_signedResult (sat : Bool) {w : Word} {i : Int} (hw : w = BitVec.ofInt 64 i) :
    (if sat then intResult true i else (w, 0)) = Spec.signedResult sat i := by
  cases sat with
  | false => simp [Spec.signedResult, hw]
  | true => exact intResult_eq_signedResult true i

theorem add_eq_ofInt (x y : Word) : x + y = BitVec.ofInt 64 (x.toInt + y.toInt) := by
  rw [BitVec.ofInt_add, BitVec.ofInt_toInt, BitVec.ofInt_toInt]

theorem sub_eq_ofInt (x y : Word) : x - y = BitVec.ofInt 64 (x.toInt - y.toInt) := by
  rw [Int.sub_eq_add_neg, BitVec.ofInt_add, BitVec.ofInt_neg, BitVec.ofInt_toInt, BitVec.ofInt_toInt, BitVec.sub_eq_add_neg]

theorem mul_eq_ofInt (x y : Word) : x * y = BitVec.ofInt 64 (x.toInt * y.toInt) := by
  rw [BitVec.ofInt_mul, BitVec.ofInt_toInt, BitVec.ofInt_toInt]

/-! ## Division (R297, R349) -/

theorem wordOfInt_floorDiv (i : Int) : wordOfInt (floorDiv i (2 ^ 64)) = BitVec.ofInt 64 (i / 2 ^ 64) := by
  rw [wordOfInt, floorDiv, Int.fdiv_eq_ediv_of_nonneg _ (by decide)]
  rfl

theorem divS_eq (x y : Word) : divS x y = if y = 0 then BitVec.allOnes 64 else x.sdiv y := by
  unfold divS wordOfInt
  congr 1
  apply BitVec.eq_of_toInt_eq
  rw [BitVec.toInt_ofInt, BitVec.toInt_sdiv]

theorem remS_eq (x y : Word) : remS x y = if y = 0 then x else x.srem y := by
  unfold remS wordOfInt
  rw [← BitVec.toInt_srem, BitVec.ofInt_toInt]

theorem divU_eq (x y : Word) : divU x y = if y = 0 then BitVec.allOnes 64 else x / y := by
  unfold divU toW
  rw [← BitVec.toNat_udiv, BitVec.ofNat_toNat, BitVec.setWidth_eq]

theorem remU_eq (x y : Word) : remU x y = if y = 0 then x else x % y := by
  unfold remU toW
  rw [← BitVec.toNat_umod, BitVec.ofNat_toNat, BitVec.setWidth_eq]

/-! ## Shifts and rotates (R356) -/

theorem shiftLeft_eq_ofNat (x : Word) (n : Nat) : x <<< n = BitVec.ofNat 64 (x.toNat * 2 ^ n) := by
  apply BitVec.eq_of_toNat_eq
  rw [BitVec.toNat_shiftLeft, BitVec.toNat_ofNat, Nat.shiftLeft_eq]

theorem ushiftRight_eq_ofNat (x : Word) (n : Nat) : x >>> n = BitVec.ofNat 64 (x.toNat / 2 ^ n) := by
  rw [← Nat.shiftRight_eq_div_pow, ← BitVec.toNat_ushiftRight, BitVec.ofNat_toNat, BitVec.setWidth_eq]

theorem sshiftRight_eq_ofInt (x : Word) (n : Nat) : x.sshiftRight n = BitVec.ofInt 64 (x.toInt / 2 ^ n) := by
  rw [BitVec.sshiftRight, Int.shiftRight_eq_div_pow]
  norm_cast

/-- A shift's count is below the width, at which a rotate would take it modulo 64 again. -/
theorem rotateLeft_shiftCount (x y : Word) :
    x.rotateLeft (shiftCount y) = x <<< (y.toNat % 64) ||| x >>> (64 - y.toNat % 64) := by
  rw [BitVec.rotateLeft_def, shiftCount, Nat.mod_mod]

theorem rotateRight_shiftCount (x y : Word) :
    x.rotateRight (shiftCount y) = x >>> (y.toNat % 64) ||| x <<< (64 - y.toNat % 64) := by
  rw [BitVec.rotateRight_def, shiftCount, Nat.mod_mod]

/-! ## Minimum and maximum (R340) -/

/-- Of two equal values either may be named the first. -/
theorem ite_lt_eq_ite_le {α β : Type} [LinearOrder β] (x y : α) (p q : β) :
    (if q < p then y else x) = if p ≤ q then x else y := by
  simp only [← not_lt, ite_not]

/-! ## The instructions -/

theorem plain2_congr {w v : Word → Word → Word} (h : ∀ x y, w x y = v x y) (x y : Word) :
    plain2 w x y = (v x y, 0) := by
  rw [plain2, h]

/-- An instruction `xd := f(xa, xb)` with its opcode: the head of its entry, the tail that decodes to it and what it does. -/
structure BinaryRow (i : Instr) (op : Nat) (g : Guard) (d a b : Reg) (f : Word → Word → Word × Flags) : Prop where
  opcode : 0x40 ≤ op ∧ op < 0x56
  head : (Spec.binaryHead i).1 = op * 128 + 0x20
  modifier : (Spec.binaryHead i).2 = none → 0x43 ≤ op
  decodes : decodeOp op g [d.num, a.num, b.num, (Spec.binaryHead i).2.getD 0] = .ok i
  runs : ∀ s, exec i s = op2 g d a b f s

theorem BinaryRow.of_encoding {i : Instr} {op : Nat} {g : Guard} {d a b : Reg} {fm f : Word → Word → Word × Flags}
    (hd : Laws.Encoding.Statement i) (hf : ∀ x y, fm x y = f x y)
    (hx : ∀ s, exec i s = op2 g d a b fm s := by intro s; rfl)
    (hop : 0x40 ≤ op ∧ op < 0x56 := by decide) (hh : (Spec.binaryHead i).1 = op * 128 + 0x20 := by rfl)
    (hm : (Spec.binaryHead i).2 = none → 0x43 ≤ op := by simp [Spec.binaryHead]) (hg : i.guard? = some g := by rfl)
    (hw : i.operandsWf = true := by rfl)
    (he : encodeParts i = some (op, [d.num, a.num, b.num, (Spec.binaryHead i).2.getD 0]) := by rfl) :
    BinaryRow i op g d a b f :=
  ⟨hop, hh, hm, hd g op _ hg hw he, fun s => by rw [hx, show fm = f from funext₂ hf]⟩

/-- Every instruction of `Spec.binary` has its row: opcodes 0x040 to 0x055 in the order of the entries. -/
theorem binaryRow {i : Instr} {g : Guard} {d a b : Reg} {f : Word → Word → Word × Flags}
    (h : Spec.binary i = some (g, d, a, b, f)) : ∃ op, BinaryRow i op g d a b f := by
  cases i with
  | add g d a b sat =>
    cases h
    exact ⟨0x40, .of_encoding (Laws.Encoding.add g d a b sat) (fun x y =>
      saturating_eq_signedResult sat (add_eq_ofInt x y))⟩
  | sub g d a b sat =>
    cases h
    exact ⟨0x41, .of_encoding (Laws.Encoding.sub g d a b sat) (fun x y =>
      saturating_eq_signedResult sat (sub_eq_ofInt x y))⟩
  | mul g d a b sat =>
    cases h
    exact ⟨0x42, .of_encoding (Laws.Encoding.mul g d a b sat) (fun x y =>
      saturating_eq_signedResult sat (mul_eq_ofInt x y))⟩
  | mulh g d a b =>
    cases h
    exact ⟨0x43, .of_encoding (Laws.Encoding.mulh g d a b) (plain2_congr fun _ _ => wordOfInt_floorDiv _)⟩
  | mulhu g d a b =>
    cases h
    exact ⟨0x44, .of_encoding (Laws.Encoding.mulhu g d a b) (fun _ _ => rfl)⟩
  | div g d a b =>
    cases h
    exact ⟨0x45, .of_encoding (Laws.Encoding.div g d a b) (plain2_congr divS_eq)⟩
  | divu g d a b =>
    cases h
    exact ⟨0x46, .of_encoding (Laws.Encoding.divu g d a b) (plain2_congr divU_eq)⟩
  | rem g d a b =>
    cases h
    exact ⟨0x47, .of_encoding (Laws.Encoding.rem g d a b) (plain2_congr remS_eq)⟩
  | remu g d a b =>
    cases h
    exact ⟨0x48, .of_encoding (Laws.Encoding.remu g d a b) (plain2_congr remU_eq)⟩
  | and g d a b =>
    cases h
    exact ⟨0x49, .of_encoding (Laws.Encoding.and g d a b) (fun _ _ => rfl)⟩
  | or g d a b =>
    cases h
    exact ⟨0x4a, .of_encoding (Laws.Encoding.or g d a b) (fun _ _ => rfl)⟩
  | xor g d a b =>
    cases h
    exact ⟨0x4b, .of_encoding (Laws.Encoding.xor g d a b) (fun _ _ => rfl)⟩
  | andn g d a b =>
    cases h
    exact ⟨0x4c, .of_encoding (Laws.Encoding.andn g d a b) (fun _ _ => rfl)⟩
  | shl g d a b =>
    cases h
    exact ⟨0x4d, .of_encoding (Laws.Encoding.shl g d a b) (plain2_congr fun x _ => shiftLeft_eq_ofNat x _)⟩
  | shr g d a b =>
    cases h
    exact ⟨0x4e, .of_encoding (Laws.Encoding.shr g d a b) (plain2_congr fun x _ => ushiftRight_eq_ofNat x _)⟩
  | sar g d a b =>
    cases h
    exact ⟨0x4f, .of_encoding (Laws.Encoding.sar g d a b) (plain2_congr fun x _ => sshiftRight_eq_ofInt x _)⟩
  | rol g d a b =>
    cases h
    exact ⟨0x50, .of_encoding (Laws.Encoding.rol g d a b) (plain2_congr rotateLeft_shiftCount)⟩
  | ror g d a b =>
    cases h
    exact ⟨0x51, .of_encoding (Laws.Encoding.ror g d a b) (plain2_congr rotateRight_shiftCount)⟩
  | min g d a b =>
    cases h
    exact ⟨0x52, .of_encoding (Laws.Encoding.min g d a b) (plain2_congr fun x y => ite_lt_eq_ite_le x y _ _)⟩
  | max g d a b =>
    cases h
    exact ⟨0x53, .of_encoding (Laws.Encoding.max g d a b) (plain2_congr fun x y => ite_lt_eq_ite_le x y _ _)⟩
  | minu g d a b =>
    cases h
    exact ⟨0x54, .of_encoding (Laws.Encoding.minu g d a b) (plain2_congr fun x y => ite_lt_eq_ite_le x y _ _)⟩
  | maxu g d a b =>
    cases h
    exact ⟨0x55, .of_encoding (Laws.Encoding.maxu g d a b) (plain2_congr fun x y => ite_lt_eq_ite_le x y _ _)⟩
  | _ => cases h

/-- Settles O7: the row of the instruction gives its head and its operation. -/
theorem binaryIntegerResults : Obligations.BinaryIntegerResults := by
  intro i g d a b f hi
  obtain ⟨op, row⟩ := binaryRow hi
  obtain ⟨hlo, hhi⟩ := row.opcode
  refine ⟨fun hg => ?_, fun s t h x y r hgt hd ha hb => ?_⟩
  · have hdec (bs : List Byte) :
        decodeHead ((Spec.binaryHead i).1 + (if g.neg then 8 else 0) + g.p.toNat) bs = decodeOp op g bs := by
      rw [decodeHead_add_guard hg (by rw [row.head]; omega), row.head]
      congr 1
      omega
    refine ⟨(hdec _).trans row.decodes, fun n h0 h8 => (hdec _).trans ?_⟩
    exact decodeOp_bad_modifier hlo hhi h0 (h8.imp_right row.modifier) g d.num a.num b.num
  · rw [row.runs, op2_ok r hgt hd ha hb]

end Sys2Proof.Machine
end

section
/-! FCMP (R321): its modifier byte, the condition and the flag in the words of its entry, and the turns of the normaliser
(R47). -/

namespace Sys2Proof.Machine

/-! ## The normaliser (R47) -/

/-- A subnormal value has no exponent bit and a fraction bit. -/
theorem isSubnormal_eq (f : FloatFmt) (x : Nat) :
    isSubnormal f x = decide (x / 2 ^ f.fbits % 2 ^ f.ebits = 0 ∧ x % 2 ^ f.fbits ≠ 0) := by
  have hbits : f.width - 2 + 1 - f.fbits = f.ebits := by cases f <;> rfl
  simp only [isSubnormal, bitsOf, hbits, Nat.shiftRight_eq_div_pow, Bool.decide_and, beq_eq_decide, bne, decide_not, ne_eq]

theorem normaliserTurns_eq (f : FloatFmt) (ls : List Nat) :
    Spec.normaliserTurns f ls = ceilDiv (ls.filter (isSubnormal f)).length 8 := by
  rw [Spec.normaliserTurns, ceilDiv, List.countP_eq_length_filter, funext (isSubnormal_eq f)]
  rfl

/-- A thread that forfeits `n` further turns to the normaliser, where there are any. -/
def Thread.owing (h : Thread) (n : Nat) : Thread := { h with owed := if n = 0 then h.owed else n }

theorem Thread.owing_setPred (h : Thread) (p : BitVec 4) (b : Bool) (n : Nat) :
    (h.setPred p b).owing n = (h.owing n).setPred p b := by
  unfold Thread.setPred
  split <;> rfl

theorem Thread.flagged_eq_owing (h : Thread) (f : Flags) (n : Nat) :
    h.flagged f n = ({ h with status := .ready, issued := none, flags := h.flags ||| f } : Thread).owing n := rfl

theorem run_normalise {s : State} {t : Turn} {h : Thread} (r : Running s t h) (k : Thread) (f : FloatFmt) (ls : List Nat) :
    (normalise f ls).run (s.setThread t.core t.slot k) =
      .ok ((), s.setThread t.core t.slot (k.owing (Spec.normaliserTurns f ls))) := by
  unfold normalise
  dsimp only
  rw [normaliserTurns_eq]
  by_cases hc : (ls.filter (isSubnormal f)).length = 0
  · rw [hc]
    rfl
  · have hpos : 0 < (ls.filter (isSubnormal f)).length := Nat.pos_of_ne_zero hc
    have hceil : ceilDiv (ls.filter (isSubnormal f)).length 8 ≠ 0 := by
      unfold ceilDiv
      omega
    rw [if_pos hpos, Thread.owing, if_neg hceil, run_modThr (r.setThread k), State.setThread_setThread]

/-! ## The modifier byte (R321) -/

/-- The condition codes 6 to 15 name no condition. -/
theorem fcmpOfByte?_eq_none {n : Byte} (hn : 6 ≤ n.toNat % 16) : fcmpOfByte? n = none := by
  obtain ⟨m, hm⟩ := Nat.exists_eq_add_of_le' hn
  rw [fcmpOfByte?, hm]
  rfl

theorem decodeOp_fcmp_bad_modifier {n : Byte} (hn : 6 ≤ n.toNat % 16) (g : Guard) (d a b : Byte) :
    decodeOp 0xcb g [d, a, b, n] = .error .illegalOp := by
  rw [decodeOp_float (by decide)]
  delta decodeFloat
  simp [fcmpOfByte?_eq_none hn]

/-! ## Condition and flag (R321) -/

theorem isSig_eq_false {v : FVal} (h : v.isNan = false) : v.isSig = false := by
  cases v with
  | nan s => cases h
  | inf s => rfl
  | num s m e => rfl

/-- The condition over two values of which neither is a NaN. -/
def fcondOrdered (k : FCond) (u v : FVal) : Bool :=
  match k with
  | .eq => !u.lt v && !v.lt u
  | .ne => u.lt v || v.lt u
  | .lt => u.lt v
  | .le => !v.lt u
  | .gt => v.lt u
  | .ge => !u.lt v

theorem fcmp_of_nan (k : FCond) {f : FloatFmt} {a b : Nat} (h : ((unpack f a).isNan || (unpack f b).isNan) = true) :
    fcmp k f a b = (k == .ne,
      if (unpack f a).isSig || (unpack f b).isSig || (k != .eq && k != .ne) then flagNV else 0) := by
  unfold fcmp
  cases k <;> simp [h]

theorem fcmp_of_ordered (k : FCond) {f : FloatFmt} {a b : Nat} (h : ((unpack f a).isNan || (unpack f b).isNan) = false) :
    fcmp k f a b = (fcondOrdered k (unpack f a) (unpack f b), 0) := by
  obtain ⟨ha, hb⟩ := Bool.or_eq_false_iff.mp h
  have hsig : ((unpack f a).isSig || (unpack f b).isSig) = false := by
    rw [isSig_eq_false ha, isSig_eq_false hb]
    rfl
  unfold fcmp
  cases k <;> simp [ha, hb, hsig, fcondOrdered, FVal.eqv]

/-- The two zeros, and the zeros of every exponent, are not one below the other. -/
theorem lt_zero_zero (n n' : Bool) (e e' : Int) : FVal.lt (.num n 0 e) (.num n' 0 e') = false := by
  have hz (n : Bool) (e : Int) : (FVal.num n 0 e).dyadic.m = 0 := by cases n <;> rfl
  show Dyadic.lt _ _ = false
  simp only [Dyadic.lt, hz, Int.zero_mul, lt_irrefl, decide_false]

/-! ## The instruction -/

theorem exec_fcmp {s : State} {t : Turn} {h : Thread} {g : Guard} {a b : Reg} {x y : Word} (r : Running s t h)
    (hg : h.guard g = true) (ha : s.reads t.core h a x) (hb : s.reads t.core h b y) (pd : BitVec 4) (k : FCond) (f : FF) :
    exec (.fcmp g pd k f a b) s = .next (s.decided t h pd
      (fcmp k (ffFmt f) (fbitsOf (ffFmt f) x) (fbitsOf (ffFmt f) y)).1
      (fcmp k (ffFmt f) (fbitsOf (ffFmt f) x) (fbitsOf (ffFmt f) y)).2
      (Spec.normaliserTurns (ffFmt f) [fbitsOf (ffFmt f) x, fbitsOf (ffFmt f) y])) := by
  refine runNext_turn r hg ?_ (by simpa using r.turn)
  rw [run_bind_ok (run_checkFields r.readied (by simp [Thread.field, takes_of_reads ha, takes_of_reads hb]))]
  rw [run_bind_ok (run_rd r.readied (reads_readied ha)), run_bind_ok (run_rd r.readied (reads_readied hb))]
  dsimp only
  rw [run_bind_ok (run_orFlags r.readied _), run_bind_ok (run_wrP (r.readied.setThread _) pd _), State.setThread_setThread,
    run_normalise r.readied, State.readied, State.setThread_setThread, Thread.owing_setPred, Thread.flagged_eq_owing]

/-- Settles O16: a comparison with a NaN is told apart from one that orders its operands. -/
theorem floatCompareResults : Obligations.FloatCompareResults := by
  refine ⟨fun g pd k f a b n hg => ?_, fun s t h g pd k f a b x y r hg ha hb => ?_,
    fun e e' n n' => lt_zero_zero n n' e e'⟩
  · dsimp only
    rw [decodeHead_add_guard hg (by decide), decodeHead_add_guard hg (by decide)]
    exact ⟨Laws.Encoding.fcmp g pd k f a b g _ _ rfl rfl rfl, fun hn => decodeOp_fcmp_bad_modifier hn g _ _ _⟩
  · dsimp only
    rw [exec_fcmp r hg ha hb]
    unfold fbitsOf
    cases hn : (unpack (ffFmt f) (x.toNat % 2 ^ (ffFmt f).width)).isNan ||
      (unpack (ffFmt f) (y.toNat % 2 ^ (ffFmt f).width)).isNan with
    | true =>
      rw [fcmp_of_nan k hn]
      rfl
    | false =>
      obtain ⟨hx, hy⟩ := Bool.or_eq_false_iff.mp hn
      rw [fcmp_of_ordered k hn, isSig_eq_false hx, isSig_eq_false hy]
      cases k <;> rfl

end Sys2Proof.Machine
end

section
/-! The predicate instructions (R352) and the integer compares (R309): a thread's predicates after a write to one, the bytes
that the predicate opcodes refuse, and an instruction that decides a predicate. -/

namespace Sys2Proof.Machine

/-! ## Predicates (R58) -/

theorem Thread.setPred_zero (h : Thread) (b : Bool) : h.setPred 0 b = h := if_pos rfl

/-- A write to a predicate other than p0 is what that predicate then reads, and no other is changed. -/
theorem Thread.pred_setPred (h : Thread) {p : BitVec 4} (hp : p ≠ 0) (b : Bool) (q : BitVec 4) :
    (h.setPred p b).pred q = if q = p then b else h.pred q := by
  have hbit : (BitVec.twoPow 16 p.toNat).getLsbD q.toNat = decide (q = p) := by
    rw [BitVec.getLsbD_twoPow, decide_eq_true p.isLt, Bool.true_and, decide_eq_decide, BitVec.toNat_inj, eq_comm]
  unfold Thread.setPred Thread.pred
  rw [if_neg hp, ← BitVec.twoPow_eq]
  cases b with
  | true =>
    show (h.preds ||| BitVec.twoPow 16 p.toNat).getLsbD q.toNat = _
    rw [BitVec.getLsbD_or, hbit]
    by_cases hq : q = p <;> simp [hq]
  | false =>
    show (h.preds &&& ~~~BitVec.twoPow 16 p.toNat).getLsbD q.toNat = _
    rw [BitVec.getLsbD_and, BitVec.getLsbD_not, decide_eq_true q.isLt, hbit]
    by_cases hq : q = p <;> simp [hq]

theorem Thread.pred_setPred_same (h : Thread) {p : BitVec 4} (hp : p ≠ 0) (b : Bool) : (h.setPred p b).pred p = b := by
  rw [h.pred_setPred hp, if_pos rfl]

theorem Thread.pred_setPred_other (h : Thread) {p q : BitVec 4} (hq : q ≠ p) (b : Bool) :
    (h.setPred p b).pred q = h.pred q := by
  by_cases hp : p = 0
  · rw [hp, h.setPred_zero]
  · rw [h.pred_setPred hp, if_neg hq]

/-- No write changes p0: one to it is discarded. -/
theorem Thread.pred_setPred_zero (h : Thread) (p : BitVec 4) (b : Bool) : (h.setPred p b).pred 0 = h.pred 0 := by
  by_cases hp : p = 0
  · rw [hp, h.setPred_zero]
  · exact h.pred_setPred_other (Ne.symm hp) b

/-! ## Encodings (R352) -/

/-- The predicate opcodes, 0x05D to 0x061, refuse a modifier byte that is not 0. -/
theorem decodeOp_predicate_bad_modifier {op : Nat} (hlo : 0x5d ≤ op) (hhi : op ≤ 0x61) (g : Guard) (d a b : Byte)
    {m : Byte} (hm : m ≠ 0) : decodeOp op g [d, a, b, m] = .error .illegalOp := by
  have hz : ¬m = 0#8 := hm
  rw [decodeOp_register (by omega)]
  delta decodeRegister
  interval_cases op <;> simp [hz]

/-- PNOT and PMOV, opcodes 0x060 and 0x061, refuse a second source that is not 0. -/
theorem decodeOp_predicate_unused_source {op : Nat} (hlo : 0x60 ≤ op) (hhi : op ≤ 0x61) (g : Guard) (d a m : Byte)
    {b : Byte} (hb : b ≠ 0) : decodeOp op g [d, a, b, m] = .error .illegalOp := by
  have hz : ¬b = 0#8 := hb
  rw [decodeOp_register (by omega)]
  delta decodeRegister
  interval_cases op <;> simp [hz]

/-! ## Conditions (R309) -/

/-- The conditions over the signed and unsigned numbers of two words are those over the words. -/
theorem condHolds_eq_holds (c : Cond) (x y : Word) : condHolds c x y = Spec.holds c x y := by
  cases c <;> rfl

/-! ## Instructions that decide a predicate -/

section
variable {s : State} {t : Turn} {h : Thread} {g : Guard}

/-- A body that comes to a write of its predicate with nothing else changed. -/
theorem runNext_wrP (r : Running s t h) (hg : h.guard g = true) {pd : BitVec 4} {b : Bool} {body : Act Unit}
    (hb : body.run (s.readied t h) = (wrP pd b).run (s.readied t h)) :
    runNext g body s = .next (s.decided t h pd b 0) := by
  refine runNext_turn r hg (hb.trans ?_) (by simpa using r.turn)
  rw [run_wrP r.readied, State.readied, State.setThread_setThread, Thread.flagged_zero]

/-- Predicates give a predicate: the sources are read and change nothing. -/
theorem opP_ok (r : Running s t h) (hg : h.guard g = true) {f : Act Bool} {b : Bool}
    (hf : f.run (s.readied t h) = .ok (b, s.readied t h)) (pd : BitVec 4) :
    opP g pd f s = .next (s.decided t h pd b 0) :=
  runNext_wrP r hg (run_bind_ok hf)

/-- A source predicate reads as the thread's. -/
theorem run_rdP_readied (r : Running s t h) (p : BitVec 4) :
    (rdP p).run (s.readied t h) = .ok (h.pred p, s.readied t h) := run_rdP r.readied p

/-- A function of two source predicates. -/
theorem run_rdP_rdP (r : Running s t h) (pa pb : BitVec 4) (f : Bool → Bool → Bool) :
    (do let x ← rdP pa; let y ← rdP pb; return f x y : Act Bool).run (s.readied t h) =
      .ok (f (h.pred pa) (h.pred pb), s.readied t h) := by
  rw [run_bind_ok (run_rdP_readied r pa), run_bind_ok (run_rdP_readied r pb), run_pure]

theorem exec_cmp (r : Running s t h) (hg : h.guard g = true) {a b : Reg} {x y : Word} (ha : s.reads t.core h a x)
    (hb : s.reads t.core h b y) (pd : BitVec 4) (c : Cond) :
    exec (.cmp g pd c a b) s = .next (s.decided t h pd (Spec.holds c x y) 0) := by
  refine runNext_wrP r hg ?_
  rw [run_bind_ok (run_checkFields r.readied (by simp [Thread.field, takes_of_reads ha, takes_of_reads hb])),
    run_bind_ok (run_rd r.readied (reads_readied ha)), run_bind_ok (run_rd r.readied (reads_readied hb)),
    condHolds_eq_holds]

theorem exec_cmpi (r : Running s t h) (hg : h.guard g = true) {a : Reg} {x : Word} (ha : s.reads t.core h a x)
    (pd : BitVec 4) (c : Cond) (imm : BitVec 32) :
    exec (.cmpi g pd c a imm) s = .next (s.decided t h pd (Spec.holds c x (imm.signExtend 64)) 0) := by
  refine runNext_wrP r hg ?_
  rw [run_bind_ok (run_checkFields r.readied (by simp [Thread.field, takes_of_reads ha])),
    run_bind_ok (run_rd r.readied (reads_readied ha)), condHolds_eq_holds, sext32]

theorem exec_pand (r : Running s t h) (hg : h.guard g = true) (pd pa pb : BitVec 4) :
    exec (.pand g pd pa pb) s = .next (s.decided t h pd (h.pred pa && h.pred pb) 0) :=
  opP_ok r hg (run_rdP_rdP r pa pb and) pd

theorem exec_por (r : Running s t h) (hg : h.guard g = true) (pd pa pb : BitVec 4) :
    exec (.por g pd pa pb) s = .next (s.decided t h pd (h.pred pa || h.pred pb) 0) :=
  opP_ok r hg (run_rdP_rdP r pa pb or) pd

theorem exec_pxor (r : Running s t h) (hg : h.guard g = true) (pd pa pb : BitVec 4) :
    exec (.pxor g pd pa pb) s = .next (s.decided t h pd (xor (h.pred pa) (h.pred pb)) 0) :=
  opP_ok r hg (run_rdP_rdP r pa pb bne) pd

theorem exec_pnot (r : Running s t h) (hg : h.guard g = true) (pd pa : BitVec 4) :
    exec (.pnot g pd pa) s = .next (s.decided t h pd (!h.pred pa) 0) :=
  opP_ok r hg (run_bind_ok (run_rdP_readied r pa)) pd

theorem exec_pmov (r : Running s t h) (hg : h.guard g = true) (pd pa : BitVec 4) :
    exec (.pmov g pd pa) s = .next (s.decided t h pd (h.pred pa) 0) :=
  opP_ok r hg (run_rdP_readied r pa) pd

end

/-- Settles O11: each head decodes as its opcode does, each instruction decides its predicate, and a write to a predicate
other than p0 changes that predicate alone. -/
theorem predicateResults : Obligations.PredicateResults := by
  refine ⟨fun g pd pa pb n hg => ?_, fun g pd pa pb s t h r hgt => ?_⟩
  · dsimp only
    simp only [List.forall_mem_cons, List.not_mem_nil, false_imp_iff, implies_true, and_true]
    simp (disch := decide) only [← Nat.add_assoc, decodeHead_add_guard hg]
    have modifier {op : Nat} (hlo : 0x5d ≤ op) (hhi : op ≤ 0x61) (d a b : Byte) (hn : n ≠ 0) :=
      decodeOp_predicate_bad_modifier hlo hhi g d a b hn
    have fields {op : Nat} (hlo : 0x60 ≤ op) (hhi : op ≤ 0x61) (d a : Byte) (hn : n ≠ 0) :=
      And.intro (decodeOp_predicate_unused_source hlo hhi g d a 0 hn) (modifier (by omega) hhi d a 0 hn)
    exact ⟨⟨⟨Laws.Encoding.pand g pd pa pb g _ _ rfl rfl rfl, modifier (by decide) (by decide) _ _ _⟩,
        ⟨Laws.Encoding.por g pd pa pb g _ _ rfl rfl rfl, modifier (by decide) (by decide) _ _ _⟩,
        Laws.Encoding.pxor g pd pa pb g _ _ rfl rfl rfl, modifier (by decide) (by decide) _ _ _⟩,
      ⟨Laws.Encoding.pnot g pd pa g _ _ rfl rfl rfl, fields (by decide) (by decide) _ _⟩,
      Laws.Encoding.pmov g pd pa g _ _ rfl rfl rfl, fields (by decide) (by decide) _ _⟩
  · exact ⟨fun c a b x y ha hb => exec_cmp r hgt ha hb pd c, fun c a imm x ha => exec_cmpi r hgt ha pd c imm,
      exec_pand r hgt pd pa pb, exec_por r hgt pd pa pb, exec_pxor r hgt pd pa pb, exec_pnot r hgt pd pa,
      exec_pmov r hgt pd pa, fun b => ⟨fun h0 => ⟨h0, (h.pred_setPred_zero pd b).trans h0⟩,
        fun hd => h.pred_setPred_same hd b, fun ha => h.pred_setPred_other ha b⟩⟩

end Sys2Proof.Machine
end
